-- ==== Sys2Proof/Word.lean ====
section
/-! DEFINITION. The word types of the part (01 R9), their plainest arithmetic, and the data that some events carry. -/

namespace Sys2Proof

/-- A byte of memory. -/
abbrev Byte := BitVec 8
/-- A vector lane or an FP32 value. -/
abbrev W32 := BitVec 32
/-- A scalar register, an extension register or an address. -/
abbrev Word := BitVec 64

/-- Bits [hi:lo] of a word, as a number. -/
def bits {n : Nat} (x : BitVec n) (hi lo : Nat) : Nat := x.toNat / 2 ^ lo % 2 ^ (hi - lo + 1)

/-- Bit i of a word. -/
def bit {n : Nat} (x : BitVec n) (i : Nat) : Bool := x.getLsbD i

/-! ### What arrives with an event -/

/-- What a control flit of a fabric link shows (06 R159): 0 where the other side asks for a replay, the flits that it can take,
the last group it has, the sequence number of its own group, and that group's CRC-32 with the bytes of the 31 flits before it. -/
structure ControlFlit where
  good : Nat
  credits : Nat
  ack : Nat
  seq : Nat
  crc : BitVec 32
  flits : List (BitVec 8)
  deriving DecidableEq, Repr

/-- A fabric packet (06 R160): its header, fabric word and payload; the host agent of a host adapter, 0 for a module. -/
structure FabricFlits where
  hdr : BitVec 128
  fab : BitVec 64
  payload : List (BitVec 8)
  host : Nat
  deriving DecidableEq, Repr

/-- A timestamp exchange (06 R162): the link, by die and port, ticks ahead of the neighbour behind it, and the time master that
firmware names. -/
structure Timestamp where
  die : Nat
  port : Nat
  offset : Int
  master : Nat
  deriving DecidableEq, Repr

/-- What firmware hands over with a partition: its descriptor (13 R278), ways to pin (03 R75) and bindings (13 R274). -/
structure PartitionWords where
  desc : List (BitVec 64)
  pins : List (BitVec 64)
  binds : List (BitVec 64)
  deriving DecidableEq, Repr

/-- A host agent and the tag of its request (13 R276), and the fabric port it came by: the die times 2, plus the port. -/
structure Requester where
  host : Nat
  tag : Nat
  port : Nat
  deriving DecidableEq, Repr

/-- A chunk of a recovery image, and the end of one (13 R285). -/
structure ImageChunk where
  off : Nat
  data : List (BitVec 8)
  deriving DecidableEq, Repr
structure ImageEnd where
  req : Requester
  len : Nat
  deriving DecidableEq, Repr

/-- A fabric port whose link is up (13 R284), with the routes that firmware writes (06 R160). -/
structure LinkUp where
  port : Nat
  routes : List (BitVec 64)
  deriving DecidableEq, Repr

end Sys2Proof
end

