-- ==== Sys2Proof/Machine/Maps.lean ====
section
/-! DEFINITION. The two plain-data maps the state is made of: a map from numbers with a default, and byte memory in
its canonical form. -/

namespace Sys2Proof.Machine

/-- A map from numbers, kept as a list of pairs in rising key order. -/
abbrev SMap (α : Type) := List (Nat × α)

/-- The value at k, or the default. -/
def SMap.get {α : Type} (m : SMap α) (d : α) (k : Nat) : α :=
  match m with
  | [] => d
  | (j, v) :: t => if k = j then v else SMap.get t d k

/-- The value at k replaced by v. -/
def SMap.set {α : Type} (m : SMap α) (k : Nat) (v : α) : SMap α :=
  match m with
  | [] => [(k, v)]
  | (j, w) :: t => if k = j then (k, v) :: t else if k < j then (k, v) :: (j, w) :: t else (j, w) :: SMap.set t k v

/-- The value at k, if one is listed. -/
def SMap.find {α : Type} (m : SMap α) (k : Nat) : Option α :=
  match m with
  | [] => none
  | (j, v) :: t => if k = j then some v else SMap.find t k

/-- The map with k no longer listed. -/
def SMap.drop {α : Type} (m : SMap α) (k : Nat) : SMap α := m.filter (fun p => p.1 ≠ k)

/-- Byte memory: listed cells in rising address order, none of them zero. -/
abbrev Mem := List Host.Cell

/-- What an unlisted address reads as (notes/assumptions/7.md). DESIGN CHOICE. -/
def Mem.unlisted : Byte := 0

/-- The byte at an address. -/
def Mem.get (m : Mem) (a : Nat) : Byte :=
  match m with
  | [] => Mem.unlisted
  | (j, v) :: t => if a = j then v else Mem.get t a

/-- A cell put into its place among cells that do not list its address. -/
def Mem.insert (m : Mem) (a : Nat) (b : Byte) : Mem :=
  match m with
  | [] => [(a, b)]
  | (j, v) :: t => if a < j then (a, b) :: (j, v) :: t else (j, v) :: Mem.insert t a b

/-- The byte at an address replaced; the canonical form is kept. -/
def Mem.set (m : Mem) (a : Nat) (b : Byte) : Mem :=
  let r := m.filter (fun p => p.1 ≠ a)
  if b = Mem.unlisted then r else Mem.insert r a b

/-- Every address strictly above l, and rising. -/
def Mem.risingFrom (l : Nat) : Mem → Bool
  | [] => true
  | (a, _) :: t => decide (l ≤ a) && Mem.risingFrom (a + 1) t

/-- The canonical form: rising addresses, no cell equal to what an unlisted address reads as. -/
def Memory.wf (m : Mem) : Bool := Mem.risingFrom 0 m && m.all (fun p => p.2 ≠ Mem.unlisted)

/-- n bytes from an address upward. -/
def Mem.bytes (m : Mem) (a : Nat) : Nat → List Byte
  | 0 => []
  | n + 1 => Mem.get m a :: Mem.bytes m (a + 1) n

/-- Bytes stored from an address upward. -/
def Mem.write (m : Mem) (a : Nat) : List Byte → Mem
  | [] => m
  | b :: t => Mem.write (Mem.set m a b) (a + 1) t

/-- A run of addresses cleared. -/
def Mem.clear (m : Mem) (a n : Nat) : Mem := m.filter (fun p => ¬ (a ≤ p.1 ∧ p.1 < a + n))

/-- The little-endian number of a list of bytes (00 R4). -/
def leNat : List Byte → Nat
  | [] => 0
  | b :: t => b.toNat + 256 * leNat t

/-- The n little-endian bytes of a number. -/
def leBytes : Nat → Nat → List Byte
  | 0, _ => []
  | n + 1, x => BitVec.ofNat 8 x :: leBytes n (x / 256)

/-- Little-endian 64-bit words of a list of bytes. -/
def leWords : Nat → List Byte → List Word
  | 0, _ => []
  | n + 1, l => BitVec.ofNat 64 (leNat (l.take 8)) :: leWords n (l.drop 8)

/-- The bytes of a list of 64-bit words. -/
def wordBytes (l : List Word) : List Byte := l.flatMap (fun w => leBytes 8 w.toNat)

end Sys2Proof.Machine
end

