-- ==== Sys2Proof/Machine/Fp.lean ====
section
/-! DEFINITION. Number formats and arithmetic (05): every result is the exact value, rounded once. -/

namespace Sys2Proof.Machine

/-! ### Formats (05 Table 5-1) -/

/-- A floating-point format: fraction width, exponent width, bias, largest finite code, whether it has an infinity. -/
structure Fmt where
  frac : Nat
  ex : Nat
  bias : Nat
  top : Nat
  inf : Bool
  deriving DecidableEq, Repr

def fp32 : Fmt := { frac := 23, ex := 8, bias := 127, top := 0x7F7FFFFF, inf := true }
def bf16 : Fmt := { frac := 7, ex := 8, bias := 127, top := 0x7F7F, inf := true }
def fp16 : Fmt := { frac := 10, ex := 5, bias := 15, top := 0x7BFF, inf := true }
def e5m2 : Fmt := { frac := 2, ex := 5, bias := 15, top := 0x7B, inf := true }
def e4m3 : Fmt := { frac := 3, ex := 4, bias := 7, top := 0x7E, inf := false }

/-- Bits of a format. -/
def Fmt.width (f : Fmt) : Nat := f.frac + f.ex + 1
/-- The sign bit's weight. -/
def Fmt.signBit (f : Fmt) : Nat := 2 ^ (f.frac + f.ex)
/-- The code of infinity, where there is one. -/
def Fmt.infCode (f : Fmt) : Nat := (2 ^ f.ex - 1) * 2 ^ f.frac
/-- The default NaN (05 R126). -/
def Fmt.nan (f : Fmt) : Nat := if f.inf then f.infCode + 2 ^ (f.frac - 1) else 0x7F

/-- The format of a code of Table 15-14. -/
def fmtOf (c : Nat) : Option Fmt :=
  match c with
  | 1 => some bf16
  | 2 => some fp16
  | 3 => some e4m3
  | 4 => some e5m2
  | 7 => some fp32
  | _ => none

/-- An exact number m * 2^e. -/
structure Dy where
  m : Int
  e : Int
  deriving DecidableEq, Repr

/-- What a code stands for (05 R117, R118). A NaN keeps its fraction and its quiet bit. -/
inductive FVal where
  | fin (neg : Bool) (v : Dy)
  | inf (neg : Bool)
  | nan (neg : Bool) (frac : Nat) (quiet : Bool)
  deriving DecidableEq, Repr

def Fmt.val (f : Fmt) (x : Nat) : FVal :=
  let neg := x / f.signBit % 2 = 1
  let ef := x % f.signBit / 2 ^ f.frac
  let fr := x % 2 ^ f.frac
  if f.inf && ef = 2 ^ f.ex - 1 then
    if fr = 0 then .inf neg else .nan neg fr (decide (2 ^ (f.frac - 1) ≤ fr))
  else if !f.inf && x % f.signBit = 0x7F then .nan neg fr true
  else
    let mag : Nat := if ef = 0 then fr else 2 ^ f.frac + fr
    let e : Int := (if ef = 0 then (1 : Int) else (ef : Int)) - f.bias - f.frac
    .fin neg { m := if neg then -(mag : Int) else mag, e := e }

/-- The flags (12 Table 12-7): NV, DZ, OF, UF, NX. -/
def fNV : BitVec 5 := 16
def fDZ : BitVec 5 := 8
def fOF : BitVec 5 := 4
def fUF : BitVec 5 := 2
def fNX : BitVec 5 := 1

/-- A code with the flags of the operation that made it. -/
abbrev FRes := Nat × BitVec 5

/-! ### Rounding (05 R124, R125) -/

/-- q + r/d with 0 <= r < d rounded to an integer: 0 nearest-even, 1 toward zero, 2 down, 3 up; neg is the sign of the
value whose magnitude is rounded. -/
def roundInt (mode : Nat) (neg : Bool) (q r d : Nat) : Nat :=
  if r = 0 then q
  else match mode with
    | 0 => if d < 2 * r || (2 * r = d && q % 2 = 1) then q + 1 else q
    | 1 => q
    | 2 => if neg then q + 1 else q
    | _ => if neg then q else q + 1

/-- n / d divided by 2^qe, as quotient, remainder and divisor. -/
def scaled (n d : Nat) (qe : Int) : Nat × Nat × Nat :=
  let n' := if qe < 0 then n * 2 ^ (-qe).toNat else n
  let d' := if qe < 0 then d else d * 2 ^ qe.toNat
  (n' / d', n' % d', d')

/-- floor(log2 (n / d)) for n, d > 0. -/
def ilog2 (n d : Nat) : Int :=
  let e : Int := (Nat.log2 n : Int) - (Nat.log2 d : Int)
  let below := if e < 0 then decide (n * 2 ^ (-e).toNat < d) else decide (n < d * 2 ^ e.toNat)
  if below then e - 1 else e

/-- The rounding of n / d to a format. `sat` is the .sat rule of 05 R130. -/
def roundRat (f : Fmt) (mode : Nat) (sat : Bool) (neg : Bool) (n d : Nat) : FRes :=
  let s := if neg then f.signBit else 0
  if n = 0 then (s, 0)
  else
    let emin : Int := 1 - f.bias
    let e := ilog2 n d
    let qe := max e emin - f.frac
    let (q, r, dd) := scaled n d qe
    let v := roundInt mode neg q r dd
    let code := (qe + f.frac - emin + 1).toNat * 2 ^ f.frac + v - 2 ^ f.frac
    let inex : Bool := decide (r ≠ 0)
    let tiny : Bool :=
      if emin ≤ e then false
      else
        let (q1, r1, d1) := scaled n d (e - f.frac)
        !(decide (e + 1 = emin) && decide (2 ^ (f.frac + 1) ≤ roundInt mode neg q1 r1 d1))
    if f.top < code then
      let toInf := f.inf && !sat && (mode = 0 || (mode = 2 && neg) || (mode = 3 && !neg))
      (s + (if toInf then f.infCode else f.top), fOF ||| fNX)
    else (s + code, (if inex then fNX else 0) ||| (if tiny && inex then fUF else 0))

/-- The rounding of an exact number; `zneg` is the sign an exact zero takes. -/
def roundDy (f : Fmt) (mode : Nat) (sat : Bool) (zneg : Bool) (v : Dy) : FRes :=
  if v.m = 0 then ((if zneg then f.signBit else 0), 0)
  else
    let neg := decide (v.m < 0)
    if v.e < 0 then roundRat f mode sat neg v.m.natAbs (2 ^ (-v.e).toNat)
    else roundRat f mode sat neg (v.m.natAbs * 2 ^ v.e.toNat) 1

def Dy.neg (a : Dy) : Dy := { a with m := -a.m }
def Dy.add (a b : Dy) : Dy :=
  let e := min a.e b.e
  { m := a.m * (2 ^ (a.e - e).toNat : Nat) + b.m * (2 ^ (b.e - e).toNat : Nat), e := e }
def Dy.sub (a b : Dy) : Dy := a.add b.neg
def Dy.mul (a b : Dy) : Dy := { m := a.m * b.m, e := a.e + b.e }
def Dy.ofInt (n : Int) : Dy := { m := n, e := 0 }
/-- The sign of a - b. -/
def Dy.cmp (a b : Dy) : Int := (a.sub b).m
def Dy.lt (a b : Dy) : Bool := decide (a.cmp b < 0)
def Dy.le (a b : Dy) : Bool := decide (a.cmp b ≤ 0)
def Dy.zero : Dy := { m := 0, e := 0 }

/-- Round(n / d) for exact numbers, d not zero. -/
def roundQuot (f : Fmt) (mode : Nat) (zneg : Bool) (n d : Dy) : FRes :=
  if n.m = 0 then ((if zneg then f.signBit else 0), 0)
  else
    let neg := decide (n.m < 0) != decide (d.m < 0)
    let k := n.e - d.e
    if k < 0 then roundRat f mode false neg n.m.natAbs (d.m.natAbs * 2 ^ (-k).toNat)
    else roundRat f mode false neg (n.m.natAbs * 2 ^ k.toNat) d.m.natAbs

/-! ### NaNs (05 R126) -/

def FVal.isNan : FVal → Bool
  | .nan .. => true
  | _ => false
/-- NV of a signalling NaN. -/
def FVal.snan : FVal → BitVec 5
  | .nan _ _ false => fNV
  | _ => 0
def FVal.neg : FVal → Bool
  | .fin n _ => n
  | .inf n => n
  | .nan n _ _ => n

/-- A NaN code with its quiet bit set. -/
def Fmt.quiet (f : Fmt) (x : Nat) : Nat :=
  if f.inf && x / 2 ^ (f.frac - 1) % 2 = 0 then x + 2 ^ (f.frac - 1) else x

/-- The first NaN of two operands, quieted, with NV when any operand is signalling. -/
def nan2 (x y : Nat) : Option FRes :=
  let a := fp32.val x
  let b := fp32.val y
  if a.isNan then some (fp32.quiet x, a.snan ||| b.snan)
  else if b.isNan then some (fp32.quiet y, b.snan)
  else none

def nanInvalid : FRes := (fp32.nan, fNV)
def signInf (neg : Bool) : Nat := if neg then 0xFF800000 else 0x7F800000
def signZero (neg : Bool) : Nat := if neg then 0x80000000 else 0

/-! ### FP32 arithmetic -/

/-- x + y, or x - y when `sub`. -/
def fAddSub (mode : Nat) (sub : Bool) (x y : Nat) : FRes :=
  match nan2 x y with
  | some r => r
  | none =>
    match fp32.val x, fp32.val y with
    | .inf a, .inf b => if a = (b != sub) then (signInf a, 0) else nanInvalid
    | .inf a, _ => (signInf a, 0)
    | _, .inf b => (signInf (b != sub), 0)
    | .fin a u, .fin b v =>
      let w := if sub then u.sub v else u.add v
      let b' := b != sub
      roundDy fp32 mode false (if u.m = 0 ∧ v.m = 0 ∧ a = b' then a else mode = 2) w
    | _, _ => nanInvalid

def fAdd (mode x y : Nat) : FRes := fAddSub mode false x y
def fSub (mode x y : Nat) : FRes := fAddSub mode true x y

def fMul (mode x y : Nat) : FRes :=
  match nan2 x y with
  | some r => r
  | none =>
    match fp32.val x, fp32.val y with
    | .inf a, .inf b => (signInf (a != b), 0)
    | .inf a, .fin b v => if v.m = 0 then nanInvalid else (signInf (a != b), 0)
    | .fin a u, .inf b => if u.m = 0 then nanInvalid else (signInf (a != b), 0)
    | .fin a u, .fin b v => roundDy fp32 mode false (a != b) (u.mul v)
    | _, _ => nanInvalid

def fDiv (mode x y : Nat) : FRes :=
  match nan2 x y with
  | some r => r
  | none =>
    match fp32.val x, fp32.val y with
    | .inf _, .inf _ => nanInvalid
    | .inf a, .fin b _ => (signInf (a != b), 0)
    | .fin a _, .inf b => (signZero (a != b), 0)
    | .fin a u, .fin b v =>
      if v.m = 0 then (if u.m = 0 then nanInvalid else (signInf (a != b), fDZ))
      else roundQuot fp32 mode (a != b) u v
    | _, _ => nanInvalid

/-- The integer square root, bit by bit from bit n - 1. -/
def isqrtFrom (x : Nat) : Nat → Nat → Nat
  | 0, r => r
  | n + 1, r => if (r + 2 ^ n) * (r + 2 ^ n) ≤ x then isqrtFrom x n (r + 2 ^ n) else isqrtFrom x n r

def isqrt (x : Nat) : Nat := isqrtFrom x (Nat.log2 x / 2 + 1) 0

/-- Round(sqrt(n / d)) of a positive rational: the root of n / d * 2^(2k), with a half added when it is not exact, so
that the rounding meets neither a tie nor an exact value that is not there. -/
def roundSqrt (mode : Nat) (n d : Nat) : FRes :=
  let k := 200
  let t := n * 2 ^ (2 * k) / d
  let q := isqrt t
  if q * q * d = n * 2 ^ (2 * k) then roundRat fp32 mode false false q (2 ^ k)
  else roundRat fp32 mode false false (2 * q + 1) (2 ^ (k + 1))

/-- A positive exact number as a fraction. -/
def Dy.frac (v : Dy) : Nat × Nat := if v.e < 0 then (v.m.natAbs, 2 ^ (-v.e).toNat) else (v.m.natAbs * 2 ^ v.e.toNat, 1)

def fSqrt (mode x : Nat) : FRes :=
  match fp32.val x with
  | .nan _ _ q => (fp32.quiet x, if q then 0 else fNV)
  | .inf neg => if neg then nanInvalid else (x, 0)
  | .fin neg v =>
    if v.m = 0 then (x, 0)
    else if neg then nanInvalid
    else roundSqrt mode v.frac.1 v.frac.2

/-- a * b + c with one rounding (05 R127). -/
def fFma (mode x y z : Nat) : FRes :=
  let a := fp32.val x
  let b := fp32.val y
  let c := fp32.val z
  let zeroInf : Bool := match a, b with
    | .fin _ u, .inf _ => u.m = 0
    | .inf _, .fin _ v => v.m = 0
    | _, _ => false
  match nan2 x y with
  | some r => (r.1, r.2 ||| c.snan)
  | none =>
    if c.isNan then (fp32.quiet z, c.snan ||| (if zeroInf then fNV else 0))
    else if zeroInf then nanInvalid
    else
      let pn := a.neg != b.neg
      match a, b, c with
      | .fin _ u, .fin _ v, .fin cn w =>
        let p := u.mul v
        roundDy fp32 mode false (if p.m = 0 ∧ w.m = 0 ∧ pn = cn then cn else mode = 2) (p.add w)
      | .fin _ _, .fin _ _, .inf cn => (signInf cn, 0)
      | _, _, .inf cn => if pn = cn then (signInf cn, 0) else nanInvalid
      | _, _, _ => (signInf pn, 0)

/-- The total order of numbers FMIN and FMAX use: -0 below +0 (05 R128). -/
def fLess (x y : Nat) : Bool :=
  match fp32.val x, fp32.val y with
  | .inf a, .inf b => a && !b
  | .inf a, _ => a
  | _, .inf b => !b
  | .fin a u, .fin b v => u.lt v || (u.m = 0 && v.m = 0 && a && !b)
  | _, _ => false

def fMinMax (mx : Bool) (x y : Nat) : FRes :=
  let a := fp32.val x
  let b := fp32.val y
  let nv := a.snan ||| b.snan
  if a.isNan then (if b.isNan then fp32.quiet x else y, nv)
  else if b.isNan then (x, nv)
  else if mx then ((if fLess x y then y else x), nv)
  else ((if fLess y x then y else x), nv)

/-- A comparison (23 R379): 0 eq, 1 lt, 2 le, 3 ne. -/
def fCmp (rel x y : Nat) : Bool × BitVec 5 :=
  let a := fp32.val x
  let b := fp32.val y
  if a.isNan || b.isNan then (rel = 3, a.snan ||| b.snan)
  else
    let zz := x % 0x80000000 = 0 && y % 0x80000000 = 0
    let eq := x = y || zz
    let lt := !zz && fLess x y
    ((match rel with
      | 0 => eq
      | 1 => lt
      | 2 => lt || eq
      | _ => !eq), 0)

/-- The class mask (23 R378). -/
def fClass (x : Nat) : Nat :=
  let neg := x / 0x80000000 = 1
  match fp32.val x with
  | .inf n => if n then 1 else 2 ^ 7
  | .nan _ _ q => if q then 2 ^ 9 else 2 ^ 8
  | .fin _ _ =>
    if x % 0x80000000 = 0 then (if neg then 2 ^ 3 else 2 ^ 4)
    else if x % 0x80000000 < 0x800000 then (if neg then 2 ^ 2 else 2 ^ 5)
    else (if neg then 2 ^ 1 else 2 ^ 6)

/-! ### Conversions (05 R130, R131) -/

/-- A NaN of one format as a NaN of another. -/
def cvtNan (f g : Fmt) (neg : Bool) (fr : Nat) : Nat :=
  (if neg then g.signBit else 0) +
    (if !g.inf then 0x7F
     else g.quiet (g.infCode + (if g.frac ≤ f.frac then fr / 2 ^ (f.frac - g.frac) else fr * 2 ^ (g.frac - f.frac))))

/-- Between floating-point formats. -/
def cvtFF (f g : Fmt) (mode : Nat) (sat : Bool) (x : Nat) : FRes :=
  match f.val x with
  | .nan neg fr q =>
    (if f = g then f.quiet x else cvtNan f g neg fr, if q then 0 else fNV)
  | .inf neg =>
    let s := if neg then g.signBit else 0
    if g.inf then (s + g.infCode, 0) else if sat then (s + g.top, fOF) else (s + 0x7F, fNV)
  | .fin neg v => roundDy g mode sat neg v

/-- An exact number rounded to an integer, with whether it was inexact. -/
def Dy.toInt (mode : Nat) (v : Dy) : Int × Bool :=
  let neg := decide (v.m < 0)
  let (n, d) := v.frac
  let r := roundInt mode neg (n / d) (n % d) d
  (if neg then -(r : Int) else r, decide (n % d ≠ 0))

/-- From floating point to an integer of w bits. -/
def cvtFI (f : Fmt) (w mode : Nat) (x : Nat) : Int × BitVec 5 :=
  let hi : Int := 2 ^ (w - 1) - 1
  let lo : Int := -(2 ^ (w - 1) : Int)
  match f.val x with
  | .nan .. => (0, fNV)
  | .inf neg => (if neg then lo else hi, fNV)
  | .fin _ v =>
    let (i, inex) := v.toInt mode
    if hi < i then (hi, fNV) else if i < lo then (lo, fNV) else (i, if inex then fNX else 0)

/-- From an integer. -/
def cvtIF (g : Fmt) (mode : Nat) (sat : Bool) (i : Int) : FRes := roundDy g mode sat false (Dy.ofInt i)

/-- Width of an integer code of Table 15-14. -/
def intWidth (c : Nat) : Nat := match c with
  | 5 => 8
  | 8 => 16
  | 9 => 32
  | _ => 64

/-! ### The 4-bit code family (05 R121, R122, R132) -/

/-- Eight times the value of a code under a type (Table 5-3). -/
def codeTab (ty c : Nat) : Int :=
  match ty with
  | 0 => if c < 8 then 8 * c else 8 * ((c : Int) - 16)
  | _ =>
    let m : Nat := match ty with
      | 1 => [0, 4, 8, 12, 16, 24, 32, 48].getD (c % 8) 0
      | 2 => [0, 1, 2, 4, 8, 16, 32, 64].getD (c % 8) 0
      | _ => [0, 8, 16, 24, 32, 48, 64, 96].getD (c % 8) 0
    if c < 8 then m else -(m : Int)

/-- The value of a code under a scale byte; none for the default NaN of e = 63. -/
def codeVal (scale c : Nat) : Option FVal :=
  if scale % 64 = 63 then none
  else
    let ty := scale / 64 % 4
    some (.fin (decide (8 ≤ c)) { m := codeTab ty c, e := (scale % 64 : Int) - 35 })

/-- The largest magnitude of a type. -/
def codeTop (ty : Nat) : Nat := match ty with
  | 0 => 7
  | 1 => 6
  | 2 => 8
  | _ => 12

def Dy.abs (a : Dy) : Dy := { a with m := (a.m.natAbs : Int) }

/-- The least e from i up to 62 with M <= T * 2^(e - 32). -/
def scaleFor (ty : Nat) (big : Dy) : Nat → Nat → Nat
  | 0, _ => 62
  | n + 1, e => if big.le { m := codeTop ty, e := (e : Int) - 32 } then e else scaleFor ty big n (e + 1)

/-- The nearest code among c, c + 1, ..., with its distance; a tie goes to the code with bit 0 clear. -/
def nearCode (ty e : Nat) (x : Dy) : List Nat → Option (Nat × Dy) → Option (Nat × Dy)
  | [], best => best
  | c :: t, best =>
    let d := (x.sub { m := codeTab ty c, e := (e : Int) - 35 }).abs
    nearCode ty e x t (match best with
      | none => some (c, d)
      | some (b, bd) => if d.lt bd || (!(bd.lt d) && c % 2 = 0 && b % 2 = 1) then some (c, d) else some (b, bd))

/-- One value encoded: its code and flags. -/
def encodeCode (ty e : Nat) (neg : Bool) (x : Dy) : Nat × BitVec 5 :=
  let lim : Dy := { m := codeTop ty, e := (e : Int) - 32 }
  if lim.lt x.abs then
    let c := match ty with
      | 0 => if neg then 9 else 7
      | _ => if neg then 15 else 7
    (c, fOF ||| fNX)
  else
    let cands := if ty = 0 then List.range 16 else if neg then [8, 9, 10, 11, 12, 13, 14, 15] else List.range 8
    match nearCode ty e x cands none with
    | some (b, d) =>
      let z := codeTab ty b = 0
      ((if z then (if neg && ty ≠ 0 then 8 else 0) else b), if d.m = 0 then 0 else fNX)
    | none => (0, 0)

/-- A block of 32 FP32 values encoded: the codes, the scale byte and the flags (05 R132). -/
def encodeBlock (ty : Nat) (xs : List Nat) : List Nat × Nat × BitVec 5 :=
  let vs := xs.map fp32.val
  let special := vs.any (fun v => match v with
    | .fin .. => false
    | _ => true)
  if special then
    (xs.map (fun _ => 0), ty * 64 + 63, vs.foldl (fun a v => a ||| v.snan ||| (match v with
      | .inf _ => fNV
      | _ => 0)) 0)
  else
    let dys := vs.map (fun v => match v with
      | .fin n d => (n, d)
      | _ => (false, Dy.zero))
    let big := dys.foldl (fun a d => if a.lt d.2.abs then d.2.abs else a) Dy.zero
    let e := scaleFor ty big 63 0
    let cs := dys.map (fun d => encodeCode ty e d.1 d.2)
    (cs.map Prod.fst, ty * 64 + e, cs.foldl (fun a c => a ||| c.2) 0)

/-- A value of the family as FP32; each is exact. -/
def decodeCode (scale c : Nat) : Nat :=
  match codeVal scale c with
  | some (.fin n v) => (roundDy fp32 0 false (n && scale / 64 % 4 ≠ 0) v).1
  | _ => fp32.nan

/-! ### Functions (05 R129, Table 5-5) -/

/-- Working precision of the series, in bits. -/
def prec : Nat := 256

/-- ln 2 = sum over k of 1 / (k * 2^k), scaled by 2^prec. -/
def ln2Sum : Nat → Nat
  | 0 => 0
  | k + 1 => ln2Sum k + 2 ^ prec / ((k + 1) * 2 ^ (k + 1))
def ln2 : Nat := ln2Sum (prec + 4)

/-- exp of y / 2^prec by its series, terms n. -/
def expSeries (y : Nat) : Nat → Nat → Nat → Nat
  | 0, _, _ => 0
  | n + 1, k, term => term + expSeries y n (k + 1) (term * y / 2 ^ prec / k)

/-- 2^(f / 2^t) for f < 2^t, scaled by 2^prec, from below. -/
def exp2Frac (f t : Nat) : Nat := expSeries (f * ln2 / 2 ^ t) 70 1 (2 ^ prec)

def fExp2 (x : Nat) : FRes :=
  match fp32.val x with
  | .nan _ _ q => (fp32.quiet x, if q then 0 else fNV)
  | .inf neg => (if neg then 0 else 0x7F800000, 0)
  | .fin _ v =>
    if v.m = 0 then (0x3F800000, 0)
    else
      let t := (-v.e).toNat
      let n : Int := if v.e < 0 then v.m / (2 ^ t : Nat) else v.m * (2 ^ v.e.toNat : Nat)
      let f : Nat := if v.e < 0 then (v.m % (2 ^ t : Nat)).toNat else 0
      if 200 < n then roundRat fp32 0 false false (2 ^ 200) 1
      else if n < -400 then roundRat fp32 0 false false 1 (2 ^ 400)
      else
        let (a, b) := if f = 0 then (1, 1) else (2 * exp2Frac f t + 1, 2 ^ (prec + 1))
        if n < 0 then roundRat fp32 0 false false a (b * 2 ^ (-n).toNat) else roundRat fp32 0 false false (a * 2 ^ n.toNat) b

/-- atanh series: sum of z^(2k+1) / (2k+1), z scaled by 2^prec. -/
def atanhSeries (z2 : Nat) : Nat → Nat → Nat → Nat
  | 0, _, _ => 0
  | n + 1, k, p => p / (2 * k + 1) + atanhSeries z2 n (k + 1) (p * z2 / 2 ^ prec)

def fLog2 (x : Nat) : FRes :=
  match fp32.val x with
  | .nan _ _ q => (fp32.quiet x, if q then 0 else fNV)
  | .inf neg => if neg then nanInvalid else (x, 0)
  | .fin neg v =>
    if v.m = 0 then (0xFF800000, fDZ)
    else if neg then nanInvalid
    else
      let m := v.m.natAbs
      let l := Nat.log2 m
      let e : Int := v.e + l
      if m = 2 ^ l then roundDy fp32 0 false false (Dy.ofInt e)
      else
        let z := (m - 2 ^ l) * 2 ^ prec / (m + 2 ^ l)
        let lg : Nat := 2 * atanhSeries (z * z / 2 ^ prec) 100 0 z * 2 ^ prec / ln2
        let w : Int := 2 * (e * (2 ^ prec : Nat) + lg) + 1
        roundRat fp32 0 false (decide (w < 0)) w.natAbs (2 ^ (prec + 1))

def fRcp (x : Nat) : FRes := fDiv 0 0x3F800000 x

def fRsq (x : Nat) : FRes :=
  match fp32.val x with
  | .nan _ _ q => (fp32.quiet x, if q then 0 else fNV)
  | .inf neg => if neg then nanInvalid else (0, 0)
  | .fin neg v =>
    if v.m = 0 then (signInf neg, fDZ)
    else if neg then nanInvalid
    else roundSqrt 0 v.frac.2 v.frac.1

/-! ### The matrix accumulator (05 R133, R134, R136) -/

/-- A value of format f with a NaN's fraction at the top of an FP32 fraction, as a widening conversion leaves it (05 R130). -/
def FVal.widen (f : Fmt) : FVal → FVal
  | .nan n fr q => .nan n (fr * 2 ^ (23 - f.frac)) q
  | v => v

/-- An element value: a code of its format with the product rules of R133. -/
def prodVal (a b : FVal) : Nat × BitVec 5 :=
  match a, b with
  | .nan n f q, _ => (cvtNan fp32 fp32 n f, (if q then 0 else fNV) ||| b.snan)
  | _, .nan n f q => (cvtNan fp32 fp32 n f, if q then 0 else fNV)
  | .inf x, .inf y => (signInf (x != y), 0)
  | .inf x, .fin y v => if v.m = 0 then nanInvalid else (signInf (x != y), 0)
  | .fin x u, .inf y => if u.m = 0 then nanInvalid else (signInf (x != y), 0)
  | .fin x u, .fin y v => roundDy fp32 0 false (x != y) (u.mul v)

def finite32 (x : Nat) : Bool := x % 0x80000000 < 0x7F800000

/-- One product added to an element pair, with its flags (05 R134). Where s is a NaN and the product one that comes from a NaN element,
s stays: R126's order of s + p, where R127's would take the element's (notes/assumptions/119.md). DESIGN CHOICE. -/
def accAdd (s c p : Nat) : Nat × Nat × BitVec 5 :=
  if finite32 s && finite32 c && finite32 p then
    let s1 := (fAdd 0 s p).1
    let p1 := (fSub 0 s1 s).1
    let s2 := (fSub 0 s1 p1).1
    let dp := (fSub 0 p p1).1
    let ds := (fSub 0 s s2).1
    let err := (fAdd 0 ds dp).1
    let c1 := (fAdd 0 c err).1
    if finite32 s1 then
      if finite32 c1 then (s1, c1, 0) else (c1, 0, fOF ||| fNX)
    else (s1, 0, fOF ||| fNX)
  else
    let r := fAdd 0 s p
    (r.1, 0, r.2)

/-- MDRAIN's value: s + c rounded once to a format (05 R136). -/
def drainVal (g : Fmt) (sat : Bool) (s c : Nat) : FRes :=
  match fp32.val s, fp32.val c with
  | .fin a u, .fin b v => roundDy g 0 sat (a && b) (u.add v)
  | _, _ => cvtFF fp32 g 0 sat s

/-! ### Combine operators (10 Table 10-4) -/

/-- Combine(b, c) on 32-bit values; no flag. A NaN candidate leaves b as it is under add.f too, where Table 10-4 alone would make it a
NaN (notes/assumptions/121.md). DESIGN CHOICE. -/
def combine (op : Nat) (b c : Nat) : Nat :=
  let sg := fun (x : Nat) => if x < 0x80000000 then (x : Int) else (x : Int) - 0x100000000
  match op with
  | 0 => Nat.lor b c
  | 1 => Nat.land b c
  | 2 => min b c
  | 3 => max b c
  | 4 => if sg c < sg b then c else b
  | 5 => if sg b < sg c then c else b
  | 6 => if (fp32.val c).isNan then b else (fMinMax false b c).1
  | 7 => if (fp32.val c).isNan then b else (fMinMax true b c).1
  | 8 => (b + c) % 0x100000000
  | _ => if (fp32.val c).isNan then b else (fAdd 0 b c).1

/-- The identity of a combine operator. -/
def combineId (op : Nat) : Nat :=
  match op with
  | 1 | 2 => 0xFFFFFFFF
  | 4 => 0x7FFFFFFF
  | 5 => 0x80000000
  | 6 => 0x7F800000
  | 7 => 0xFF800000
  | _ => 0

end Sys2Proof.Machine
end

