-- ==== Sys2Proof/Syntax.lean ====
section
/-! DEFINITION. The syntax: one constructor for each row of the opcode table. The first 223 rows are encoded
words, whose fields are carried as bit vectors of their widths; the rest are the part's other steps
(spec/95_what_each_step_holds.md), which carry the unit they happen at and the data that arrives with them. -/

namespace Sys2Proof

/-- A step of the part: an instruction word or an event. Register fields are numbers 0 to 31, `d` the destination.
An event names its unit by coordinate: a core by its 18-bit coordinate, a cell by coordinate / 4, a cluster by
coordinate / 512, a die by 0 to 7, a context by core * 4 + number, a partition by PARTID. -/
inductive Instr where
  /-- ADD (R349) Sets S(d) to S(a) plus S(b) modulo 2^64. -/
  | add (d : BitVec 5) (a : BitVec 5) (b : BitVec 5)
  /-- SUB (R431) Sets S(d) to S(a) minus S(b) modulo 2^64. -/
  | sub (d : BitVec 5) (a : BitVec 5) (b : BitVec 5)
  /-- AND (R349) Sets S(d) to the bitwise AND of S(a) and S(b). -/
  | and (d : BitVec 5) (a : BitVec 5) (b : BitVec 5)
  /-- OR (R399) Sets S(d) to the bitwise OR of S(a) and S(b). -/
  | or (d : BitVec 5) (a : BitVec 5) (b : BitVec 5)
  /-- XOR (R457) Sets S(d) to the bitwise XOR of S(a) and S(b). -/
  | xor (d : BitVec 5) (a : BitVec 5) (b : BitVec 5)
  /-- SHL (R422) Shifts S(a) left by S(b)[5:0]. -/
  | shl (d : BitVec 5) (a : BitVec 5) (b : BitVec 5)
  /-- SHR (R422) Shifts S(a) right logically by S(b)[5:0]. -/
  | shr (d : BitVec 5) (a : BitVec 5) (b : BitVec 5)
  /-- SHA (R422) Shifts S(a) right arithmetically by S(b)[5:0]. -/
  | sha (d : BitVec 5) (a : BitVec 5) (b : BitVec 5)
  /-- SLT (R417) Sets S(d) to 1 when S(a) is less than S(b), signed. -/
  | slt (d : BitVec 5) (a : BitVec 5) (b : BitVec 5)
  /-- SLTU (R417) Sets S(d) to 1 when S(a) is less than S(b), unsigned. -/
  | sltu (d : BitVec 5) (a : BitVec 5) (b : BitVec 5)
  /-- MIN (R395) Sets S(d) to the signed lesser of S(a) and S(b). -/
  | min (d : BitVec 5) (a : BitVec 5) (b : BitVec 5)
  /-- MAX (R395) Sets S(d) to the signed greater of S(a) and S(b). -/
  | max (d : BitVec 5) (a : BitVec 5) (b : BitVec 5)
  /-- MINU (R395) Sets S(d) to the unsigned lesser of S(a) and S(b). -/
  | minu (d : BitVec 5) (a : BitVec 5) (b : BitVec 5)
  /-- MAXU (R395) Sets S(d) to the unsigned greater of S(a) and S(b). -/
  | maxu (d : BitVec 5) (a : BitVec 5) (b : BitVec 5)
  /-- SEQ (R417) Sets S(d) to 1 when S(a) equals S(b). -/
  | seq (d : BitVec 5) (a : BitVec 5) (b : BitVec 5)
  /-- SEL (R416) Sets S(d) to S(a) when S(c) is non-zero, else to S(b). -/
  | sel (d : BitVec 5) (a : BitVec 5) (b : BitVec 5) (c : BitVec 5)
  /-- ADDI (R350) Adds a sign-extended 15-bit immediate to S(a). -/
  | addi (d : BitVec 5) (a : BitVec 5) (i : BitVec 15)
  /-- ANDI (R350) ANDs S(a) with a sign-extended 15-bit immediate. -/
  | andi (d : BitVec 5) (a : BitVec 5) (i : BitVec 15)
  /-- ORI (R399) ORs S(a) with a zero-extended 15-bit immediate. -/
  | ori (d : BitVec 5) (a : BitVec 5) (i : BitVec 15)
  /-- XORI (R457) XORs S(a) with a zero-extended 15-bit immediate. -/
  | xori (d : BitVec 5) (a : BitVec 5) (i : BitVec 15)
  /-- SLTI (R424) Sets S(d) to 1 when S(a) is less than the sign-extended immediate. -/
  | slti (d : BitVec 5) (a : BitVec 5) (i : BitVec 15)
  /-- SHLI (R423) Shifts S(a) left by an immediate count. -/
  | shli (d : BitVec 5) (a : BitVec 5) (s : BitVec 6)
  /-- SHRI (R423) Shifts S(a) right logically by an immediate count. -/
  | shri (d : BitVec 5) (a : BitVec 5) (s : BitVec 6)
  /-- SHAI (R423) Shifts S(a) right arithmetically by an immediate count. -/
  | shai (d : BitVec 5) (a : BitVec 5) (s : BitVec 6)
  /-- LUI (R394) Sets S(d) to the sign-extended 20-bit immediate times 2^15. -/
  | lui (d : BitVec 5) (i : BitVec 20)
  /-- ADDPC (R351) Sets S(d) to the PC plus twice the sign-extended immediate. -/
  | addpc (d : BitVec 5) (i : BitVec 20)
  /-- MUL (R398) Sets S(d) to the low part of the product. -/
  | mul (d : BitVec 5) (a : BitVec 5) (b : BitVec 5) (w : BitVec 1)
  /-- MULH (R398) Sets S(d) to the high part of the signed product. -/
  | mulh (d : BitVec 5) (a : BitVec 5) (b : BitVec 5) (w : BitVec 1)
  /-- MULHU (R398) Sets S(d) to the high part of the unsigned product. -/
  | mulhu (d : BitVec 5) (a : BitVec 5) (b : BitVec 5) (w : BitVec 1)
  /-- DIV (R372) Signed division rounded toward zero, never trapping. -/
  | div (d : BitVec 5) (a : BitVec 5) (b : BitVec 5) (w : BitVec 1)
  /-- DIVU (R372) Unsigned division, never trapping. -/
  | divu (d : BitVec 5) (a : BitVec 5) (b : BitVec 5) (w : BitVec 1)
  /-- REM (R412) Signed remainder with the sign of the dividend. -/
  | rem (d : BitVec 5) (a : BitVec 5) (b : BitVec 5) (w : BitVec 1)
  /-- REMU (R412) Unsigned remainder. -/
  | remu (d : BitVec 5) (a : BitVec 5) (b : BitVec 5) (w : BitVec 1)
  /-- CLZ (R358) Counts the leading zero bits of S(a). -/
  | clz (d : BitVec 5) (a : BitVec 5)
  /-- CTZ (R358) Counts the trailing zero bits of S(a). -/
  | ctz (d : BitVec 5) (a : BitVec 5)
  /-- POPC (R402) Counts the one bits of S(a). -/
  | popc (d : BitVec 5) (a : BitVec 5)
  /-- BREV (R358) Reverses the bit order of S(a). -/
  | brev (d : BitVec 5) (a : BitVec 5)
  /-- BSWAP (R358) Reverses the byte order of S(a). -/
  | bswap (d : BitVec 5) (a : BitVec 5)
  /-- BFX (R356) Extracts a bit field of S(a) under the specifier S(b). -/
  | bfx (d : BitVec 5) (a : BitVec 5) (b : BitVec 5)
  /-- BFI (R356) Inserts the low bits of S(a) into a field of S(d). -/
  | bfi (d : BitVec 5) (a : BitVec 5) (b : BitVec 5)
  /-- FADD (R376) FP32 addition rounded under FRM. -/
  | fadd (d : BitVec 5) (a : BitVec 5) (b : BitVec 5)
  /-- FSUB (R376) FP32 subtraction rounded under FRM. -/
  | fsub (d : BitVec 5) (a : BitVec 5) (b : BitVec 5)
  /-- FMUL (R376) FP32 multiplication rounded under FRM. -/
  | fmul (d : BitVec 5) (a : BitVec 5) (b : BitVec 5)
  /-- FDIV (R376) FP32 division rounded under FRM. -/
  | fdiv (d : BitVec 5) (a : BitVec 5) (b : BitVec 5)
  /-- FSQRT (R376) FP32 square root rounded under FRM. -/
  | fsqrt (d : BitVec 5) (a : BitVec 5)
  /-- FMIN (R376) FP32 minimum under R128. -/
  | fmin (d : BitVec 5) (a : BitVec 5) (b : BitVec 5)
  /-- FMAX (R376) FP32 maximum under R128. -/
  | fmax (d : BitVec 5) (a : BitVec 5) (b : BitVec 5)
  /-- FCMP (R379) Compares two FP32 values under a relation and sets S(d) to 1 or 0. -/
  | fcmp (d : BitVec 5) (a : BitVec 5) (b : BitVec 5) (r : BitVec 2)
  /-- FCLASS (R378) Sets a one-bit mask giving the class of an FP32 value. -/
  | fclass (d : BitVec 5) (a : BitVec 5)
  /-- FCVT (R380) Converts a scalar between floating-point and integer formats. -/
  | fcvt (d : BitVec 5) (a : BitVec 5) (s : BitVec 1) (x : BitVec 4) (y : BitVec 5) (t : BitVec 1)
  /-- FFMA (R382) Fused FP32 multiply-add with one rounding. -/
  | ffma (d : BitVec 5) (a : BitVec 5) (b : BitVec 5) (c : BitVec 5)
  /-- LD (R388) Loads 1 to 8 bytes at S(a) plus an offset into S(d). -/
  | ld (d : BitVec 5) (a : BitVec 5) (o : BitVec 12) (z : BitVec 3)
  /-- ST (R429) Stores the low bytes of a register at S(a) plus an offset. -/
  | st (v : BitVec 5) (a : BitVec 5) (o : BitVec 12) (z : BitVec 3)
  /-- LDX (R388) Loads from S(a) plus a scaled index register. -/
  | ldx (d : BitVec 5) (a : BitVec 5) (b : BitVec 5) (z : BitVec 3) (h : BitVec 3)
  /-- STX (R429) Stores to S(a) plus a scaled index register. -/
  | stx (v : BitVec 5) (a : BitVec 5) (b : BitVec 5) (z : BitVec 3) (h : BitVec 3)
  /-- PREF (R403) Asks for a line to be filled into the L1 ways, never trapping. -/
  | pref (a : BitVec 5)
  /-- CFLUSH (R361) Writes back the dirty sectors of a line through L1 and slice. -/
  | cflush (a : BitVec 5)
  /-- CINV (R361) Writes back and invalidates a line in L1 ways and its home slice. -/
  | cinv (a : BitVec 5)
  /-- WAYS (R64) Changes which ways of the core's array are scratch and which are cache. -/
  | ways (d : BitVec 5) (m : BitVec 6)
  /-- BEQ (R355) Branches when S(a) equals S(b). -/
  | beq (a : BitVec 5) (b : BitVec 5) (o : BitVec 15)
  /-- BNE (R355) Branches when S(a) differs from S(b). -/
  | bne (a : BitVec 5) (b : BitVec 5) (o : BitVec 15)
  /-- BLT (R355) Branches when S(a) is signed less than S(b). -/
  | blt (a : BitVec 5) (b : BitVec 5) (o : BitVec 15)
  /-- BGE (R355) Branches when S(a) is signed at least S(b). -/
  | bge (a : BitVec 5) (b : BitVec 5) (o : BitVec 15)
  /-- BLTU (R355) Branches when S(a) is unsigned less than S(b). -/
  | bltu (a : BitVec 5) (b : BitVec 5) (o : BitVec 15)
  /-- BGEU (R355) Branches when S(a) is unsigned at least S(b). -/
  | bgeu (a : BitVec 5) (b : BitVec 5) (o : BitVec 15)
  /-- JMP (R386) Jumps to a PC-relative target. -/
  | jmp (i : BitVec 20)
  /-- JAL (R386) Jumps to a PC-relative target and links PC + 4 in S(d). -/
  | jal (d : BitVec 5) (i : BitVec 20)
  /-- JALR (R386) Jumps to S(a) plus an immediate and links PC + 4, trapping on an odd target. -/
  | jalr (d : BitVec 5) (a : BitVec 5) (i : BitVec 15)
  /-- LOOP (R390) Opens a zero-overhead loop level over the next n words, S(a) times. -/
  | loop (a : BitVec 5) (n : BitVec 15)
  /-- AMO (R346) Performs an indivisible read-modify-write at a location and returns the old value. -/
  | amo (d : BitVec 5) (a : BitVec 5) (b : BitVec 5) (w : BitVec 1) (r : BitVec 2) (p : BitVec 4) (f : BitVec 3)
  /-- ACAS (R346) Indivisible compare-and-swap returning the old value. -/
  | acas (d : BitVec 5) (a : BitVec 5) (b : BitVec 5) (w : BitVec 1) (r : BitVec 2) (f : BitVec 3)
  /-- RED (R410) Non-returning reduction performed indivisibly at the home. -/
  | red (a : BitVec 5) (b : BitVec 5) (w : BitVec 1) (p : BitVec 4) (f : BitVec 3)
  /-- CADD (R99) Saturating add to a counter after a fence of its scope, returning the old value. -/
  | cadd (d : BitVec 5) (a : BitVec 5) (s : BitVec 3) (b : BitVec 5)
  /-- CADD_NR (R99) Non-returning counter add that does not wait as a fence. -/
  | caddNr (a : BitVec 5) (s : BitVec 3) (b : BitVec 5)
  /-- CWAIT (R99) Blocks until a counter reaches a target and returns the value seen. -/
  | cwait (d : BitVec 5) (a : BitVec 5) (s : BitVec 3) (b : BitVec 5)
  /-- CREAD (R99) Reads a counter at its home after a fence of its scope. -/
  | cread (d : BitVec 5) (a : BitVec 5) (s : BitVec 3)
  /-- WATCH (R103) Arms a watch-table entry on a 32-byte sector. -/
  | watch (d : BitVec 5) (a : BitVec 5)
  /-- WAITW (R104) Blocks until an armed watch fires or a timeout passes, then disarms all entries. -/
  | waitw (d : BitVec 5) (a : BitVec 5)
  /-- FENCE (R91) Blocks until the context's earlier operations are performed at the scope. -/
  | fence (s : BitVec 3)
  /-- QFENCE (R93) Places an ordering marker in each named engine queue. -/
  | qfence (a : BitVec 5)
  /-- BAR (R353) Joins a counter-based barrier of n participants. -/
  | bar (a : BitVec 5) (s : BitVec 3) (b : BitVec 5)
  /-- SYNC (R432) Joins the free partition's barrier across all its cores. -/
  | sync
  /-- PACEW (R401) Blocks until the pace count reaches a target tick. -/
  | pacew (d : BitVec 5) (a : BitVec 5)
  /-- VADD_F32 (R440) Lane-wise FP32 addition. -/
  | vaddF32 (d : BitVec 5) (a : BitVec 5) (b : BitVec 5) (k : BitVec 3)
  /-- VSUB_F32 (R440) Lane-wise FP32 subtraction. -/
  | vsubF32 (d : BitVec 5) (a : BitVec 5) (b : BitVec 5) (k : BitVec 3)
  /-- VMUL_F32 (R440) Lane-wise FP32 multiplication. -/
  | vmulF32 (d : BitVec 5) (a : BitVec 5) (b : BitVec 5) (k : BitVec 3)
  /-- VFMA (R447) Lane-wise fused FP32 multiply-add into vd. -/
  | vfma (d : BitVec 5) (a : BitVec 5) (b : BitVec 5) (k : BitVec 3)
  /-- VMIN_F32 (R440) Lane-wise FP32 minimum. -/
  | vminF32 (d : BitVec 5) (a : BitVec 5) (b : BitVec 5) (k : BitVec 3)
  /-- VMAX_F32 (R440) Lane-wise FP32 maximum. -/
  | vmaxF32 (d : BitVec 5) (a : BitVec 5) (b : BitVec 5) (k : BitVec 3)
  /-- VABS_F32 (R440) Clears the sign bit of each active FP32 lane. -/
  | vabsF32 (d : BitVec 5) (a : BitVec 5) (k : BitVec 3)
  /-- VCMP_EQ_F32 (R443) Writes a mask of active lanes whose FP32 values are equal. -/
  | vcmpEqF32 (m : BitVec 3) (a : BitVec 5) (b : BitVec 5) (k : BitVec 3)
  /-- VCMP_LT_F32 (R443) Writes a mask of active lanes where va is less than vb in FP32. -/
  | vcmpLtF32 (m : BitVec 3) (a : BitVec 5) (b : BitVec 5) (k : BitVec 3)
  /-- VCMP_LE_F32 (R443) Writes a mask of active lanes where va is at most vb in FP32. -/
  | vcmpLeF32 (m : BitVec 3) (a : BitVec 5) (b : BitVec 5) (k : BitVec 3)
  /-- VCMP_NE_F32 (R443) Writes a mask of active lanes whose FP32 values are unequal. -/
  | vcmpNeF32 (m : BitVec 3) (a : BitVec 5) (b : BitVec 5) (k : BitVec 3)
  /-- VRCP (R445) Lane-wise nearest-even reciprocal. -/
  | vrcp (d : BitVec 5) (a : BitVec 5) (k : BitVec 3)
  /-- VRSQ (R445) Lane-wise nearest-even reciprocal square root. -/
  | vrsq (d : BitVec 5) (a : BitVec 5) (k : BitVec 3)
  /-- VEXP2 (R445) Lane-wise nearest-even power of two. -/
  | vexp2 (d : BitVec 5) (a : BitVec 5) (k : BitVec 3)
  /-- VLOG2 (R445) Lane-wise nearest-even base-2 logarithm. -/
  | vlog2 (d : BitVec 5) (a : BitVec 5) (k : BitVec 3)
  /-- VRED_ADD_F32 (R450) Reduces the active FP32 lanes by addition over the fixed tree into S(d). -/
  | vredAddF32 (d : BitVec 5) (a : BitVec 5) (k : BitVec 3)
  /-- VRED_MIN_F32 (R450) Reduces the active FP32 lanes by minimum into S(d). -/
  | vredMinF32 (d : BitVec 5) (a : BitVec 5) (k : BitVec 3)
  /-- VRED_MAX_F32 (R450) Reduces the active FP32 lanes by maximum into S(d). -/
  | vredMaxF32 (d : BitVec 5) (a : BitVec 5) (k : BitVec 3)
  /-- VSCAN_ADD_F32 (R450) Inclusive FP32 prefix sums over the lanes. -/
  | vscanAddF32 (d : BitVec 5) (a : BitVec 5) (k : BitVec 3)
  /-- VSCAN_MIN_F32 (R450) Inclusive FP32 prefix minima over the lanes. -/
  | vscanMinF32 (d : BitVec 5) (a : BitVec 5) (k : BitVec 3)
  /-- VSCAN_MAX_F32 (R450) Inclusive FP32 prefix maxima over the lanes. -/
  | vscanMaxF32 (d : BitVec 5) (a : BitVec 5) (k : BitVec 3)
  /-- VTAB (R342) Evaluates a piecewise-linear table function on each active lane. -/
  | vtab (d : BitVec 5) (a : BitVec 5) (k : BitVec 3)
  /-- VCVT (R343) Converts lanes, or a 4-bit code block, under the conversion word E(5). -/
  | vcvt (d : BitVec 5) (a : BitVec 5) (k : BitVec 3)
  /-- VADD (R440) Lane-wise integer addition modulo the element width. -/
  | vadd (d : BitVec 5) (a : BitVec 5) (b : BitVec 5) (k : BitVec 3) (e : BitVec 2)
  /-- VSUB (R440) Lane-wise integer subtraction. -/
  | vsub (d : BitVec 5) (a : BitVec 5) (b : BitVec 5) (k : BitVec 3) (e : BitVec 2)
  /-- VMUL (R440) Lane-wise integer multiplication, low bits. -/
  | vmul (d : BitVec 5) (a : BitVec 5) (b : BitVec 5) (k : BitVec 3) (e : BitVec 2)
  /-- VMIN (R440) Lane-wise signed integer minimum. -/
  | vmin (d : BitVec 5) (a : BitVec 5) (b : BitVec 5) (k : BitVec 3) (e : BitVec 2)
  /-- VMAX (R440) Lane-wise signed integer maximum. -/
  | vmax (d : BitVec 5) (a : BitVec 5) (b : BitVec 5) (k : BitVec 3) (e : BitVec 2)
  /-- VMIN_U (R440) Lane-wise unsigned integer minimum. -/
  | vminU (d : BitVec 5) (a : BitVec 5) (b : BitVec 5) (k : BitVec 3) (e : BitVec 2)
  /-- VMAX_U (R440) Lane-wise unsigned integer maximum. -/
  | vmaxU (d : BitVec 5) (a : BitVec 5) (b : BitVec 5) (k : BitVec 3) (e : BitVec 2)
  /-- VABS (R440) Lane-wise integer absolute value modulo the width. -/
  | vabs (d : BitVec 5) (a : BitVec 5) (k : BitVec 3) (e : BitVec 2)
  /-- VAND (R441) Lane-wise bitwise AND. -/
  | vand (d : BitVec 5) (a : BitVec 5) (b : BitVec 5) (k : BitVec 3)
  /-- VOR (R441) Lane-wise bitwise OR. -/
  | vor (d : BitVec 5) (a : BitVec 5) (b : BitVec 5) (k : BitVec 3)
  /-- VXOR (R441) Lane-wise bitwise XOR. -/
  | vxor (d : BitVec 5) (a : BitVec 5) (b : BitVec 5) (k : BitVec 3)
  /-- VSHL (R441) Lane-wise left shift of each element. -/
  | vshl (d : BitVec 5) (a : BitVec 5) (b : BitVec 5) (k : BitVec 3) (e : BitVec 2)
  /-- VSHR (R441) Lane-wise logical right shift. -/
  | vshr (d : BitVec 5) (a : BitVec 5) (b : BitVec 5) (k : BitVec 3) (e : BitVec 2)
  /-- VSHA (R441) Lane-wise arithmetic right shift. -/
  | vsha (d : BitVec 5) (a : BitVec 5) (b : BitVec 5) (k : BitVec 3) (e : BitVec 2)
  /-- VPOPC (R441) Counts the one bits of each active lane. -/
  | vpopc (d : BitVec 5) (a : BitVec 5) (k : BitVec 3)
  /-- VCMP_EQ (R443) Writes a mask of lanes whose integer elements are all equal. -/
  | vcmpEq (m : BitVec 3) (a : BitVec 5) (b : BitVec 5) (k : BitVec 3) (e : BitVec 2)
  /-- VCMP_NE (R443) Writes a mask of lanes whose integer elements are all unequal. -/
  | vcmpNe (m : BitVec 3) (a : BitVec 5) (b : BitVec 5) (k : BitVec 3) (e : BitVec 2)
  /-- VCMP_LT (R443) Writes a mask of lanes whose elements are all signed less. -/
  | vcmpLt (m : BitVec 3) (a : BitVec 5) (b : BitVec 5) (k : BitVec 3) (e : BitVec 2)
  /-- VCMP_LE (R443) Writes a mask of lanes whose elements are all signed at most. -/
  | vcmpLe (m : BitVec 3) (a : BitVec 5) (b : BitVec 5) (k : BitVec 3) (e : BitVec 2)
  /-- VCMP_LT_U (R443) Writes a mask of lanes whose elements are all unsigned less. -/
  | vcmpLtU (m : BitVec 3) (a : BitVec 5) (b : BitVec 5) (k : BitVec 3) (e : BitVec 2)
  /-- VCMP_LE_U (R443) Writes a mask of lanes whose elements are all unsigned at most. -/
  | vcmpLeU (m : BitVec 3) (a : BitVec 5) (b : BitVec 5) (k : BitVec 3) (e : BitVec 2)
  /-- VSEL (R442) Chooses each lane from va or vb by the mask. -/
  | vsel (d : BitVec 5) (a : BitVec 5) (b : BitVec 5) (k : BitVec 3)
  /-- VPERM (R442) Permutes lanes of va by indices in vb. -/
  | vperm (d : BitVec 5) (a : BitVec 5) (b : BitVec 5) (k : BitVec 3)
  /-- VEXTR (R442) Extracts one lane into a scalar register. -/
  | vextr (d : BitVec 5) (a : BitVec 5) (b : BitVec 5)
  /-- VBCAST (R442) Broadcasts S(a)[31:0] into each active lane. -/
  | vbcast (d : BitVec 5) (a : BitVec 5) (k : BitVec 3)
  /-- VSORT (R451) Performs one stable 8-bit radix pass over the active lanes. -/
  | vsort (d : BitVec 5) (a : BitVec 5) (b : BitVec 5) (k : BitVec 3)
  /-- VRED_ADD (R450) Integer sum of the active lanes into S(d). -/
  | vredAdd (d : BitVec 5) (a : BitVec 5) (k : BitVec 3)
  /-- VRED_MIN (R450) Signed minimum of the active lanes into S(d). -/
  | vredMin (d : BitVec 5) (a : BitVec 5) (k : BitVec 3)
  /-- VRED_MAX (R450) Signed maximum of the active lanes into S(d). -/
  | vredMax (d : BitVec 5) (a : BitVec 5) (k : BitVec 3)
  /-- VSCAN_ADD (R450) Inclusive integer prefix sums over the lanes. -/
  | vscanAdd (d : BitVec 5) (a : BitVec 5) (k : BitVec 3)
  /-- VRED_OR (R450) Bitwise OR of the active lanes into S(d). -/
  | vredOr (d : BitVec 5) (a : BitVec 5) (k : BitVec 3)
  /-- VRED_AND (R450) Bitwise AND of the active lanes into S(d). -/
  | vredAnd (d : BitVec 5) (a : BitVec 5) (k : BitVec 3)
  /-- VLD (R449) Loads 32 contiguous bytes into the active lanes. -/
  | vld (d : BitVec 5) (a : BitVec 5) (b : BitVec 5) (k : BitVec 3)
  /-- VST (R449) Stores the active lanes to 32 contiguous bytes. -/
  | vst (v : BitVec 5) (a : BitVec 5) (b : BitVec 5) (k : BitVec 3)
  /-- VLDX (R449) Gathers one element per active lane at S(a) plus a lane offset. -/
  | vldx (d : BitVec 5) (a : BitVec 5) (b : BitVec 5) (k : BitVec 3) (e : BitVec 2)
  /-- VSTX (R449) Scatters one element per active lane at S(a) plus a lane offset. -/
  | vstx (v : BitVec 5) (a : BitVec 5) (b : BitVec 5) (k : BitVec 3) (e : BitVec 2)
  /-- VFENCE (R446) Blocks until every earlier vector-class word of the context has completed. -/
  | vfence
  /-- MCLAIM (R210) Claims a set of operand slots all at once or reports the conflicts. -/
  | mclaim (d : BitVec 5) (a : BitVec 5)
  /-- MREL (R210) Queues the release of the context's claims on a set of slots. -/
  | mrel (a : BitVec 5)
  /-- MLOAD (R211) Queues a copy of 1 KiB into an operand slot, tagging its lines. -/
  | mload (a : BitVec 5) (b : BitVec 5) (f : BitVec 4)
  /-- MMA (R212) Queues a matrix multiply-accumulate on the cell's slots and accumulators. -/
  | mma (b : BitVec 5)
  /-- MMA_R (R217) Sends one matrix multiply-accumulate to a remote cell under a capability. -/
  | mmaR (a : BitVec 5) (b : BitVec 5)
  /-- MDRAIN (R214) Queues the conversion of accumulator elements into scratch. -/
  | mdrain (a : BitVec 5) (s : BitVec 1) (b : BitVec 5)
  /-- MZERO (R215) Queues the zeroing of the named accumulators. -/
  | mzero (a : BitVec 5)
  /-- MGRANT (R216) Records a grant and returns a matrix capability. -/
  | mgrant (d : BitVec 5) (a : BitVec 5) (b : BitVec 5)
  /-- MSTAT (R215) Returns matrix status, optionally waiting for matrix completion. -/
  | mstat (d : BitVec 5) (a : BitVec 5) (w : BitVec 1)
  /-- CPY (R365) Queues a byte copy on a copy channel and returns its transfer identifier. -/
  | cpy (d : BitVec 5) (a : BitVec 5) (b : BitVec 5) (c : BitVec 2)
  /-- CPYT (R367) Queues a tile copy of a two-dimensional tensor with fill. -/
  | cpyt (d : BitVec 5) (a : BitVec 5) (b : BitVec 5) (c : BitVec 2)
  /-- CPYG (R366) Queues a gather copy of indexed elements. -/
  | cpyg (d : BitVec 5) (a : BitVec 5) (b : BitVec 5) (c : BitVec 2)
  /-- SEQW (R419) Waits until a staged-buffer sequence has landed and returns its slot address. -/
  | seqw (d : BitVec 5) (a : BitVec 5) (b : BitVec 5)
  /-- SEQREL (R419) Releases a staged-buffer slot in sequence order. -/
  | seqrel (a : BitVec 5) (b : BitVec 5)
  /-- CARDEF (R165) Validates and defines, or stops, the partition's carousel. -/
  | cardef (d : BitVec 5) (a : BitVec 5)
  /-- CARSUB (R169) Registers a carousel subscription entry for a segment. -/
  | carsub (d : BitVec 5) (a : BitVec 5) (b : BitVec 5)
  /-- CARDROP (R173) Frees a subscription entry and returns its status word. -/
  | cardrop (d : BitVec 5) (a : BitVec 5)
  /-- CARSKIP (R177) Requests that a segment be left out of the next lap. -/
  | carskip (d : BitVec 5) (a : BitVec 5)
  /-- CARPROM (R178) Requests a promoted pass of a segment. -/
  | carprom (d : BitVec 5) (a : BitVec 5)
  /-- CARWAIT (R172) Releases basket beats and blocks until more are delivered or the pass ends. -/
  | carwait (d : BitVec 5) (a : BitVec 5) (b : BitVec 5)
  /-- CARPOS (R175) Returns carousel state named by a selector. -/
  | carpos (d : BitVec 5) (a : BitVec 5) (b : BitVec 5)
  /-- RAYTRI (R187) Tests lane rays against a triangle exactly. -/
  | raytri (d : BitVec 5) (a : BitVec 5) (b : BitVec 5) (k : BitVec 3)
  /-- RAYBOX (R188) Tests lane rays against a box, returning entry distances. -/
  | raybox (d : BitVec 5) (a : BitVec 5) (b : BitVec 5) (k : BitVec 3)
  /-- RAYHIT (R189) Commits a closest-hit key by atomic unsigned minimum. -/
  | rayhit (d : BitVec 5) (a : BitVec 5) (b : BitVec 5)
  /-- SPSORT (R192) Sorts the gathered splat list by depth in four radix passes. -/
  | spsort (a : BitVec 5)
  /-- SPSORT_G (R191) Gathers a tile's splats into the list. -/
  | spsortG (d : BitVec 5) (a : BitVec 5) (b : BitVec 5)
  /-- SPCOMP (R193) Composites sorted splats front to back into a frame tile. -/
  | spcomp (d : BitVec 5) (a : BitVec 5) (b : BitVec 5)
  /-- ATTR (R197) Computes each lane's attribute and derivatives at the centroid of its pixels. -/
  | attr (d : BitVec 5) (a : BitVec 5) (b : BitVec 5)
  /-- PXOUT (R198) Writes lane colours to the covered pixels of a tile. -/
  | pxout (d : BitVec 5) (a : BitVec 5) (b : BitVec 5)
  /-- FRSEND (R200) Hands a frame tile to the die's encoder through fq. -/
  | frsend (a : BitVec 5) (b : BitVec 5)
  /-- EDGE (R226) Places an edge program on the cell's gq. -/
  | edge
  /-- EMODE (R233) Returns EDGESW and records a pending mode request. -/
  | emode (d : BitVec 5) (a : BitVec 5)
  /-- KRBIN (R387) Writes the key-routing registers after pending updates are applied. -/
  | krbin (a : BitVec 5) (b : BitVec 5)
  /-- VKSEND (R448) Sends one key-routed update per active lane to its owner's bin. -/
  | vksend (a : BitVec 5) (b : BitVec 5) (k : BitVec 3)
  /-- XMIT (R149) Holds a 64-byte flit for placement on a loop in a scheduled exchange cycle. -/
  | xmit (a : BitVec 5) (b : BitVec 5) (l : BitVec 5)
  /-- XSEL (R149) Holds a receive of the flit passing the stop in a scheduled exchange cycle. -/
  | xsel (d : BitVec 5) (a : BitVec 5) (b : BitVec 5) (l : BitVec 5)
  /-- SPAWN (R426) Sends a 64-byte launch header to a mailbox with a start tick. -/
  | spawn (d : BitVec 5) (a : BitVec 5) (b : BitVec 5)
  /-- MBOX (R40) Binds or unbinds a mailbox address to the executing core. -/
  | mbox (d : BitVec 5) (a : BitVec 5) (b : BitVec 5)
  /-- GANG (R33) Forms a gang of 2, 4 or 8 cores sharing the leader's stream. -/
  | gang (d : BitVec 5) (n : BitVec 6)
  /-- UNGANG (R438) Disbands the gang, followers becoming Idle. -/
  | ungang
  /-- REPB (R30) Captures the next n words into the repetition buffer. -/
  | repb (n : BitVec 6)
  /-- REPGO (R31) Hands the captured body to the repetition sequencer with a count. -/
  | repgo (a : BitVec 5)
  /-- ENQ (R49) Appends a tagged record to a stage output queue. -/
  | enq (a : BitVec 5) (b : BitVec 5) (p : BitVec 6)
  /-- DEQ (R49) Takes the reserved record of an input port into scratch. -/
  | deq (d : BitVec 5) (a : BitVec 5) (p : BitVec 6)
  /-- YIELD (R458) Gives up the context's issue turn. -/
  | yield
  /-- EXIT (R374) Ends the task once its waits are met, making the context Idle. -/
  | exit
  /-- TID (R436) Extracts field k of the work identifier. -/
  | tid (d : BitVec 5) (k : BitVec 6)
  /-- QPUSH (R406) Appends S(a) to a queue register. -/
  | qpush (a : BitVec 5) (q : BitVec 3)
  /-- QPOP (R406) Removes the oldest entry of a queue register into S(d). -/
  | qpop (d : BitVec 5) (q : BitVec 3)
  /-- QLEVEL (R406) Returns the number of entries a queue register holds. -/
  | qlevel (d : BitVec 5) (q : BitVec 3)
  /-- EXT (R375) Writes S(a) into an extension register. -/
  | ext (a : BitVec 5) (k : BitVec 3)
  /-- EXTI (R375) Writes a 16-bit immediate into one quarter of an extension register. -/
  | exti (k : BitVec 3) (i : BitVec 16) (h : BitVec 2)
  /-- EXTRD (R375) Reads an extension register into S(d). -/
  | extrd (d : BitVec 5) (k : BitVec 3)
  /-- OUTRNG (R240) Appends a range to the context's output list for digests. -/
  | outrng (a : BitVec 5) (b : BitVec 5)
  /-- DIGRD (R241) Forms the digest of the output ranges and returns one half. -/
  | digrd (d : BitVec 5) (h : BitVec 1)
  /-- TRAP (R437) Raises cause 0x09 precisely. -/
  | trap (n : BitVec 6)
  /-- SRET (R428) Returns from supervisor level to EPC, restoring PRIV and AIE. -/
  | sret
  /-- SYSRD (R434) Reads a system register into S(d). -/
  | sysrd (d : BitVec 5) (r : BitVec 11)
  /-- SYSWR (R434) Writes S(a) to the permitted fields of a system register without a row of its own. -/
  | syswr (a : BitVec 5) (r : BitVec 11)
  /-- HALT (R385) Freezes the executing context after its waits. -/
  | halt
  /-- BREAK (R357) Raises the breakpoint cause 0x08 precisely. -/
  | brk
  /-- SNAP (R425) Triggers a snapshot of the partition. -/
  | snap
  /-- WFI (R455) Blocks until a cause is pending, a watch fires or pre-emption. -/
  | wfi
  /-- C_NOP (R316) Compressed no-operation. -/
  | cNop
  /-- C_MOV (R315) Compressed register move among s8 to s15. -/
  | cMov (d : BitVec 3) (s : BitVec 3)
  /-- C_ADD (R315) Compressed addition among s8 to s15. -/
  | cAdd (d : BitVec 3) (s : BitVec 3)
  /-- C_SUB (R315) Compressed subtraction among s8 to s15. -/
  | cSub (d : BitVec 3) (s : BitVec 3)
  /-- C_ADDI (R315) Compressed add of a signed 8-bit immediate. -/
  | cAddi (d : BitVec 3) (i : BitVec 8)
  /-- C_SHLI (R315) Compressed left shift by an immediate. -/
  | cShli (d : BitVec 3) (h : BitVec 6)
  /-- C_AND (R315) Compressed bitwise AND. -/
  | cAnd (d : BitVec 3) (s : BitVec 3)
  /-- C_LDW (R315) Compressed 32-bit load. -/
  | cLdw (d : BitVec 3) (s : BitVec 3) (o : BitVec 5)
  /-- C_STW (R315) Compressed 32-bit store. -/
  | cStw (v : BitVec 3) (s : BitVec 3) (o : BitVec 5)
  /-- C_LDD (R315) Compressed 64-bit load. -/
  | cLdd (d : BitVec 3) (s : BitVec 3) (o : BitVec 5)
  /-- C_STD (R315) Compressed 64-bit store. -/
  | cStd (v : BitVec 3) (s : BitVec 3) (o : BitVec 5)
  /-- C_BEQZ (R315) Compressed branch when a register is zero. -/
  | cBeqz (s : BitVec 3) (o : BitVec 8)
  /-- C_BNEZ (R315) Compressed branch when a register is non-zero. -/
  | cBnez (s : BitVec 3) (o : BitVec 8)
  /-- C_JMP (R315) Compressed PC-relative jump. -/
  | cJmp (o : BitVec 11)
  /-- C_QPOP (R315) Compressed pop of a queue register. -/
  | cQpop (d : BitVec 3) (q : BitVec 3)
  /-- C_VFENCE (R315) Compressed VFENCE. -/
  | cVfence
  /-- ZERO_WORD (R292) Executing the halfword 0x0000 traps with cause 0x00. -/
  | zeroWord
  /-- RESERVED_MAJOR (R298) A 32-bit word of major 0 or 45 to 63 traps with cause 0x01. -/
  | reservedMajor (w : BitVec 32)
  /-- LAUNCH_MESSAGE_ARRIVAL (R45) A launch header arrives at a core and enters its launch queue or is held at the sender. -/
  | launchMessageArrival (src : Nat)
  /-- LAUNCH (R46) The queue head launches on the lowest Idle context once its start tick has passed. -/
  | launch (core : Nat)
  /-- RETENTION_COPY (R238) The heat unit copies a heat-eligible group's retained ranges into a retention slot. -/
  | retentionCopy (core : Nat)
  /-- CONTEXT_UNBLOCK (R23) The condition a Blocked context waits on clears and the context becomes Ready. -/
  | contextUnblock (key : Nat)
  /-- REPETITION_SEQUENCER_ISSUE (R31) The repetition sequencer issues one remapped captured word. -/
  | repetitionSequencerIssue (key : Nat)
  /-- VECTOR_WORD_PERFORM (R25) The vector unit performs the next queued vector word. -/
  | vectorWordPerform (core : Nat)
  /-- STAGE_FIRING (R50) A stage fires when one tag has a record in every input head window. -/
  | stageFiring (part : Nat) (stage : Nat) (cell : Nat)
  /-- BALANCER_WINDOW (R51) Every 4,096 pace ticks the balancer pairs needy stages with donors. -/
  | balancerWindow (part : Nat)
  /-- REPLAY (R54) A replay copies parameter blocks and launches the seed stages. -/
  | replay (part : Nat)
  /-- SUPERSTEP_ROUTINE_START (R56) A work routine of a superstep list starts on an Idle context. -/
  | superstepRoutineStart (core : Nat)
  /-- SYNC_RELEASE (R58) The deterministic barrier releases every core of the partition. -/
  | syncRelease (part : Nat)
  /-- EXCHANGE_ROUTINE_START (R58) The exchange routine starts 16 clocks after release at exchange cycle 0. -/
  | exchangeRoutineStart (core : Nat)
  /-- SLICE_FILL (R76) A fill arrives at a slice, is merged and the waiting requesters are served in order. -/
  | sliceFill (pa : Nat) (keyid : Nat)
  /-- MISS_RETRY (R76) A network interface re-sends a retried request after 64 clocks. -/
  | missRetry (clu : Nat)
  /-- RETENTION_ENTRY (R81) An idle array enters retention mode and re-encodes its words. -/
  | retentionEntry (kind : Nat) (idx : Nat)
  /-- RETENTION_EXIT (R81) An array leaves retention mode and re-encodes to (72,64). -/
  | retentionExit (kind : Nat) (idx : Nat)
  /-- PAGE_WALK (R71) The cluster walker completes a page walk and answers every coalesced miss. -/
  | pageWalk (core : Nat) (va : BitVec 64)
  /-- RANK_WINDOW_ACCESS (R67) A rank-window access reaches the target core's interface and is performed or refused. -/
  | rankWindowAccess (cell : Nat)
  /-- THREAD_MOVE (R69) Firmware moves a rank's thread to another core with messages held and replayed. -/
  | threadMove (part : Nat) (rank : Nat) (newCore : Nat)
  /-- GATEWAY_HOLD_RELEASE (R87) A gateway passes on a cross-die operation once its vector-clock stamp is satisfied. -/
  | gatewayHoldRelease (die : Nat)
  /-- STORE_ACKNOWLEDGE (R91) A home acknowledges an operation and the context's store-acknowledge count falls. -/
  | storeAcknowledge (key : Nat) (sys : Nat)
  /-- REL_ATOMIC_DEPART (R96) A held .rel or .ar atomic leaves the interface once the module count is zero. -/
  | relAtomicDepart (key : Nat)
  /-- WAITW_TIMEOUT (R104) A WAITW timeout passes and the context returns with reason 10. -/
  | waitwTimeout (key : Nat)
  /-- COPY_PERFORM (R364) A copy channel performs a command: payload, baton, post and completion advance. -/
  | copyPerform (core : Nat) (ch : Nat)
  /-- LOOP_PACKET_ARRIVAL (R144) A packet reaches its destination stop and is taken or refused for another lap. -/
  | loopPacketArrival (die : Nat) (idx : Nat)
  /-- XMIT_PLACEMENT (R150) In its cycle a held XMIT places its flit or takes exchange collision. -/
  | xmitPlacement (core : Nat)
  /-- XSEL_CAPTURE (R150) In its cycle a held XSEL takes the passing flit and writes it to scratch. -/
  | xselCapture (core : Nat)
  /-- RING_FLIT_GRANT (R156) A gateway gives a flit a shared or escape place and it crosses the link. -/
  | ringFlitGrant (die : Nat) (dir : Nat)
  /-- FABRIC_CONTROL_FLIT (R159) A control flit carries credits, acknowledgements, sequence and CRC. -/
  | fabricControlFlit (die : Nat) (port : Nat) (flit : ControlFlit)
  /-- FABRIC_REPLAY (R159) A receiver asks for a replay of a flit group from the sender's buffer. -/
  | fabricReplay (die : Nat) (port : Nat)
  /-- FABRIC_PACKET_ARRIVAL (R160) A fabric packet arrives and is routed by the route table. -/
  | fabricPacketArrival (die : Nat) (port : Nat) (pkt : FabricFlits)
  /-- PACE_TICK (R162) The pace count advances by one tick. -/
  | paceTick
  /-- PACE_TIMESTAMP_EXCHANGE (R162) Every 65,536 ticks links exchange timestamps and modules adjust tick periods. -/
  | paceTimestampExchange (stamp : Timestamp)
  /-- PACE_CLOCK_LOST (R163) A module without timestamps for 2^20 ticks reports loss and runs free. -/
  | paceClockLost
  /-- CAROUSEL_GROUP_SEND (R166) The source engine sends a group of 8 beats to its tree and relays. -/
  | carouselGroupSend (part : Nat)
  /-- RELAY_GROUP_ARRIVAL (R166) A relay engine receives a group and feeds its tree. -/
  | relayGroupArrival (die : Nat)
  /-- PASS_HEADER_ARRIVAL (R171) A pass header reaches a catch unit; mailbox entries launch and busy checks are made. -/
  | passHeaderArrival (cell : Nat)
  /-- PAYLOAD_BEAT_DELIVERY (R171) A payload beat is delivered to effective entries or overruns them. -/
  | payloadBeatDelivery (cell : Nat)
  /-- LAP_CUT (R167) At the cut the roll call is taken and skip requests are decided. -/
  | lapCut (part : Nat)
  /-- LAP_END (R167) The lap count rises and LAPCTR is posted. -/
  | lapEnd (part : Nat)
  /-- REINSTATEMENT (R177) An entry for a skipped segment takes effect and the segment is reinstated. -/
  | reinstatement (part : Nat) (seg : Nat)
  /-- SPLAT_COMMAND_PERFORM (R185) The splat unit performs the next splat command in arrival order. -/
  | splatCommandPerform (clu : Nat)
  /-- MQ_OPERATION_PERFORM (R207) The cell's mq performs its next queued matrix operation. -/
  | mqOperationPerform (cell : Nat)
  /-- REMOTE_MMA_ARRIVAL (R217) A remote MMA reaches the target cell and is accepted or refused. -/
  | remoteMmaArrival (cell : Nat)
  /-- KEY_UPDATE_APPLY (R223) The owner's receive-and-accumulate unit applies an update to a bin. -/
  | keyUpdateApply (core : Nat)
  /-- EDGE_PROGRAM_START (R226) The edge sequencer starts a program and checks its index blocks and body. -/
  | edgeProgramStart (cell : Nat)
  /-- EDGE_PUSH_BATCH (R229) The sequencer runs the body on a batch of out-edges and sends candidates. -/
  | edgePushBatch (cell : Nat)
  /-- EDGE_PULL_BATCH (R230) The sequencer runs the body on a batch of in-edges and combines into the bin. -/
  | edgePullBatch (cell : Nat)
  /-- EDGE_LEVEL_END (R231) A level ends: bins applied, frontier written, totals read and the next mode chosen. -/
  | edgeLevelEnd (cell : Nat)
  /-- ENCODER_TILE_ARRIVAL (R202) A tile reaches the encoder and fills its frame position. -/
  | encoderTileArrival (die : Nat)
  /-- FRAME_CLOSE (R202) A frame closes when complete or at its deadline less encoding time. -/
  | frameClose (die : Nat) (stream : Nat)
  /-- FRAME_OUTPUT (R203) A frame's bitstream is written to the output ring and posted to OCTR. -/
  | frameOutput (die : Nat) (stream : Nat)
  /-- CHECK_HEAT_START (R245) A queued check heat starts on core 0 of the checking cell. -/
  | checkHeatStart (part : Nat)
  /-- CHECK_VERDICT (R247) A check heat's digest is compared and scores updated. -/
  | checkVerdict (part : Nat) (slot : Nat)
  /-- THIRD_HEAT_START (R247) A third heat runs from the slot on a further cell. -/
  | thirdHeatStart (part : Nat) (slot : Nat)
  /-- SCORE_DECAY (R248) After every 2^20 completed eligible groups each non-zero score falls by 1. -/
  | scoreDecay
  /-- SHARE_SET_CHOICE (R255) At each pace tick the scheduler chooses the partition of a share set. -/
  | shareSetChoice (ss : Nat)
  /-- BUDGET_PERIOD_START (R253) At each period start a partition's remaining budget is reset. -/
  | budgetPeriodStart (part : Nat)
  /-- SWITCH_OUT (R256) A partition is drained, parked and saved to its save areas. -/
  | switchOut (part : Nat)
  /-- SWITCH_IN (R256) A partition's save areas are restored and its contexts resume. -/
  | switchIn (part : Nat)
  /-- ASYNCHRONOUS_CAUSE (R265) A pending asynchronous cause is taken at a context's instruction boundary. -/
  | asynchronousCause (key : Nat)
  /-- DEFERRED_TRAP (R263) A fault of a vector word is taken at the next instruction boundary. -/
  | deferredTrap (key : Nat)
  /-- FRZ_RESUME (R267) A frozen context is made Ready at EPC. -/
  | frzResume (core : Nat) (unit : Nat)
  /-- FRZ_END (R267) A frozen context is ended as by EXIT. -/
  | frzEnd (core : Nat) (unit : Nat)
  /-- FRZ_RETRY (R267) A frozen queue retries its faulted operation and continues. -/
  | frzRetry (core : Nat) (unit : Nat)
  /-- FRZ_ABORT (R267) A frozen queue discards its faulted and later operations. -/
  | frzAbort (core : Nat) (unit : Nat)
  /-- TLBI_WRITE (R279) Invalidates the partition's translations and blocks until done. -/
  | tlbiWrite (part : Nat) (v : BitVec 64)
  /-- HEATR_WRITE (R244) Sets the check rate and resets the selection sum. -/
  | heatrWrite (part : Nat) (v : BitVec 64)
  /-- ENCODER_STREAM_WRITE (R201) Writes an encoder stream register, ignored if it breaks the rate limit. -/
  | encoderStreamWrite (die : Nat) (reg : Nat) (v : BitVec 64)
  /-- FORMAT_REGION_WRITE (R77) Firmware writes a format-region register, ignored for FMT 8 to 15. -/
  | formatRegionWrite (n : Nat) (reg : Nat) (v : BitVec 64)
  /-- PARTITION_CREATE (R252) Firmware creates a partition or share set and places its save areas. -/
  | partitionCreate (part : Nat) (det : Nat) (ss : Nat) (cells : List Nat) (words : PartitionWords)
  /-- SNAPSHOT_TRIGGER (R271) A SNAPIN or host trigger requests a snapshot. -/
  | snapshotTrigger
  /-- SNAPSHOT_LATCH (R272) At tick T every block in scope latches its snapshot registers. -/
  | snapshotLatch (part : Nat)
  /-- SNAPSHOT_IMAGE_DONE (R272) The image is fully performed and SEQ advances. -/
  | snapshotImageDone (part : Nat)
  /-- HOST_LAUNCH (R273) Host request OP 0xC0 delivers a launch header. -/
  | hostLaunch (host : Nat) (tag : Nat) (part : Nat) (mbox : BitVec 64) (hdr : List (BitVec 64))
  /-- HOST_READ (R273) Host request OP 0xC1 reads 8 to 256 bytes of a bound partition. -/
  | hostRead (host : Nat) (tag : Nat) (part : Nat) (va : BitVec 64) (size : Nat)
  /-- HOST_WRITE (R273) Host request OP 0xC2 writes 8 to 256 bytes of a bound partition. -/
  | hostWrite (host : Nat) (tag : Nat) (part : Nat) (va : BitVec 64) (data : List (BitVec 8))
  /-- HOST_BIAS_FLIP (R108) Host request OP 0xC3 flips a page's bias. -/
  | hostBiasFlip (host : Nat) (tag : Nat) (part : Nat) (va : BitVec 64) (hb : Nat)
  /-- ATTESTATION (R283) Management function 0x0001 signs measurements and a nonce. -/
  | attestation (host : Nat) (tag : Nat) (part : Nat) (nonce : List (BitVec 64))
  /-- RECOVERY_IMAGE_CHUNK (R285) Management function 0x0002 delivers 256 bytes of a recovery image. -/
  | recoveryImageChunk (req : Requester) (chunk : ImageChunk)
  /-- RECOVERY_IMAGE_END (R285) Management function 0x0003 ends the recovery image and verifies it. -/
  | recoveryImageEnd (fin : ImageEnd)
  /-- CONFIGURATION_READ (R287) Management function 0x0004 reads configuration words. -/
  | configurationRead (host : Nat) (tag : Nat) (part : Nat) (arg : BitVec 38)
  /-- MGMT_BIAS_FLIP (R275) Management function 0x0005 flips a page's bias. -/
  | mgmtBiasFlip (host : Nat) (tag : Nat) (part : Nat) (va : BitVec 64) (hb : Nat)
  /-- MAILBOX_FORWARD (R276) Management function 0x0006 sets or removes a forward entry. -/
  | mailboxForward (host : Nat) (tag : Nat) (part : Nat) (arg : BitVec 38) (mbox : BitVec 64) (target : BitVec 64)
  /-- STAGE_GRAPH_DECLARATION (R53) Management function 0x0007 declares a free partition's stage graph. -/
  | stageGraphDeclaration (host : Nat) (tag : Nat) (part : Nat) (desc : BitVec 64)
  /-- RESET (R284) Power good or RESETN starts bring-up through its steps. -/
  | reset
  /-- POWER_MEASUREMENT (R286) Every 4,096 ticks a power controller measures its stack and steps the clock. -/
  | powerMeasurement (die : Nat) (watts : Nat)
  /-- SOFT_ERROR (R80) A stored word of a local array, operand memory or near-memory slice takes a single-bit or uncorrectable error. -/
  | softError (kind : Nat) (idx : Nat) (wordIdx : Nat) (double : Nat)
  /-- FABRIC_LINK_UP (R284) Link training of a fabric port completes and the link is up. -/
  | fabricLinkUp (die : Nat) (link : LinkUp)
  /-- POWER_LOSS (R283) The module's supply is lost, leaving only non-volatile state such as the HSS counter and the image slot. -/
  | powerLoss
  /-- PARTITION_REMOVAL (R55) Firmware removes a partition, freeing its cores, including ones left Blocked at SYNC after a faulty list entry. -/
  | partitionRemoval (part : Nat)
  deriving DecidableEq, Repr

end Sys2Proof
end

