-- ==== Sys2Proof/WellFormed.lean ====
section
/-! DEFINITION. Which instructions are well formed: the checks of step 3 of 15 R317 on the fields of a row. The
meanings trap with the spec's cause on a word that fails them. -/

namespace Sys2Proof

/-- The codes of Table 15-14 that name a floating-point format of FCVT. -/
def fpCode (c : Nat) : Bool := c = 1 || c = 2 || c = 3 || c = 4 || c = 7
/-- The codes of Table 15-14 that name an integer format. -/
def intCode (c : Nat) : Bool := c = 5 || c = 8 || c = 9 || c = 10

/-- The pairs and modifiers FCVT takes (15 R303). -/
def fcvtCodes (s : BitVec 1) (x : BitVec 4) (y : BitVec 5) (t : BitVec 1) : Bool :=
  (fpCode y.toNat || intCode y.toNat) && (fpCode x.toNat || intCode x.toNat) &&
    !(intCode y.toNat && intCode x.toNat) && !(s = 1 && intCode x.toNat) && !(t = 1 && fpCode x.toNat)

/-- The assigned register numbers (15 Table 15-24, 24 R434). -/
def sysReg (r : BitVec 11) : Bool :=
  r.toNat ≤ 0x15 || (0x40 ≤ r.toNat && r.toNat < 0x80 && r.toNat % 8 < 6)

/-- The registers SYSWR may write at some level (15 Table 15-24). -/
def sysWritable (r : BitVec 11) : Bool :=
  !(r = 4 || r = 5 || r = 6 || r = 7 || r = 8 || r = 9 || r = 10 || r = 15 || r = 18 || r = 19)

/-- The encoded words, as against the part's other steps. -/
def Instr.isWord : Instr → Bool
  | .add .. | .sub .. | .and .. | .or .. | .xor .. | .shl ..
  | .shr .. | .sha .. | .slt .. | .sltu .. | .min .. | .max ..
  | .minu .. | .maxu .. | .seq .. | .sel .. | .addi .. | .andi ..
  | .ori .. | .xori .. | .slti .. | .shli .. | .shri .. | .shai ..
  | .lui .. | .addpc .. | .mul .. | .mulh .. | .mulhu .. | .div ..
  | .divu .. | .rem .. | .remu .. | .clz .. | .ctz .. | .popc ..
  | .brev .. | .bswap .. | .bfx .. | .bfi .. | .fadd .. | .fsub ..
  | .fmul .. | .fdiv .. | .fsqrt .. | .fmin .. | .fmax .. | .fcmp ..
  | .fclass .. | .fcvt .. | .ffma .. | .ld .. | .st .. | .ldx ..
  | .stx .. | .pref .. | .cflush .. | .cinv .. | .ways .. | .beq ..
  | .bne .. | .blt .. | .bge .. | .bltu .. | .bgeu .. | .jmp ..
  | .jal .. | .jalr .. | .loop .. | .amo .. | .acas .. | .red ..
  | .cadd .. | .caddNr .. | .cwait .. | .cread .. | .watch .. | .waitw ..
  | .fence .. | .qfence .. | .bar .. | .sync .. | .pacew .. | .vaddF32 ..
  | .vsubF32 .. | .vmulF32 .. | .vfma .. | .vminF32 .. | .vmaxF32 .. | .vabsF32 ..
  | .vcmpEqF32 .. | .vcmpLtF32 .. | .vcmpLeF32 .. | .vcmpNeF32 .. | .vrcp .. | .vrsq ..
  | .vexp2 .. | .vlog2 .. | .vredAddF32 .. | .vredMinF32 .. | .vredMaxF32 .. | .vscanAddF32 ..
  | .vscanMinF32 .. | .vscanMaxF32 .. | .vtab .. | .vcvt .. | .vadd .. | .vsub ..
  | .vmul .. | .vmin .. | .vmax .. | .vminU .. | .vmaxU .. | .vabs ..
  | .vand .. | .vor .. | .vxor .. | .vshl .. | .vshr .. | .vsha ..
  | .vpopc .. | .vcmpEq .. | .vcmpNe .. | .vcmpLt .. | .vcmpLe .. | .vcmpLtU ..
  | .vcmpLeU .. | .vsel .. | .vperm .. | .vextr .. | .vbcast .. | .vsort ..
  | .vredAdd .. | .vredMin .. | .vredMax .. | .vscanAdd .. | .vredOr .. | .vredAnd ..
  | .vld .. | .vst .. | .vldx .. | .vstx .. | .vfence .. | .mclaim ..
  | .mrel .. | .mload .. | .mma .. | .mmaR .. | .mdrain .. | .mzero ..
  | .mgrant .. | .mstat .. | .cpy .. | .cpyt .. | .cpyg .. | .seqw ..
  | .seqrel .. | .cardef .. | .carsub .. | .cardrop .. | .carskip .. | .carprom ..
  | .carwait .. | .carpos .. | .raytri .. | .raybox .. | .rayhit .. | .spsort ..
  | .spsortG .. | .spcomp .. | .attr .. | .pxout .. | .frsend .. | .edge ..
  | .emode .. | .krbin .. | .vksend .. | .xmit .. | .xsel .. | .spawn ..
  | .mbox .. | .gang .. | .ungang .. | .repb .. | .repgo .. | .enq ..
  | .deq .. | .yield .. | .exit .. | .tid .. | .qpush .. | .qpop ..
  | .qlevel .. | .ext .. | .exti .. | .extrd .. | .outrng .. | .digrd ..
  | .trap .. | .sret .. | .sysrd .. | .syswr .. | .halt .. | .brk ..
  | .snap .. | .wfi .. | .cNop .. | .cMov .. | .cAdd .. | .cSub ..
  | .cAddi .. | .cShli .. | .cAnd .. | .cLdw .. | .cStw .. | .cLdd ..
  | .cStd .. | .cBeqz .. | .cBnez .. | .cJmp .. | .cQpop .. | .cVfence ..
  | .zeroWord .. | .reservedMajor .. => true
  | .launchMessageArrival .. | .launch .. | .retentionCopy .. | .contextUnblock .. | .repetitionSequencerIssue .. | .vectorWordPerform ..
  | .stageFiring .. | .balancerWindow .. | .replay .. | .superstepRoutineStart .. | .syncRelease .. | .exchangeRoutineStart ..
  | .sliceFill .. | .missRetry .. | .retentionEntry .. | .retentionExit .. | .pageWalk .. | .rankWindowAccess ..
  | .threadMove .. | .gatewayHoldRelease .. | .storeAcknowledge .. | .relAtomicDepart .. | .waitwTimeout .. | .copyPerform ..
  | .loopPacketArrival .. | .xmitPlacement .. | .xselCapture .. | .ringFlitGrant .. | .fabricControlFlit .. | .fabricReplay ..
  | .fabricPacketArrival .. | .paceTick .. | .paceTimestampExchange .. | .paceClockLost .. | .carouselGroupSend .. | .relayGroupArrival ..
  | .passHeaderArrival .. | .payloadBeatDelivery .. | .lapCut .. | .lapEnd .. | .reinstatement .. | .splatCommandPerform ..
  | .mqOperationPerform .. | .remoteMmaArrival .. | .keyUpdateApply .. | .edgeProgramStart .. | .edgePushBatch .. | .edgePullBatch ..
  | .edgeLevelEnd .. | .encoderTileArrival .. | .frameClose .. | .frameOutput .. | .checkHeatStart .. | .checkVerdict ..
  | .thirdHeatStart .. | .scoreDecay .. | .shareSetChoice .. | .budgetPeriodStart .. | .switchOut .. | .switchIn ..
  | .asynchronousCause .. | .deferredTrap .. | .frzResume .. | .frzEnd .. | .frzRetry .. | .frzAbort ..
  | .tlbiWrite .. | .heatrWrite .. | .encoderStreamWrite .. | .formatRegionWrite .. | .partitionCreate .. | .snapshotTrigger ..
  | .snapshotLatch .. | .snapshotImageDone .. | .hostLaunch .. | .hostRead .. | .hostWrite .. | .hostBiasFlip ..
  | .attestation .. | .recoveryImageChunk .. | .recoveryImageEnd .. | .configurationRead .. | .mgmtBiasFlip .. | .mailboxForward ..
  | .stageGraphDeclaration .. | .reset .. | .powerMeasurement .. | .softError .. | .fabricLinkUp .. | .powerLoss ..
  | .partitionRemoval .. => false

/-- The fields of the instruction hold values its tables assign. -/
def Instr.wellFormed : Instr → Bool
  | .fcvt _ _ s x y t => fcvtCodes s x y t
  | .ld _ _ _ z => z ≠ 7
  | .st _ _ _ z => z.toNat < 4
  | .ldx _ _ _ z h => z ≠ 7 && h.toNat < 4
  | .stx _ _ _ z h => z.toNat < 4 && h.toNat < 4
  | .ways _ m => m ≠ 63
  | .loop _ n => n ≠ 0
  | .amo _ _ _ _ _ p _ => p.toNat ≤ 8
  | .red _ _ w p _ => p.toNat ≤ 7 || (p.toNat ≤ 10 && w = 1)
  | .cadd _ _ s _ => s ≠ 7
  | .caddNr _ s _ => s ≠ 7
  | .cwait _ _ s _ => s ≠ 7
  | .cread _ _ s => s ≠ 7
  | .fence s => s ≠ 7
  | .bar _ s _ => s ≠ 7
  | .vcmpEqF32 m _ _ _ => m ≠ 0
  | .vcmpLtF32 m _ _ _ => m ≠ 0
  | .vcmpLeF32 m _ _ _ => m ≠ 0
  | .vcmpNeF32 m _ _ _ => m ≠ 0
  | .vadd _ _ _ _ e => e ≠ 3
  | .vsub _ _ _ _ e => e ≠ 3
  | .vmul _ _ _ _ e => e ≠ 3
  | .vmin _ _ _ _ e => e ≠ 3
  | .vmax _ _ _ _ e => e ≠ 3
  | .vminU _ _ _ _ e => e ≠ 3
  | .vmaxU _ _ _ _ e => e ≠ 3
  | .vabs _ _ _ e => e ≠ 3
  | .vshl _ _ _ _ e => e ≠ 3
  | .vshr _ _ _ _ e => e ≠ 3
  | .vsha _ _ _ _ e => e ≠ 3
  | .vcmpEq m _ _ _ e => m ≠ 0 && e ≠ 3
  | .vcmpNe m _ _ _ e => m ≠ 0 && e ≠ 3
  | .vcmpLt m _ _ _ e => m ≠ 0 && e ≠ 3
  | .vcmpLe m _ _ _ e => m ≠ 0 && e ≠ 3
  | .vcmpLtU m _ _ _ e => m ≠ 0 && e ≠ 3
  | .vcmpLeU m _ _ _ e => m ≠ 0 && e ≠ 3
  | .vldx _ _ _ _ e => e ≠ 3
  | .vstx _ _ _ _ e => e ≠ 3
  | .mload _ _ f => f.toNat ≤ 6
  -- a zero capability field makes the word an MMA (09 Table 9-2)
  | .mmaR a _ => a ≠ 0
  | .raytri d a _ _ => d.toNat ≤ 29 && a.toNat ≤ 24
  | .raybox _ a _ _ => a.toNat ≤ 24
  | .attr d a _ => d.toNat ≤ 29 && a.toNat ≤ 30
  | .pxout _ a _ => a.toNat ≤ 28
  | .gang _ n => n = 2 || n = 4 || n = 8
  | .repb n => n ≠ 0 && n.toNat ≤ 16
  | .enq _ _ p => p.toNat ≤ 3
  | .deq _ _ p => p.toNat ≤ 3
  | .tid _ k => k.toNat ≤ 5
  | .qpop _ q => q.toNat ≤ 3
  | .sysrd _ r => sysReg r
  | .syswr _ r => sysReg r && sysWritable r
  | .cQpop _ q => q.toNat ≤ 3
  | .reservedMajor w => w.getLsbD 0 && (w.extractLsb' 1 6 = 0 || 45 ≤ (w.extractLsb' 1 6).toNat)
  | .add .. | .sub .. | .and .. | .or .. | .xor .. | .shl ..
  | .shr .. | .sha .. | .slt .. | .sltu .. | .min .. | .max ..
  | .minu .. | .maxu .. | .seq .. | .sel .. | .addi .. | .andi ..
  | .ori .. | .xori .. | .slti .. | .shli .. | .shri .. | .shai ..
  | .lui .. | .addpc .. | .mul .. | .mulh .. | .mulhu .. | .div ..
  | .divu .. | .rem .. | .remu .. | .clz .. | .ctz .. | .popc ..
  | .brev .. | .bswap .. | .bfx .. | .bfi .. | .fadd .. | .fsub ..
  | .fmul .. | .fdiv .. | .fsqrt .. | .fmin .. | .fmax .. | .fcmp ..
  | .fclass .. | .ffma .. | .pref .. | .cflush .. | .cinv .. | .beq ..
  | .bne .. | .blt .. | .bge .. | .bltu .. | .bgeu .. | .jmp ..
  | .jal .. | .jalr .. | .acas .. | .watch .. | .waitw .. | .qfence ..
  | .sync .. | .pacew .. | .vaddF32 .. | .vsubF32 .. | .vmulF32 .. | .vfma ..
  | .vminF32 .. | .vmaxF32 .. | .vabsF32 .. | .vrcp .. | .vrsq .. | .vexp2 ..
  | .vlog2 .. | .vredAddF32 .. | .vredMinF32 .. | .vredMaxF32 .. | .vscanAddF32 .. | .vscanMinF32 ..
  | .vscanMaxF32 .. | .vtab .. | .vcvt .. | .vand .. | .vor .. | .vxor ..
  | .vpopc .. | .vsel .. | .vperm .. | .vextr .. | .vbcast .. | .vsort ..
  | .vredAdd .. | .vredMin .. | .vredMax .. | .vscanAdd .. | .vredOr .. | .vredAnd ..
  | .vld .. | .vst .. | .vfence .. | .mclaim .. | .mrel .. | .mma ..
  | .mdrain .. | .mzero .. | .mgrant .. | .mstat .. | .cpy ..
  | .cpyt .. | .cpyg .. | .seqw .. | .seqrel .. | .cardef .. | .carsub ..
  | .cardrop .. | .carskip .. | .carprom .. | .carwait .. | .carpos .. | .rayhit ..
  | .spsort .. | .spsortG .. | .spcomp .. | .frsend .. | .edge .. | .emode ..
  | .krbin .. | .vksend .. | .xmit .. | .xsel .. | .spawn .. | .mbox ..
  | .ungang .. | .repgo .. | .yield .. | .exit .. | .qpush .. | .qlevel ..
  | .ext .. | .exti .. | .extrd .. | .outrng .. | .digrd .. | .trap ..
  | .sret .. | .halt .. | .brk .. | .snap .. | .wfi .. | .cNop ..
  | .cMov .. | .cAdd .. | .cSub .. | .cAddi .. | .cShli .. | .cAnd ..
  | .cLdw .. | .cStw .. | .cLdd .. | .cStd .. | .cBeqz .. | .cBnez ..
  | .cJmp .. | .cVfence .. | .zeroWord .. => true
  | .launchMessageArrival .. | .launch .. | .retentionCopy .. | .contextUnblock .. | .repetitionSequencerIssue .. | .vectorWordPerform ..
  | .stageFiring .. | .balancerWindow .. | .replay .. | .superstepRoutineStart .. | .syncRelease .. | .exchangeRoutineStart ..
  | .sliceFill .. | .missRetry .. | .retentionEntry .. | .retentionExit .. | .pageWalk .. | .rankWindowAccess ..
  | .threadMove .. | .gatewayHoldRelease .. | .storeAcknowledge .. | .relAtomicDepart .. | .waitwTimeout .. | .copyPerform ..
  | .loopPacketArrival .. | .xmitPlacement .. | .xselCapture .. | .ringFlitGrant .. | .fabricControlFlit .. | .fabricReplay ..
  | .fabricPacketArrival .. | .paceTick .. | .paceTimestampExchange .. | .paceClockLost .. | .carouselGroupSend .. | .relayGroupArrival ..
  | .passHeaderArrival .. | .payloadBeatDelivery .. | .lapCut .. | .lapEnd .. | .reinstatement .. | .splatCommandPerform ..
  | .mqOperationPerform .. | .remoteMmaArrival .. | .keyUpdateApply .. | .edgeProgramStart .. | .edgePushBatch .. | .edgePullBatch ..
  | .edgeLevelEnd .. | .encoderTileArrival .. | .frameClose .. | .frameOutput .. | .checkHeatStart .. | .checkVerdict ..
  | .thirdHeatStart .. | .scoreDecay .. | .shareSetChoice .. | .budgetPeriodStart .. | .switchOut .. | .switchIn ..
  | .asynchronousCause .. | .deferredTrap .. | .frzResume .. | .frzEnd .. | .frzRetry .. | .frzAbort ..
  | .tlbiWrite .. | .heatrWrite .. | .encoderStreamWrite .. | .formatRegionWrite .. | .partitionCreate .. | .snapshotTrigger ..
  | .snapshotLatch .. | .snapshotImageDone .. | .hostLaunch .. | .hostRead .. | .hostWrite .. | .hostBiasFlip ..
  | .attestation .. | .recoveryImageChunk .. | .recoveryImageEnd .. | .configurationRead .. | .mgmtBiasFlip .. | .mailboxForward ..
  | .stageGraphDeclaration .. | .reset .. | .powerMeasurement .. | .softError .. | .fabricLinkUp .. | .powerLoss ..
  | .partitionRemoval .. => true

end Sys2Proof
end

