-- ==== Sys2Proof/Decode.lean ====
section
/-! DEFINITION. The decoder (15 R292 to R317), total on any halfwords, and after it the encoder. -/

namespace Sys2Proof

/-! ### Fields of a 32-bit word (15 Tables 15-1 to 15-6) -/

/-- Bits [31:22]. -/
def wF (w : BitVec 32) : BitVec 10 := w.extractLsb' 22 10
/-- Bits [21:17]. -/
def wB (w : BitVec 32) : BitVec 5 := w.extractLsb' 17 5
/-- Bits [16:12]. -/
def wA (w : BitVec 32) : BitVec 5 := w.extractLsb' 12 5
/-- Bits [11:7]. -/
def wD (w : BitVec 32) : BitVec 5 := w.extractLsb' 7 5
/-- The major, bits [6:1]. -/
def wMajor (w : BitVec 32) : BitVec 6 := w.extractLsb' 1 6

/-- A 32-bit word from its fields; bit 0 is 1 (15 R292). -/
def mkWord (f : BitVec 10) (b a d : BitVec 5) (m : BitVec 6) : BitVec 32 := f ++ b ++ a ++ d ++ m ++ (1 : BitVec 1)

/-- FN, f[9:6] (15 R294). -/
def fFn (f : BitVec 10) : BitVec 4 := f.extractLsb' 6 4
/-- IMM6, f[5:0]. -/
def fImm (f : BitVec 10) : BitVec 6 := f.extractLsb' 0 6
/-- f[9:5] and f[4:0]. -/
def fHi (f : BitVec 10) : BitVec 5 := f.extractLsb' 5 5
def fLo (f : BitVec 10) : BitVec 5 := f.extractLsb' 0 5
/-- VOP, EW and mask of format V (15 Table 15-6). -/
def fEw (f : BitVec 10) : BitVec 2 := f.extractLsb' 3 2
def fMk (f : BitVec 10) : BitVec 3 := f.extractLsb' 0 3
/-- The upper and lower three bits of IMM6. -/
def iHi (i : BitVec 6) : BitVec 3 := i.extractLsb' 3 3
def iLo (i : BitVec 6) : BitVec 3 := i.extractLsb' 0 3

/-- An instruction whose fields marked 0 are zero, else none (15 R299 to R312). -/
def must (p : Bool) (i : Instr) : Option Instr := if p then some i else none

/-! ### Each major -/

/-- Major 1 (Table 15-9). -/
def decAlu (f : BitVec 10) (b a d : BitVec 5) : Option Instr :=
  match fFn f with
  | 0 => must (fImm f = 0) (.add d a b)
  | 1 => must (fImm f = 0) (.sub d a b)
  | 2 => must (fImm f = 0) (.and d a b)
  | 3 => must (fImm f = 0) (.or d a b)
  | 4 => must (fImm f = 0) (.xor d a b)
  | 5 => must (fImm f = 0) (.shl d a b)
  | 6 => must (fImm f = 0) (.shr d a b)
  | 7 => must (fImm f = 0) (.sha d a b)
  | 8 => must (fImm f = 0) (.slt d a b)
  | 9 => must (fImm f = 0) (.sltu d a b)
  | 10 => must (fImm f = 0) (.min d a b)
  | 11 => must (fImm f = 0) (.max d a b)
  | 12 => must (fImm f = 0) (.minu d a b)
  | 13 => must (fImm f = 0) (.maxu d a b)
  | 14 => must (fImm f = 0) (.seq d a b)
  | _ => must ((fImm f).extractLsb' 5 1 = 0) (.sel d a b ((fImm f).extractLsb' 0 5))

/-- Major 7 (Table 15-10): bits [31:25] zero, FN in [24:23], SH in [22:17]. -/
def decShift (f : BitVec 10) (b a d : BitVec 5) : Option Instr :=
  let sh : BitVec 6 := f.extractLsb' 0 1 ++ b
  match f.extractLsb' 1 9 with
  | 0 => some (.shli d a sh)
  | 1 => some (.shri d a sh)
  | 2 => some (.shai d a sh)
  | _ => none

/-- Major 10 (Table 15-12): W in IMM6[5]. -/
def decMul (f : BitVec 10) (b a d : BitVec 5) : Option Instr :=
  let w := (fImm f).extractLsb' 5 1
  let z := (fImm f).extractLsb' 0 5 = 0
  match fFn f with
  | 0 => must z (.mul d a b w)
  | 1 => must z (.mulh d a b w)
  | 2 => must z (.mulhu d a b w)
  | 3 => must z (.div d a b w)
  | 4 => must z (.divu d a b w)
  | 5 => must z (.rem d a b w)
  | 6 => must z (.remu d a b w)
  | _ => none

/-- Major 11 (Table 15-12). -/
def decBit (f : BitVec 10) (b a d : BitVec 5) : Option Instr :=
  match fFn f with
  | 0 => must (fImm f = 0 && b = 0) (.clz d a)
  | 1 => must (fImm f = 0 && b = 0) (.ctz d a)
  | 2 => must (fImm f = 0 && b = 0) (.popc d a)
  | 3 => must (fImm f = 0 && b = 0) (.brev d a)
  | 4 => must (fImm f = 0 && b = 0) (.bswap d a)
  | 5 => must (fImm f = 0) (.bfx d a b)
  | 6 => must (fImm f = 0) (.bfi d a b)
  | _ => none

/-- Major 12 (Table 15-13). -/
def decFp (f : BitVec 10) (b a d : BitVec 5) : Option Instr :=
  match fFn f with
  | 0 => must (fImm f = 0) (.fadd d a b)
  | 1 => must (fImm f = 0) (.fsub d a b)
  | 2 => must (fImm f = 0) (.fmul d a b)
  | 3 => must (fImm f = 0) (.fdiv d a b)
  | 4 => must (fImm f = 0 && b = 0) (.fsqrt d a)
  | 5 => must (fImm f = 0) (.fmin d a b)
  | 6 => must (fImm f = 0) (.fmax d a b)
  | 7 => must ((fImm f).extractLsb' 2 4 = 0) (.fcmp d a b ((fImm f).extractLsb' 0 2))
  | 8 => must (fImm f = 0 && b = 0) (.fclass d a)
  | 9 => some (.fcvt d a ((fImm f).extractLsb' 4 1) ((fImm f).extractLsb' 0 4) b ((fImm f).extractLsb' 5 1))
  | _ => none

/-- Major 16 (Table 15-12). -/
def decIndexed (f : BitVec 10) (b a d : BitVec 5) : Option Instr :=
  match fFn f with
  | 0 => some (.ldx d a b (iHi (fImm f)) (iLo (fImm f)))
  | 1 => some (.stx d a b (iHi (fImm f)) (iLo (fImm f)))
  | _ => none

/-- Major 17 (Table 15-12, 03 Table 3-2). -/
def decCache (f : BitVec 10) (b a d : BitVec 5) : Option Instr :=
  match fFn f with
  | 0 => must (fImm f = 0 && b = 0 && d = 0) (.pref a)
  | 1 => must (fImm f = 0 && b = 0 && d = 0) (.cflush a)
  | 2 => must (fImm f = 0 && b = 0 && d = 0) (.cinv a)
  | 3 => must (b = 0 && a = 0) (.ways d (fImm f))
  | _ => none

/-- Majors 28 to 30 (Table 15-15): OP in f[9:6], ORD in f[5:4], W in f[3], OFF in f[2:0]. -/
def decAtomic (m : BitVec 6) (f : BitVec 10) (b a d : BitVec 5) : Option Instr :=
  let p := fFn f
  let r : BitVec 2 := (fImm f).extractLsb' 4 2
  let w : BitVec 1 := (fImm f).extractLsb' 3 1
  let o := iLo (fImm f)
  match m with
  | 28 => some (.amo d a b w r p o)
  | 29 => must (p = 0) (.acas d a b w r o)
  | _ => must (r = 0 && d = 0) (.red a b w p o)

/-- Major 31 (04 Table 4-3, 15 R305): SCOPE in f[5:3], MOD in f[2:0]. -/
def decSync (f : BitVec 10) (b a d : BitVec 5) : Option Instr :=
  let s := iHi (fImm f)
  let md := iLo (fImm f)
  match fFn f with
  | 0 => if md = 0 then some (.cadd d a s b) else must (md = 1 && d = 0) (.caddNr a s b)
  | 1 => must (md = 0) (.cwait d a s b)
  | 2 => must (md = 0 && b = 0) (.cread d a s)
  | 3 => must (fImm f = 0 && b = 0) (.watch d a)
  | 4 => must (fImm f = 0 && b = 0) (.waitw d a)
  | 5 => must (md = 0 && b = 0 && a = 0 && d = 0) (.fence s)
  | 6 => must (fImm f = 0 && b = 0 && d = 0) (.qfence a)
  | 7 => must (md = 0 && d = 0) (.bar a s b)
  | 8 => must (fImm f = 0 && b = 0 && a = 0 && d = 0) .sync
  | 9 => must (fImm f = 0 && b = 0) (.pacew d a)
  | _ => none

/-- Major 32 (Table 15-17). -/
def decVecFp (f : BitVec 10) (b a d : BitVec 5) : Option Instr :=
  let k := fMk f
  let e := fEw f = 0
  let m : BitVec 3 := d.extractLsb' 0 3
  let mz := d.extractLsb' 3 2 = 0
  match fHi f with
  | 0 => must e (.vaddF32 d a b k)
  | 1 => must e (.vsubF32 d a b k)
  | 2 => must e (.vmulF32 d a b k)
  | 3 => must e (.vfma d a b k)
  | 4 => must e (.vminF32 d a b k)
  | 5 => must e (.vmaxF32 d a b k)
  | 6 => must (e && b = 0) (.vabsF32 d a k)
  | 7 => must (e && mz) (.vcmpEqF32 m a b k)
  | 8 => must (e && mz) (.vcmpLtF32 m a b k)
  | 9 => must (e && mz) (.vcmpLeF32 m a b k)
  | 10 => must (e && mz) (.vcmpNeF32 m a b k)
  | 11 => must (e && b = 0) (.vrcp d a k)
  | 12 => must (e && b = 0) (.vrsq d a k)
  | 13 => must (e && b = 0) (.vexp2 d a k)
  | 14 => must (e && b = 0) (.vlog2 d a k)
  | 15 => must (e && b = 0) (.vredAddF32 d a k)
  | 16 => must (e && b = 0) (.vredMinF32 d a k)
  | 17 => must (e && b = 0) (.vredMaxF32 d a k)
  | 18 => must (e && b = 0) (.vscanAddF32 d a k)
  | 19 => must (e && b = 0) (.vscanMinF32 d a k)
  | 20 => must (e && b = 0) (.vscanMaxF32 d a k)
  | 21 => must (e && b = 0) (.vtab d a k)
  | 22 => must (e && b = 0) (.vcvt d a k)
  | _ => none

/-- Major 33 (Table 15-18). -/
def decVecInt (f : BitVec 10) (b a d : BitVec 5) : Option Instr :=
  let k := fMk f
  let ew := fEw f
  let e := ew = 0
  let m : BitVec 3 := d.extractLsb' 0 3
  let mz := d.extractLsb' 3 2 = 0
  match fHi f with
  | 0 => some (.vadd d a b k ew)
  | 1 => some (.vsub d a b k ew)
  | 2 => some (.vmul d a b k ew)
  | 3 => some (.vmin d a b k ew)
  | 4 => some (.vmax d a b k ew)
  | 5 => some (.vminU d a b k ew)
  | 6 => some (.vmaxU d a b k ew)
  | 7 => must (b = 0) (.vabs d a k ew)
  | 8 => must e (.vand d a b k)
  | 9 => must e (.vor d a b k)
  | 10 => must e (.vxor d a b k)
  | 11 => some (.vshl d a b k ew)
  | 12 => some (.vshr d a b k ew)
  | 13 => some (.vsha d a b k ew)
  | 14 => must (e && b = 0) (.vpopc d a k)
  | 15 => must mz (.vcmpEq m a b k ew)
  | 16 => must mz (.vcmpNe m a b k ew)
  | 17 => must mz (.vcmpLt m a b k ew)
  | 18 => must mz (.vcmpLe m a b k ew)
  | 19 => must mz (.vcmpLtU m a b k ew)
  | 20 => must mz (.vcmpLeU m a b k ew)
  | 21 => must e (.vsel d a b k)
  | 22 => must e (.vperm d a b k)
  | 23 => must (e && k = 0) (.vextr d a b)
  | 24 => must (e && b = 0) (.vbcast d a k)
  | 25 => must e (.vsort d a b k)
  | 26 => must (e && b = 0) (.vredAdd d a k)
  | 27 => must (e && b = 0) (.vredMin d a k)
  | 28 => must (e && b = 0) (.vredMax d a k)
  | 29 => must (e && b = 0) (.vscanAdd d a k)
  | 30 => must (e && b = 0) (.vredOr d a k)
  | _ => must (e && b = 0) (.vredAnd d a k)

/-- Major 34 (Table 15-19). -/
def decVecMem (f : BitVec 10) (b a d : BitVec 5) : Option Instr :=
  match fHi f with
  | 0 => must (fEw f = 0) (.vld d a b (fMk f))
  | 1 => must (fEw f = 0) (.vst d a b (fMk f))
  | 2 => some (.vldx d a b (fMk f) (fEw f))
  | 3 => some (.vstx d a b (fMk f) (fEw f))
  | 4 => must (fEw f = 0 && fMk f = 0 && b = 0 && a = 0 && d = 0) .vfence
  | _ => none

/-- Major 35 (09 Table 9-2). FN 3 with a = 0 is MMA, else MMA.r. -/
def decMatrix (f : BitVec 10) (b a d : BitVec 5) : Option Instr :=
  match fFn f with
  | 0 => must (fImm f = 0 && b = 0) (.mclaim d a)
  | 1 => must (fImm f = 0 && b = 0 && d = 0) (.mrel a)
  | 2 => must ((fImm f).extractLsb' 4 2 = 0 && d = 0) (.mload a b ((fImm f).extractLsb' 0 4))
  | 3 => must (fImm f = 0 && d = 0) (if a = 0 then .mma b else .mmaR a b)
  | 4 => must ((fImm f).extractLsb' 1 5 = 0 && d = 0) (.mdrain a ((fImm f).extractLsb' 0 1) b)
  | 5 => must (fImm f = 0 && b = 0 && d = 0) (.mzero a)
  | 6 => must (fImm f = 0) (.mgrant d a b)
  | 7 => must ((fImm f).extractLsb' 1 5 = 0 && b = 0) (.mstat d a ((fImm f).extractLsb' 0 1))
  | _ => none

/-- Major 36 (Table 15-20). -/
def decCopy (f : BitVec 10) (b a d : BitVec 5) : Option Instr :=
  let c : BitVec 2 := (fImm f).extractLsb' 0 2
  let z := (fImm f).extractLsb' 2 4 = 0
  match fFn f with
  | 0 => must z (.cpy d a b c)
  | 1 => must z (.cpyt d a b c)
  | 2 => must z (.cpyg d a b c)
  | 3 => must (fImm f = 0) (.seqw d a b)
  | 4 => must (fImm f = 0 && d = 0) (.seqrel a b)
  | _ => none

/-- Major 37 (07 Table 7-4). -/
def decCarousel (f : BitVec 10) (b a d : BitVec 5) : Option Instr :=
  match fFn f with
  | 0 => must (fImm f = 0 && b = 0) (.cardef d a)
  | 1 => must (fImm f = 0) (.carsub d a b)
  | 2 => must (fImm f = 0 && b = 0) (.cardrop d a)
  | 3 => must (fImm f = 0 && b = 0) (.carskip d a)
  | 4 => must (fImm f = 0 && b = 0) (.carprom d a)
  | 5 => must (fImm f = 0) (.carwait d a b)
  | 6 => must (fImm f = 0) (.carpos d a b)
  | _ => none

/-- Major 38 (08 Table 8-2). -/
def decFrame (f : BitVec 10) (b a d : BitVec 5) : Option Instr :=
  match fFn f with
  | 0 => must (iHi (fImm f) = 0) (.raytri d a b (iLo (fImm f)))
  | 1 => must (iHi (fImm f) = 0) (.raybox d a b (iLo (fImm f)))
  | 2 => must (fImm f = 0) (.rayhit d a b)
  | 3 => if fImm f = 0 then must (d = 0 && b = 0) (.spsort a) else must (fImm f = 1) (.spsortG d a b)
  | 4 => must (fImm f = 0) (.spcomp d a b)
  | 5 => must (fImm f = 0) (.attr d a b)
  | 6 => must (fImm f = 0) (.pxout d a b)
  | 7 => must (fImm f = 0 && d = 0) (.frsend a b)
  | _ => none

/-- Major 39 (10 Table 10-3). -/
def decEdge (f : BitVec 10) (b a d : BitVec 5) : Option Instr :=
  match fFn f with
  | 0 => must (fImm f = 0 && b = 0 && a = 0 && d = 0) .edge
  | 1 => must (fImm f = 0 && b = 0) (.emode d a)
  | 2 => must (fImm f = 0 && d = 0) (.krbin a b)
  | 3 => must (iHi (fImm f) = 0 && d = 0) (.vksend a b (iLo (fImm f)))
  | _ => none

/-- Major 40 (06 Table 6-2). -/
def decExchange (f : BitVec 10) (b a d : BitVec 5) : Option Instr :=
  let l : BitVec 5 := (fImm f).extractLsb' 0 5
  let z := (fImm f).extractLsb' 5 1 = 0
  match fFn f with
  | 0 => must (z && d = 0) (.xmit a b l)
  | 1 => must z (.xsel d a b l)
  | _ => none

/-- Major 41 (02 Table 2-3). -/
def decExec (f : BitVec 10) (b a d : BitVec 5) : Option Instr :=
  match fFn f with
  | 0 => must (fImm f = 0) (.spawn d a b)
  | 1 => must (fImm f = 0) (.mbox d a b)
  | 2 => must (b = 0 && a = 0) (.gang d (fImm f))
  | 3 => must (fImm f = 0 && b = 0 && a = 0 && d = 0) .ungang
  | 4 => must (b = 0 && a = 0 && d = 0) (.repb (fImm f))
  | 5 => must (fImm f = 0 && b = 0 && d = 0) (.repgo a)
  | 6 => must (d = 0) (.enq a b (fImm f))
  | 7 => must (b = 0) (.deq d a (fImm f))
  | 8 => must (fImm f = 0 && b = 0 && a = 0 && d = 0) .yield
  | 9 => must (fImm f = 0 && b = 0 && a = 0 && d = 0) .exit
  | 10 => must (b = 0 && a = 0) (.tid d (fImm f))
  | _ => none

/-- Major 42 (Table 15-21). -/
def decQueue (f : BitVec 10) (b a d : BitVec 5) : Option Instr :=
  let q := iLo (fImm f)
  let z := iHi (fImm f) = 0
  match fFn f with
  | 0 => must (z && b = 0 && d = 0) (.qpush a q)
  | 1 => must (z && b = 0 && a = 0) (.qpop d q)
  | 2 => must (z && b = 0 && a = 0) (.qlevel d q)
  | 3 => must (z && b = 0 && d = 0) (.ext a q)
  | 4 => some (.exti (d.extractLsb' 0 3) (fImm f ++ b ++ a) (d.extractLsb' 3 2))
  | 5 => must (z && b = 0 && a = 0) (.extrd d q)
  | _ => none

/-- Major 43 (11 Table 11-2). -/
def decDigest (f : BitVec 10) (b a d : BitVec 5) : Option Instr :=
  match fFn f with
  | 0 => must (fImm f = 0 && d = 0) (.outrng a b)
  | 1 => must ((fImm f).extractLsb' 1 5 = 0 && b = 0 && a = 0) (.digrd d ((fImm f).extractLsb' 0 1))
  | _ => none

/-- Major 44 (Table 15-23). -/
def decSystem (f : BitVec 10) (b a d : BitVec 5) : Option Instr :=
  match fFn f with
  | 0 => must (b = 0 && a = 0 && d = 0) (.trap (fImm f))
  | 1 => must (fImm f = 0 && b = 0 && a = 0 && d = 0) .sret
  | 2 => must (a = 0) (.sysrd d (b ++ fImm f))
  | 3 => must (d = 0) (.syswr a (b ++ fImm f))
  | 4 => must (fImm f = 0 && b = 0 && a = 0 && d = 0) .halt
  | 5 => must (fImm f = 0 && b = 0 && a = 0 && d = 0) .brk
  | 6 => must (fImm f = 0 && b = 0 && a = 0 && d = 0) .snap
  | 7 => must (fImm f = 0 && b = 0 && a = 0 && d = 0) .wfi
  | _ => none

/-- The major map (Table 15-8), majors 1 to 44. -/
def decMajor (m : BitVec 6) (f : BitVec 10) (b a d : BitVec 5) : Option Instr :=
  match m with
  | 1 => decAlu f b a d
  | 2 => some (.addi d a (f ++ b))
  | 3 => some (.andi d a (f ++ b))
  | 4 => some (.ori d a (f ++ b))
  | 5 => some (.xori d a (f ++ b))
  | 6 => some (.slti d a (f ++ b))
  | 7 => decShift f b a d
  | 8 => some (.lui d (f ++ b ++ a))
  | 9 => some (.addpc d (f ++ b ++ a))
  | 10 => decMul f b a d
  | 11 => decBit f b a d
  | 12 => decFp f b a d
  | 13 => must (fHi f = 0) (.ffma d a b (fLo f))
  | 14 => some (.ld d a (f.extractLsb' 0 7 ++ b) (f.extractLsb' 7 3))
  | 15 => some (.st d a (f.extractLsb' 0 7 ++ b) (f.extractLsb' 7 3))
  | 16 => decIndexed f b a d
  | 17 => decCache f b a d
  | 18 => some (.beq a b (f ++ d))
  | 19 => some (.bne a b (f ++ d))
  | 20 => some (.blt a b (f ++ d))
  | 21 => some (.bge a b (f ++ d))
  | 22 => some (.bltu a b (f ++ d))
  | 23 => some (.bgeu a b (f ++ d))
  | 24 => must (d = 0) (.jmp (f ++ b ++ a))
  | 25 => some (.jal d (f ++ b ++ a))
  | 26 => some (.jalr d a (f ++ b))
  | 27 => must (d = 0) (.loop a (f ++ b))
  | 28 => decAtomic 28 f b a d
  | 29 => decAtomic 29 f b a d
  | 30 => decAtomic 30 f b a d
  | 31 => decSync f b a d
  | 32 => decVecFp f b a d
  | 33 => decVecInt f b a d
  | 34 => decVecMem f b a d
  | 35 => decMatrix f b a d
  | 36 => decCopy f b a d
  | 37 => decCarousel f b a d
  | 38 => decFrame f b a d
  | 39 => decEdge f b a d
  | 40 => decExchange f b a d
  | 41 => decExec f b a d
  | 42 => decQueue f b a d
  | 43 => decDigest f b a d
  | 44 => decSystem f b a d
  | _ => none

/-- Majors 0 and 45 to 63 are reserved whatever the other bits hold (15 R298). -/
def reservedMajorOf (m : BitVec 6) : Bool := m = 0 || 45 ≤ m.toNat

/-- A 32-bit word. None: a word no row assigns, which traps with 0x02 (15 R317 step 3). -/
def decode32 (w : BitVec 32) : Option Instr :=
  if reservedMajorOf (wMajor w) then some (.reservedMajor w)
  else decMajor (wMajor w) (wF w) (wB w) (wA w) (wD w)

/-! ### Compressed words (15 Table 15-22) -/

/-- A compressed word from bits [15:13], [12:10], [9:5] and the operation in [4:1]; bit 0 is 0. -/
def mkHalf (x y : BitVec 3) (z : BitVec 5) (p : BitVec 4) : BitVec 16 := x ++ y ++ z ++ p ++ (0 : BitVec 1)

def decHalf (p : BitVec 4) (x y : BitVec 3) (z : BitVec 5) : Option Instr :=
  match p with
  | 0 => if x = 0 && y = 0 && z = 0 then some .zeroWord else must (x = 0 && y = 0 && z = 1) .cNop
  | 1 => must (z = 0) (.cMov x y)
  | 2 => must (z = 0) (.cAdd x y)
  | 3 => must (z = 0) (.cSub x y)
  | 4 => some (.cAddi x (y ++ z))
  | 5 => must (y.extractLsb' 1 2 = 0) (.cShli x (y.extractLsb' 0 1 ++ z))
  | 6 => must (z = 0) (.cAnd x y)
  | 7 => some (.cLdw x y z)
  | 8 => some (.cStw x y z)
  | 9 => some (.cLdd x y z)
  | 10 => some (.cStd x y z)
  | 11 => some (.cBeqz x (y ++ z))
  | 12 => some (.cBnez x (y ++ z))
  | 13 => some (.cJmp (x ++ y ++ z))
  | 14 => must (z = 0) (.cQpop x y)
  | _ => must (x = 0 && y = 0 && z = 0) .cVfence

/-- A 16-bit word. -/
def decode16 (h : BitVec 16) : Option Instr :=
  decHalf (h.extractLsb' 1 4) (h.extractLsb' 13 3) (h.extractLsb' 10 3) (h.extractLsb' 5 5)

/-- Bit 0 of the first halfword gives the length of a word (15 R292). -/
def isLong (h : BitVec 16) : Bool := h.getLsbD 0

/-- The instruction read from a stream of halfwords, and the halfwords left. -/
def decode : List (BitVec 16) → Option (Instr × List (BitVec 16))
  | [] => none
  | h :: t =>
    if isLong h then
      match t with
      | [] => none
      | g :: u => (decode32 (g ++ h)).map (fun i => (i, u))
    else (decode16 h).map (fun i => (i, t))

/-- The instruction whose bits are w, numbered as spec/opcode_table.json numbers them. -/
def decodeTableWord (nbits w : Nat) : Option Instr :=
  if nbits ≤ 16 then
    (decode [BitVec.ofNat 16 w]).map Prod.fst
  else (decode [BitVec.ofNat 16 w, BitVec.ofNat 16 (w / 65536)]).map Prod.fst

/-! ### The encoder -/

/-- The word of a well-formed 32-bit instruction, none for the others (15 Tables 15-1 to 15-23). -/
def encode32 : Instr → Option (BitVec 32)
  | .add d a b => some (mkWord ((0 : BitVec 4) ++ (0 : BitVec 6)) b a d 1)
  | .sub d a b => some (mkWord ((1 : BitVec 4) ++ (0 : BitVec 6)) b a d 1)
  | .and d a b => some (mkWord ((2 : BitVec 4) ++ (0 : BitVec 6)) b a d 1)
  | .or d a b => some (mkWord ((3 : BitVec 4) ++ (0 : BitVec 6)) b a d 1)
  | .xor d a b => some (mkWord ((4 : BitVec 4) ++ (0 : BitVec 6)) b a d 1)
  | .shl d a b => some (mkWord ((5 : BitVec 4) ++ (0 : BitVec 6)) b a d 1)
  | .shr d a b => some (mkWord ((6 : BitVec 4) ++ (0 : BitVec 6)) b a d 1)
  | .sha d a b => some (mkWord ((7 : BitVec 4) ++ (0 : BitVec 6)) b a d 1)
  | .slt d a b => some (mkWord ((8 : BitVec 4) ++ (0 : BitVec 6)) b a d 1)
  | .sltu d a b => some (mkWord ((9 : BitVec 4) ++ (0 : BitVec 6)) b a d 1)
  | .min d a b => some (mkWord ((10 : BitVec 4) ++ (0 : BitVec 6)) b a d 1)
  | .max d a b => some (mkWord ((11 : BitVec 4) ++ (0 : BitVec 6)) b a d 1)
  | .minu d a b => some (mkWord ((12 : BitVec 4) ++ (0 : BitVec 6)) b a d 1)
  | .maxu d a b => some (mkWord ((13 : BitVec 4) ++ (0 : BitVec 6)) b a d 1)
  | .seq d a b => some (mkWord ((14 : BitVec 4) ++ (0 : BitVec 6)) b a d 1)
  | .sel d a b c => some (mkWord ((15 : BitVec 4) ++ ((0 : BitVec 1) ++ c)) b a d 1)
  | .addi d a i => some (mkWord (i.extractLsb' 5 10) (i.extractLsb' 0 5) a d 2)
  | .andi d a i => some (mkWord (i.extractLsb' 5 10) (i.extractLsb' 0 5) a d 3)
  | .ori d a i => some (mkWord (i.extractLsb' 5 10) (i.extractLsb' 0 5) a d 4)
  | .xori d a i => some (mkWord (i.extractLsb' 5 10) (i.extractLsb' 0 5) a d 5)
  | .slti d a i => some (mkWord (i.extractLsb' 5 10) (i.extractLsb' 0 5) a d 6)
  | .shli d a s => some (mkWord ((0 : BitVec 9) ++ (s.extractLsb' 5 1)) (s.extractLsb' 0 5) a d 7)
  | .shri d a s => some (mkWord ((1 : BitVec 9) ++ (s.extractLsb' 5 1)) (s.extractLsb' 0 5) a d 7)
  | .shai d a s => some (mkWord ((2 : BitVec 9) ++ (s.extractLsb' 5 1)) (s.extractLsb' 0 5) a d 7)
  | .lui d i => some (mkWord (i.extractLsb' 10 10) (i.extractLsb' 5 5) (i.extractLsb' 0 5) d 8)
  | .addpc d i => some (mkWord (i.extractLsb' 10 10) (i.extractLsb' 5 5) (i.extractLsb' 0 5) d 9)
  | .mul d a b w => some (mkWord ((0 : BitVec 4) ++ (w ++ (0 : BitVec 5))) b a d 10)
  | .mulh d a b w => some (mkWord ((1 : BitVec 4) ++ (w ++ (0 : BitVec 5))) b a d 10)
  | .mulhu d a b w => some (mkWord ((2 : BitVec 4) ++ (w ++ (0 : BitVec 5))) b a d 10)
  | .div d a b w => some (mkWord ((3 : BitVec 4) ++ (w ++ (0 : BitVec 5))) b a d 10)
  | .divu d a b w => some (mkWord ((4 : BitVec 4) ++ (w ++ (0 : BitVec 5))) b a d 10)
  | .rem d a b w => some (mkWord ((5 : BitVec 4) ++ (w ++ (0 : BitVec 5))) b a d 10)
  | .remu d a b w => some (mkWord ((6 : BitVec 4) ++ (w ++ (0 : BitVec 5))) b a d 10)
  | .clz d a => some (mkWord ((0 : BitVec 4) ++ (0 : BitVec 6)) (0 : BitVec 5) a d 11)
  | .ctz d a => some (mkWord ((1 : BitVec 4) ++ (0 : BitVec 6)) (0 : BitVec 5) a d 11)
  | .popc d a => some (mkWord ((2 : BitVec 4) ++ (0 : BitVec 6)) (0 : BitVec 5) a d 11)
  | .brev d a => some (mkWord ((3 : BitVec 4) ++ (0 : BitVec 6)) (0 : BitVec 5) a d 11)
  | .bswap d a => some (mkWord ((4 : BitVec 4) ++ (0 : BitVec 6)) (0 : BitVec 5) a d 11)
  | .bfx d a b => some (mkWord ((5 : BitVec 4) ++ (0 : BitVec 6)) b a d 11)
  | .bfi d a b => some (mkWord ((6 : BitVec 4) ++ (0 : BitVec 6)) b a d 11)
  | .fadd d a b => some (mkWord ((0 : BitVec 4) ++ (0 : BitVec 6)) b a d 12)
  | .fsub d a b => some (mkWord ((1 : BitVec 4) ++ (0 : BitVec 6)) b a d 12)
  | .fmul d a b => some (mkWord ((2 : BitVec 4) ++ (0 : BitVec 6)) b a d 12)
  | .fdiv d a b => some (mkWord ((3 : BitVec 4) ++ (0 : BitVec 6)) b a d 12)
  | .fsqrt d a => some (mkWord ((4 : BitVec 4) ++ (0 : BitVec 6)) (0 : BitVec 5) a d 12)
  | .fmin d a b => some (mkWord ((5 : BitVec 4) ++ (0 : BitVec 6)) b a d 12)
  | .fmax d a b => some (mkWord ((6 : BitVec 4) ++ (0 : BitVec 6)) b a d 12)
  | .fcmp d a b r => some (mkWord ((7 : BitVec 4) ++ ((0 : BitVec 4) ++ r)) b a d 12)
  | .fclass d a => some (mkWord ((8 : BitVec 4) ++ (0 : BitVec 6)) (0 : BitVec 5) a d 12)
  | .fcvt d a s x y t => some (mkWord ((9 : BitVec 4) ++ (t ++ s ++ x)) y a d 12)
  | .ffma d a b c => some (mkWord ((0 : BitVec 5) ++ c) b a d 13)
  | .ld d a o z => some (mkWord (z ++ (o.extractLsb' 5 7)) (o.extractLsb' 0 5) a d 14)
  | .st v a o z => some (mkWord (z ++ (o.extractLsb' 5 7)) (o.extractLsb' 0 5) a v 15)
  | .ldx d a b z h => some (mkWord ((0 : BitVec 4) ++ (z ++ h)) b a d 16)
  | .stx v a b z h => some (mkWord ((1 : BitVec 4) ++ (z ++ h)) b a v 16)
  | .pref a => some (mkWord ((0 : BitVec 4) ++ (0 : BitVec 6)) (0 : BitVec 5) a (0 : BitVec 5) 17)
  | .cflush a => some (mkWord ((1 : BitVec 4) ++ (0 : BitVec 6)) (0 : BitVec 5) a (0 : BitVec 5) 17)
  | .cinv a => some (mkWord ((2 : BitVec 4) ++ (0 : BitVec 6)) (0 : BitVec 5) a (0 : BitVec 5) 17)
  | .ways d m => some (mkWord ((3 : BitVec 4) ++ m) (0 : BitVec 5) (0 : BitVec 5) d 17)
  | .beq a b o => some (mkWord (o.extractLsb' 5 10) b a (o.extractLsb' 0 5) 18)
  | .bne a b o => some (mkWord (o.extractLsb' 5 10) b a (o.extractLsb' 0 5) 19)
  | .blt a b o => some (mkWord (o.extractLsb' 5 10) b a (o.extractLsb' 0 5) 20)
  | .bge a b o => some (mkWord (o.extractLsb' 5 10) b a (o.extractLsb' 0 5) 21)
  | .bltu a b o => some (mkWord (o.extractLsb' 5 10) b a (o.extractLsb' 0 5) 22)
  | .bgeu a b o => some (mkWord (o.extractLsb' 5 10) b a (o.extractLsb' 0 5) 23)
  | .jmp i => some (mkWord (i.extractLsb' 10 10) (i.extractLsb' 5 5) (i.extractLsb' 0 5) (0 : BitVec 5) 24)
  | .jal d i => some (mkWord (i.extractLsb' 10 10) (i.extractLsb' 5 5) (i.extractLsb' 0 5) d 25)
  | .jalr d a i => some (mkWord (i.extractLsb' 5 10) (i.extractLsb' 0 5) a d 26)
  | .loop a n => some (mkWord (n.extractLsb' 5 10) (n.extractLsb' 0 5) a (0 : BitVec 5) 27)
  | .amo d a b w r p f => some (mkWord (p ++ (r ++ w ++ f)) b a d 28)
  | .acas d a b w r f => some (mkWord ((0 : BitVec 4) ++ (r ++ w ++ f)) b a d 29)
  | .red a b w p f => some (mkWord (p ++ ((0 : BitVec 2) ++ w ++ f)) b a (0 : BitVec 5) 30)
  | .cadd d a s b => some (mkWord ((0 : BitVec 4) ++ (s ++ (0 : BitVec 3))) b a d 31)
  | .caddNr a s b => some (mkWord ((0 : BitVec 4) ++ (s ++ (1 : BitVec 3))) b a (0 : BitVec 5) 31)
  | .cwait d a s b => some (mkWord ((1 : BitVec 4) ++ (s ++ (0 : BitVec 3))) b a d 31)
  | .cread d a s => some (mkWord ((2 : BitVec 4) ++ (s ++ (0 : BitVec 3))) (0 : BitVec 5) a d 31)
  | .watch d a => some (mkWord ((3 : BitVec 4) ++ (0 : BitVec 6)) (0 : BitVec 5) a d 31)
  | .waitw d a => some (mkWord ((4 : BitVec 4) ++ (0 : BitVec 6)) (0 : BitVec 5) a d 31)
  | .fence s => some (mkWord ((5 : BitVec 4) ++ (s ++ (0 : BitVec 3))) (0 : BitVec 5) (0 : BitVec 5) (0 : BitVec 5) 31)
  | .qfence a => some (mkWord ((6 : BitVec 4) ++ (0 : BitVec 6)) (0 : BitVec 5) a (0 : BitVec 5) 31)
  | .bar a s b => some (mkWord ((7 : BitVec 4) ++ (s ++ (0 : BitVec 3))) b a (0 : BitVec 5) 31)
  | .sync => some (mkWord ((8 : BitVec 4) ++ (0 : BitVec 6)) (0 : BitVec 5) (0 : BitVec 5) (0 : BitVec 5) 31)
  | .pacew d a => some (mkWord ((9 : BitVec 4) ++ (0 : BitVec 6)) (0 : BitVec 5) a d 31)
  | .vaddF32 d a b k => some (mkWord ((0 : BitVec 5) ++ (0 : BitVec 2) ++ k) b a d 32)
  | .vsubF32 d a b k => some (mkWord ((1 : BitVec 5) ++ (0 : BitVec 2) ++ k) b a d 32)
  | .vmulF32 d a b k => some (mkWord ((2 : BitVec 5) ++ (0 : BitVec 2) ++ k) b a d 32)
  | .vfma d a b k => some (mkWord ((3 : BitVec 5) ++ (0 : BitVec 2) ++ k) b a d 32)
  | .vminF32 d a b k => some (mkWord ((4 : BitVec 5) ++ (0 : BitVec 2) ++ k) b a d 32)
  | .vmaxF32 d a b k => some (mkWord ((5 : BitVec 5) ++ (0 : BitVec 2) ++ k) b a d 32)
  | .vabsF32 d a k => some (mkWord ((6 : BitVec 5) ++ (0 : BitVec 2) ++ k) (0 : BitVec 5) a d 32)
  | .vcmpEqF32 m a b k => some (mkWord ((7 : BitVec 5) ++ (0 : BitVec 2) ++ k) b a ((0 : BitVec 2) ++ m) 32)
  | .vcmpLtF32 m a b k => some (mkWord ((8 : BitVec 5) ++ (0 : BitVec 2) ++ k) b a ((0 : BitVec 2) ++ m) 32)
  | .vcmpLeF32 m a b k => some (mkWord ((9 : BitVec 5) ++ (0 : BitVec 2) ++ k) b a ((0 : BitVec 2) ++ m) 32)
  | .vcmpNeF32 m a b k => some (mkWord ((10 : BitVec 5) ++ (0 : BitVec 2) ++ k) b a ((0 : BitVec 2) ++ m) 32)
  | .vrcp d a k => some (mkWord ((11 : BitVec 5) ++ (0 : BitVec 2) ++ k) (0 : BitVec 5) a d 32)
  | .vrsq d a k => some (mkWord ((12 : BitVec 5) ++ (0 : BitVec 2) ++ k) (0 : BitVec 5) a d 32)
  | .vexp2 d a k => some (mkWord ((13 : BitVec 5) ++ (0 : BitVec 2) ++ k) (0 : BitVec 5) a d 32)
  | .vlog2 d a k => some (mkWord ((14 : BitVec 5) ++ (0 : BitVec 2) ++ k) (0 : BitVec 5) a d 32)
  | .vredAddF32 d a k => some (mkWord ((15 : BitVec 5) ++ (0 : BitVec 2) ++ k) (0 : BitVec 5) a d 32)
  | .vredMinF32 d a k => some (mkWord ((16 : BitVec 5) ++ (0 : BitVec 2) ++ k) (0 : BitVec 5) a d 32)
  | .vredMaxF32 d a k => some (mkWord ((17 : BitVec 5) ++ (0 : BitVec 2) ++ k) (0 : BitVec 5) a d 32)
  | .vscanAddF32 d a k => some (mkWord ((18 : BitVec 5) ++ (0 : BitVec 2) ++ k) (0 : BitVec 5) a d 32)
  | .vscanMinF32 d a k => some (mkWord ((19 : BitVec 5) ++ (0 : BitVec 2) ++ k) (0 : BitVec 5) a d 32)
  | .vscanMaxF32 d a k => some (mkWord ((20 : BitVec 5) ++ (0 : BitVec 2) ++ k) (0 : BitVec 5) a d 32)
  | .vtab d a k => some (mkWord ((21 : BitVec 5) ++ (0 : BitVec 2) ++ k) (0 : BitVec 5) a d 32)
  | .vcvt d a k => some (mkWord ((22 : BitVec 5) ++ (0 : BitVec 2) ++ k) (0 : BitVec 5) a d 32)
  | .vadd d a b k e => some (mkWord ((0 : BitVec 5) ++ e ++ k) b a d 33)
  | .vsub d a b k e => some (mkWord ((1 : BitVec 5) ++ e ++ k) b a d 33)
  | .vmul d a b k e => some (mkWord ((2 : BitVec 5) ++ e ++ k) b a d 33)
  | .vmin d a b k e => some (mkWord ((3 : BitVec 5) ++ e ++ k) b a d 33)
  | .vmax d a b k e => some (mkWord ((4 : BitVec 5) ++ e ++ k) b a d 33)
  | .vminU d a b k e => some (mkWord ((5 : BitVec 5) ++ e ++ k) b a d 33)
  | .vmaxU d a b k e => some (mkWord ((6 : BitVec 5) ++ e ++ k) b a d 33)
  | .vabs d a k e => some (mkWord ((7 : BitVec 5) ++ e ++ k) (0 : BitVec 5) a d 33)
  | .vand d a b k => some (mkWord ((8 : BitVec 5) ++ (0 : BitVec 2) ++ k) b a d 33)
  | .vor d a b k => some (mkWord ((9 : BitVec 5) ++ (0 : BitVec 2) ++ k) b a d 33)
  | .vxor d a b k => some (mkWord ((10 : BitVec 5) ++ (0 : BitVec 2) ++ k) b a d 33)
  | .vshl d a b k e => some (mkWord ((11 : BitVec 5) ++ e ++ k) b a d 33)
  | .vshr d a b k e => some (mkWord ((12 : BitVec 5) ++ e ++ k) b a d 33)
  | .vsha d a b k e => some (mkWord ((13 : BitVec 5) ++ e ++ k) b a d 33)
  | .vpopc d a k => some (mkWord ((14 : BitVec 5) ++ (0 : BitVec 2) ++ k) (0 : BitVec 5) a d 33)
  | .vcmpEq m a b k e => some (mkWord ((15 : BitVec 5) ++ e ++ k) b a ((0 : BitVec 2) ++ m) 33)
  | .vcmpNe m a b k e => some (mkWord ((16 : BitVec 5) ++ e ++ k) b a ((0 : BitVec 2) ++ m) 33)
  | .vcmpLt m a b k e => some (mkWord ((17 : BitVec 5) ++ e ++ k) b a ((0 : BitVec 2) ++ m) 33)
  | .vcmpLe m a b k e => some (mkWord ((18 : BitVec 5) ++ e ++ k) b a ((0 : BitVec 2) ++ m) 33)
  | .vcmpLtU m a b k e => some (mkWord ((19 : BitVec 5) ++ e ++ k) b a ((0 : BitVec 2) ++ m) 33)
  | .vcmpLeU m a b k e => some (mkWord ((20 : BitVec 5) ++ e ++ k) b a ((0 : BitVec 2) ++ m) 33)
  | .vsel d a b k => some (mkWord ((21 : BitVec 5) ++ (0 : BitVec 2) ++ k) b a d 33)
  | .vperm d a b k => some (mkWord ((22 : BitVec 5) ++ (0 : BitVec 2) ++ k) b a d 33)
  | .vextr d a b => some (mkWord ((23 : BitVec 5) ++ (0 : BitVec 2) ++ (0 : BitVec 3)) b a d 33)
  | .vbcast d a k => some (mkWord ((24 : BitVec 5) ++ (0 : BitVec 2) ++ k) (0 : BitVec 5) a d 33)
  | .vsort d a b k => some (mkWord ((25 : BitVec 5) ++ (0 : BitVec 2) ++ k) b a d 33)
  | .vredAdd d a k => some (mkWord ((26 : BitVec 5) ++ (0 : BitVec 2) ++ k) (0 : BitVec 5) a d 33)
  | .vredMin d a k => some (mkWord ((27 : BitVec 5) ++ (0 : BitVec 2) ++ k) (0 : BitVec 5) a d 33)
  | .vredMax d a k => some (mkWord ((28 : BitVec 5) ++ (0 : BitVec 2) ++ k) (0 : BitVec 5) a d 33)
  | .vscanAdd d a k => some (mkWord ((29 : BitVec 5) ++ (0 : BitVec 2) ++ k) (0 : BitVec 5) a d 33)
  | .vredOr d a k => some (mkWord ((30 : BitVec 5) ++ (0 : BitVec 2) ++ k) (0 : BitVec 5) a d 33)
  | .vredAnd d a k => some (mkWord ((31 : BitVec 5) ++ (0 : BitVec 2) ++ k) (0 : BitVec 5) a d 33)
  | .vld d a b k => some (mkWord ((0 : BitVec 5) ++ (0 : BitVec 2) ++ k) b a d 34)
  | .vst v a b k => some (mkWord ((1 : BitVec 5) ++ (0 : BitVec 2) ++ k) b a v 34)
  | .vldx d a b k e => some (mkWord ((2 : BitVec 5) ++ e ++ k) b a d 34)
  | .vstx v a b k e => some (mkWord ((3 : BitVec 5) ++ e ++ k) b a v 34)
  | .vfence => some (mkWord ((4 : BitVec 5) ++ (0 : BitVec 2) ++ (0 : BitVec 3)) (0 : BitVec 5) (0 : BitVec 5) (0 : BitVec 5) 34)
  | .mclaim d a => some (mkWord ((0 : BitVec 4) ++ (0 : BitVec 6)) (0 : BitVec 5) a d 35)
  | .mrel a => some (mkWord ((1 : BitVec 4) ++ (0 : BitVec 6)) (0 : BitVec 5) a (0 : BitVec 5) 35)
  | .mload a b f => some (mkWord ((2 : BitVec 4) ++ ((0 : BitVec 2) ++ f)) b a (0 : BitVec 5) 35)
  | .mma b => some (mkWord ((3 : BitVec 4) ++ (0 : BitVec 6)) b (0 : BitVec 5) (0 : BitVec 5) 35)
  | .mmaR a b => some (mkWord ((3 : BitVec 4) ++ (0 : BitVec 6)) b a (0 : BitVec 5) 35)
  | .mdrain a s b => some (mkWord ((4 : BitVec 4) ++ ((0 : BitVec 5) ++ s)) b a (0 : BitVec 5) 35)
  | .mzero a => some (mkWord ((5 : BitVec 4) ++ (0 : BitVec 6)) (0 : BitVec 5) a (0 : BitVec 5) 35)
  | .mgrant d a b => some (mkWord ((6 : BitVec 4) ++ (0 : BitVec 6)) b a d 35)
  | .mstat d a w => some (mkWord ((7 : BitVec 4) ++ ((0 : BitVec 5) ++ w)) (0 : BitVec 5) a d 35)
  | .cpy d a b c => some (mkWord ((0 : BitVec 4) ++ ((0 : BitVec 4) ++ c)) b a d 36)
  | .cpyt d a b c => some (mkWord ((1 : BitVec 4) ++ ((0 : BitVec 4) ++ c)) b a d 36)
  | .cpyg d a b c => some (mkWord ((2 : BitVec 4) ++ ((0 : BitVec 4) ++ c)) b a d 36)
  | .seqw d a b => some (mkWord ((3 : BitVec 4) ++ (0 : BitVec 6)) b a d 36)
  | .seqrel a b => some (mkWord ((4 : BitVec 4) ++ (0 : BitVec 6)) b a (0 : BitVec 5) 36)
  | .cardef d a => some (mkWord ((0 : BitVec 4) ++ (0 : BitVec 6)) (0 : BitVec 5) a d 37)
  | .carsub d a b => some (mkWord ((1 : BitVec 4) ++ (0 : BitVec 6)) b a d 37)
  | .cardrop d a => some (mkWord ((2 : BitVec 4) ++ (0 : BitVec 6)) (0 : BitVec 5) a d 37)
  | .carskip d a => some (mkWord ((3 : BitVec 4) ++ (0 : BitVec 6)) (0 : BitVec 5) a d 37)
  | .carprom d a => some (mkWord ((4 : BitVec 4) ++ (0 : BitVec 6)) (0 : BitVec 5) a d 37)
  | .carwait d a b => some (mkWord ((5 : BitVec 4) ++ (0 : BitVec 6)) b a d 37)
  | .carpos d a b => some (mkWord ((6 : BitVec 4) ++ (0 : BitVec 6)) b a d 37)
  | .raytri d a b k => some (mkWord ((0 : BitVec 4) ++ ((0 : BitVec 3) ++ k)) b a d 38)
  | .raybox d a b k => some (mkWord ((1 : BitVec 4) ++ ((0 : BitVec 3) ++ k)) b a d 38)
  | .rayhit d a b => some (mkWord ((2 : BitVec 4) ++ (0 : BitVec 6)) b a d 38)
  | .spsort a => some (mkWord ((3 : BitVec 4) ++ (0 : BitVec 6)) (0 : BitVec 5) a (0 : BitVec 5) 38)
  | .spsortG d a b => some (mkWord ((3 : BitVec 4) ++ (1 : BitVec 6)) b a d 38)
  | .spcomp d a b => some (mkWord ((4 : BitVec 4) ++ (0 : BitVec 6)) b a d 38)
  | .attr d a b => some (mkWord ((5 : BitVec 4) ++ (0 : BitVec 6)) b a d 38)
  | .pxout d a b => some (mkWord ((6 : BitVec 4) ++ (0 : BitVec 6)) b a d 38)
  | .frsend a b => some (mkWord ((7 : BitVec 4) ++ (0 : BitVec 6)) b a (0 : BitVec 5) 38)
  | .edge => some (mkWord ((0 : BitVec 4) ++ (0 : BitVec 6)) (0 : BitVec 5) (0 : BitVec 5) (0 : BitVec 5) 39)
  | .emode d a => some (mkWord ((1 : BitVec 4) ++ (0 : BitVec 6)) (0 : BitVec 5) a d 39)
  | .krbin a b => some (mkWord ((2 : BitVec 4) ++ (0 : BitVec 6)) b a (0 : BitVec 5) 39)
  | .vksend a b k => some (mkWord ((3 : BitVec 4) ++ ((0 : BitVec 3) ++ k)) b a (0 : BitVec 5) 39)
  | .xmit a b l => some (mkWord ((0 : BitVec 4) ++ ((0 : BitVec 1) ++ l)) b a (0 : BitVec 5) 40)
  | .xsel d a b l => some (mkWord ((1 : BitVec 4) ++ ((0 : BitVec 1) ++ l)) b a d 40)
  | .spawn d a b => some (mkWord ((0 : BitVec 4) ++ (0 : BitVec 6)) b a d 41)
  | .mbox d a b => some (mkWord ((1 : BitVec 4) ++ (0 : BitVec 6)) b a d 41)
  | .gang d n => some (mkWord ((2 : BitVec 4) ++ n) (0 : BitVec 5) (0 : BitVec 5) d 41)
  | .ungang => some (mkWord ((3 : BitVec 4) ++ (0 : BitVec 6)) (0 : BitVec 5) (0 : BitVec 5) (0 : BitVec 5) 41)
  | .repb n => some (mkWord ((4 : BitVec 4) ++ n) (0 : BitVec 5) (0 : BitVec 5) (0 : BitVec 5) 41)
  | .repgo a => some (mkWord ((5 : BitVec 4) ++ (0 : BitVec 6)) (0 : BitVec 5) a (0 : BitVec 5) 41)
  | .enq a b p => some (mkWord ((6 : BitVec 4) ++ p) b a (0 : BitVec 5) 41)
  | .deq d a p => some (mkWord ((7 : BitVec 4) ++ p) (0 : BitVec 5) a d 41)
  | .yield => some (mkWord ((8 : BitVec 4) ++ (0 : BitVec 6)) (0 : BitVec 5) (0 : BitVec 5) (0 : BitVec 5) 41)
  | .exit => some (mkWord ((9 : BitVec 4) ++ (0 : BitVec 6)) (0 : BitVec 5) (0 : BitVec 5) (0 : BitVec 5) 41)
  | .tid d k => some (mkWord ((10 : BitVec 4) ++ k) (0 : BitVec 5) (0 : BitVec 5) d 41)
  | .qpush a q => some (mkWord ((0 : BitVec 4) ++ ((0 : BitVec 3) ++ q)) (0 : BitVec 5) a (0 : BitVec 5) 42)
  | .qpop d q => some (mkWord ((1 : BitVec 4) ++ ((0 : BitVec 3) ++ q)) (0 : BitVec 5) (0 : BitVec 5) d 42)
  | .qlevel d q => some (mkWord ((2 : BitVec 4) ++ ((0 : BitVec 3) ++ q)) (0 : BitVec 5) (0 : BitVec 5) d 42)
  | .ext a k => some (mkWord ((3 : BitVec 4) ++ ((0 : BitVec 3) ++ k)) (0 : BitVec 5) a (0 : BitVec 5) 42)
  | .exti k i h => some (mkWord ((4 : BitVec 4) ++ (i.extractLsb' 10 6)) (i.extractLsb' 5 5) (i.extractLsb' 0 5) (h ++ k) 42)
  | .extrd d k => some (mkWord ((5 : BitVec 4) ++ ((0 : BitVec 3) ++ k)) (0 : BitVec 5) (0 : BitVec 5) d 42)
  | .outrng a b => some (mkWord ((0 : BitVec 4) ++ (0 : BitVec 6)) b a (0 : BitVec 5) 43)
  | .digrd d h => some (mkWord ((1 : BitVec 4) ++ ((0 : BitVec 5) ++ h)) (0 : BitVec 5) (0 : BitVec 5) d 43)
  | .trap n => some (mkWord ((0 : BitVec 4) ++ n) (0 : BitVec 5) (0 : BitVec 5) (0 : BitVec 5) 44)
  | .sret => some (mkWord ((1 : BitVec 4) ++ (0 : BitVec 6)) (0 : BitVec 5) (0 : BitVec 5) (0 : BitVec 5) 44)
  | .sysrd d r => some (mkWord ((2 : BitVec 4) ++ r.extractLsb' 0 6) (r.extractLsb' 6 5) (0 : BitVec 5) d 44)
  | .syswr a r => some (mkWord ((3 : BitVec 4) ++ r.extractLsb' 0 6) (r.extractLsb' 6 5) a (0 : BitVec 5) 44)
  | .halt => some (mkWord ((4 : BitVec 4) ++ (0 : BitVec 6)) (0 : BitVec 5) (0 : BitVec 5) (0 : BitVec 5) 44)
  | .brk => some (mkWord ((5 : BitVec 4) ++ (0 : BitVec 6)) (0 : BitVec 5) (0 : BitVec 5) (0 : BitVec 5) 44)
  | .snap => some (mkWord ((6 : BitVec 4) ++ (0 : BitVec 6)) (0 : BitVec 5) (0 : BitVec 5) (0 : BitVec 5) 44)
  | .wfi => some (mkWord ((7 : BitVec 4) ++ (0 : BitVec 6)) (0 : BitVec 5) (0 : BitVec 5) (0 : BitVec 5) 44)
  | .reservedMajor w => some w
  | .cNop .. | .cMov .. | .cAdd .. | .cSub .. | .cAddi .. | .cShli .. | .cAnd ..
  | .cLdw .. | .cStw .. | .cLdd .. | .cStd .. | .cBeqz .. | .cBnez .. | .cJmp ..
  | .cQpop .. | .cVfence .. | .zeroWord .. | .launchMessageArrival .. | .launch .. | .retentionCopy .. | .contextUnblock ..
  | .repetitionSequencerIssue .. | .vectorWordPerform .. | .stageFiring .. | .balancerWindow .. | .replay .. | .superstepRoutineStart .. | .syncRelease ..
  | .exchangeRoutineStart .. | .sliceFill .. | .missRetry .. | .retentionEntry .. | .retentionExit .. | .pageWalk .. | .rankWindowAccess ..
  | .threadMove .. | .gatewayHoldRelease .. | .storeAcknowledge .. | .relAtomicDepart .. | .waitwTimeout .. | .copyPerform .. | .loopPacketArrival ..
  | .xmitPlacement .. | .xselCapture .. | .ringFlitGrant .. | .fabricControlFlit .. | .fabricReplay .. | .fabricPacketArrival .. | .paceTick ..
  | .paceTimestampExchange .. | .paceClockLost .. | .carouselGroupSend .. | .relayGroupArrival .. | .passHeaderArrival .. | .payloadBeatDelivery .. | .lapCut ..
  | .lapEnd .. | .reinstatement .. | .splatCommandPerform .. | .mqOperationPerform .. | .remoteMmaArrival .. | .keyUpdateApply .. | .edgeProgramStart ..
  | .edgePushBatch .. | .edgePullBatch .. | .edgeLevelEnd .. | .encoderTileArrival .. | .frameClose .. | .frameOutput .. | .checkHeatStart ..
  | .checkVerdict .. | .thirdHeatStart .. | .scoreDecay .. | .shareSetChoice .. | .budgetPeriodStart .. | .switchOut .. | .switchIn ..
  | .asynchronousCause .. | .deferredTrap .. | .frzResume .. | .frzEnd .. | .frzRetry .. | .frzAbort .. | .tlbiWrite ..
  | .heatrWrite .. | .encoderStreamWrite .. | .formatRegionWrite .. | .partitionCreate .. | .snapshotTrigger .. | .snapshotLatch .. | .snapshotImageDone ..
  | .hostLaunch .. | .hostRead .. | .hostWrite .. | .hostBiasFlip .. | .attestation .. | .recoveryImageChunk .. | .recoveryImageEnd ..
  | .configurationRead .. | .mgmtBiasFlip .. | .mailboxForward .. | .stageGraphDeclaration .. | .reset .. | .powerMeasurement .. | .softError ..
  | .fabricLinkUp .. | .powerLoss .. | .partitionRemoval .. => none

/-- The halfword of a well-formed 16-bit instruction, none for the others (15 Table 15-22). -/
def encode16 : Instr → Option (BitVec 16)
  | .cNop => some (mkHalf (0 : BitVec 3) (0 : BitVec 3) (1 : BitVec 5) 0)
  | .cMov d s => some (mkHalf d s (0 : BitVec 5) 1)
  | .cAdd d s => some (mkHalf d s (0 : BitVec 5) 2)
  | .cSub d s => some (mkHalf d s (0 : BitVec 5) 3)
  | .cAddi d i => some (mkHalf d (i.extractLsb' 5 3) (i.extractLsb' 0 5) 4)
  | .cShli d h => some (mkHalf d ((0 : BitVec 2) ++ (h.extractLsb' 5 1)) (h.extractLsb' 0 5) 5)
  | .cAnd d s => some (mkHalf d s (0 : BitVec 5) 6)
  | .cLdw d s o => some (mkHalf d s o 7)
  | .cStw v s o => some (mkHalf v s o 8)
  | .cLdd d s o => some (mkHalf d s o 9)
  | .cStd v s o => some (mkHalf v s o 10)
  | .cBeqz s o => some (mkHalf s (o.extractLsb' 5 3) (o.extractLsb' 0 5) 11)
  | .cBnez s o => some (mkHalf s (o.extractLsb' 5 3) (o.extractLsb' 0 5) 12)
  | .cJmp o => some (mkHalf (o.extractLsb' 8 3) (o.extractLsb' 5 3) (o.extractLsb' 0 5) 13)
  | .cQpop d q => some (mkHalf d q (0 : BitVec 5) 14)
  | .cVfence => some (mkHalf (0 : BitVec 3) (0 : BitVec 3) (0 : BitVec 5) 15)
  | .zeroWord => some (mkHalf (0 : BitVec 3) (0 : BitVec 3) (0 : BitVec 5) 0)
  | .add .. | .sub .. | .and .. | .or .. | .xor .. | .shl .. | .shr ..
  | .sha .. | .slt .. | .sltu .. | .min .. | .max .. | .minu .. | .maxu ..
  | .seq .. | .sel .. | .addi .. | .andi .. | .ori .. | .xori .. | .slti ..
  | .shli .. | .shri .. | .shai .. | .lui .. | .addpc .. | .mul .. | .mulh ..
  | .mulhu .. | .div .. | .divu .. | .rem .. | .remu .. | .clz .. | .ctz ..
  | .popc .. | .brev .. | .bswap .. | .bfx .. | .bfi .. | .fadd .. | .fsub ..
  | .fmul .. | .fdiv .. | .fsqrt .. | .fmin .. | .fmax .. | .fcmp .. | .fclass ..
  | .fcvt .. | .ffma .. | .ld .. | .st .. | .ldx .. | .stx .. | .pref ..
  | .cflush .. | .cinv .. | .ways .. | .beq .. | .bne .. | .blt .. | .bge ..
  | .bltu .. | .bgeu .. | .jmp .. | .jal .. | .jalr .. | .loop .. | .amo ..
  | .acas .. | .red .. | .cadd .. | .caddNr .. | .cwait .. | .cread .. | .watch ..
  | .waitw .. | .fence .. | .qfence .. | .bar .. | .sync .. | .pacew .. | .vaddF32 ..
  | .vsubF32 .. | .vmulF32 .. | .vfma .. | .vminF32 .. | .vmaxF32 .. | .vabsF32 .. | .vcmpEqF32 ..
  | .vcmpLtF32 .. | .vcmpLeF32 .. | .vcmpNeF32 .. | .vrcp .. | .vrsq .. | .vexp2 .. | .vlog2 ..
  | .vredAddF32 .. | .vredMinF32 .. | .vredMaxF32 .. | .vscanAddF32 .. | .vscanMinF32 .. | .vscanMaxF32 .. | .vtab ..
  | .vcvt .. | .vadd .. | .vsub .. | .vmul .. | .vmin .. | .vmax .. | .vminU ..
  | .vmaxU .. | .vabs .. | .vand .. | .vor .. | .vxor .. | .vshl .. | .vshr ..
  | .vsha .. | .vpopc .. | .vcmpEq .. | .vcmpNe .. | .vcmpLt .. | .vcmpLe .. | .vcmpLtU ..
  | .vcmpLeU .. | .vsel .. | .vperm .. | .vextr .. | .vbcast .. | .vsort .. | .vredAdd ..
  | .vredMin .. | .vredMax .. | .vscanAdd .. | .vredOr .. | .vredAnd .. | .vld .. | .vst ..
  | .vldx .. | .vstx .. | .vfence .. | .mclaim .. | .mrel .. | .mload .. | .mma ..
  | .mmaR .. | .mdrain .. | .mzero .. | .mgrant .. | .mstat .. | .cpy .. | .cpyt ..
  | .cpyg .. | .seqw .. | .seqrel .. | .cardef .. | .carsub .. | .cardrop .. | .carskip ..
  | .carprom .. | .carwait .. | .carpos .. | .raytri .. | .raybox .. | .rayhit .. | .spsort ..
  | .spsortG .. | .spcomp .. | .attr .. | .pxout .. | .frsend .. | .edge .. | .emode ..
  | .krbin .. | .vksend .. | .xmit .. | .xsel .. | .spawn .. | .mbox .. | .gang ..
  | .ungang .. | .repb .. | .repgo .. | .enq .. | .deq .. | .yield .. | .exit ..
  | .tid .. | .qpush .. | .qpop .. | .qlevel .. | .ext .. | .exti .. | .extrd ..
  | .outrng .. | .digrd .. | .trap .. | .sret .. | .sysrd .. | .syswr .. | .halt ..
  | .brk .. | .snap .. | .wfi .. | .reservedMajor .. | .launchMessageArrival .. | .launch .. | .retentionCopy ..
  | .contextUnblock .. | .repetitionSequencerIssue .. | .vectorWordPerform .. | .stageFiring .. | .balancerWindow .. | .replay .. | .superstepRoutineStart ..
  | .syncRelease .. | .exchangeRoutineStart .. | .sliceFill .. | .missRetry .. | .retentionEntry .. | .retentionExit .. | .pageWalk ..
  | .rankWindowAccess .. | .threadMove .. | .gatewayHoldRelease .. | .storeAcknowledge .. | .relAtomicDepart .. | .waitwTimeout .. | .copyPerform ..
  | .loopPacketArrival .. | .xmitPlacement .. | .xselCapture .. | .ringFlitGrant .. | .fabricControlFlit .. | .fabricReplay .. | .fabricPacketArrival ..
  | .paceTick .. | .paceTimestampExchange .. | .paceClockLost .. | .carouselGroupSend .. | .relayGroupArrival .. | .passHeaderArrival .. | .payloadBeatDelivery ..
  | .lapCut .. | .lapEnd .. | .reinstatement .. | .splatCommandPerform .. | .mqOperationPerform .. | .remoteMmaArrival .. | .keyUpdateApply ..
  | .edgeProgramStart .. | .edgePushBatch .. | .edgePullBatch .. | .edgeLevelEnd .. | .encoderTileArrival .. | .frameClose .. | .frameOutput ..
  | .checkHeatStart .. | .checkVerdict .. | .thirdHeatStart .. | .scoreDecay .. | .shareSetChoice .. | .budgetPeriodStart .. | .switchOut ..
  | .switchIn .. | .asynchronousCause .. | .deferredTrap .. | .frzResume .. | .frzEnd .. | .frzRetry .. | .frzAbort ..
  | .tlbiWrite .. | .heatrWrite .. | .encoderStreamWrite .. | .formatRegionWrite .. | .partitionCreate .. | .snapshotTrigger .. | .snapshotLatch ..
  | .snapshotImageDone .. | .hostLaunch .. | .hostRead .. | .hostWrite .. | .hostBiasFlip .. | .attestation .. | .recoveryImageChunk ..
  | .recoveryImageEnd .. | .configurationRead .. | .mgmtBiasFlip .. | .mailboxForward .. | .stageGraphDeclaration .. | .reset .. | .powerMeasurement ..
  | .softError .. | .fabricLinkUp .. | .powerLoss .. | .partitionRemoval .. => none

/-- The halfwords of a well-formed instruction, lowest address first; none for a step without a word. -/
def encode (i : Instr) : List (BitVec 16) :=
  match encode32 i with
  | some w => [w.extractLsb' 0 16, w.extractLsb' 16 16]
  | none =>
    match encode16 i with
    | some h => [h]
    | none => []

end Sys2Proof
end

