-- ==== Sys2Proof/Config.lean ====
section
/-! DEFINITION. What the spec leaves to the implementation or does not state: free values. No constant here has a
body, so a statement about the machine holds whatever they are. -/

namespace Sys2Proof.Config

/-- A 64-bit value the spec does not fix, by the counter State.free (KEYH of 02 R46, nonces of 09 R216, bits "not fixed"). -/
opaque freeWord : Nat → BitVec 64
/-- A byte the spec does not fix, by the counter State.free (overlapping copies 22 R365, torn reads 06 R151). -/
opaque freeByte : Nat → BitVec 8
/-- A choice the spec does not fix, by the counter State.free: the victim of a replacement, a tag number. -/
opaque freeNat : Nat → Nat
/-- What a GDDR sector written under the first key reads as under the second (13 R280): key written, key read, sector number, the sector's 256 bits. -/
opaque recrypt : Nat → Nat → Nat → Nat → Nat
/-- Whether PXOUT converts in the mode of FRM: the spec names none (05 R139 makes it the same for equal operands). -/
opaque pxoutFrm : Bool
/-- Groups beside one that a carousel relay holds before it stalls its source (07 R166). -/
opaque relayDepth : Nat
/-- The set of a near-memory slice that a line falls in, and of a cluster TLB that a page does: 03 R72 and R74 give the
numbers of sets and ways and no function. By line number; by page base and log2 of its size. -/
opaque nearSet : Nat → Nat
opaque tlbSet : Nat → Nat → Nat
/-- The OP and TAG of ring packets that the spec gives no value (06 Table 6-4): by kind and counter. -/
opaque packetOp : Nat → Nat
opaque packetTag : Nat → Nat
/-- Replies beside one for which a network interface holds room (06 R144). -/
opaque replyRoom : Nat
/-- The CRC-32 of a control flit over the 31 flits before it (06 R159), whose polynomial the spec does not name. -/
opaque crc32 : List (BitVec 8) → BitVec 32
/-- Save areas that firmware reserves in the GDDR of a die (12 R252, R259). -/
opaque saveReserve : Nat → Nat
/-- SHA-256, which 13 R281 names and does not give. -/
opaque sha256 : List (BitVec 8) → Vector (BitVec 8) 32
/-- What a firmware image's header declares, in a layout that the spec does not give (13 R282): its root public key and its
version; and whether its HSS signature over the whole image verifies under that key. -/
opaque imageKey : List (BitVec 8) → List (BitVec 8)
opaque imageVersion : List (BitVec 8) → BitVec 32
opaque imageSigned : List (BitVec 8) → Bool
/-- The bytes of the enable map and of the disqualification record that attestation measures (13 R283), by cells. -/
opaque mapBytes : List Nat → List (BitVec 8)
opaque recordBytes : List Nat → List (BitVec 8)
/-- An HSS signature of 5,076 bytes (13 R281): the identity key, the leaf and the bytes signed. -/
opaque signature : Vector (BitVec 8) 60 → Nat → List (BitVec 8) → Vector (BitVec 8) 5076
/-- Where the values of a snapshot entry stand in its bytes 8 to 63 (12 Table 12-12 names the values and gives no places): kind, values. -/
opaque snapValues : Nat → List Nat → List (BitVec 8)
/-- The bitstream of a frame (08 R203), by stream registers, frame number and the pixels as R202 converts them: exact values,
whose rounding to a code the spec does not state. -/
opaque bitstream : List (BitVec 64) → Nat → List Int → List (BitVec 8)
/-- Whether a host or fabric reading chooses to train a link in an attempt (13 R284). -/
opaque freeBool : Nat → Bool

end Sys2Proof.Config
end

