-- ==== Sys2Proof/Machine/State.lean ====
section
/-! DEFINITION. The state of the module as plain data: everything the spec gives the machine (INVENTORY.md, State). -/

namespace Sys2Proof.Machine

/-- Why a step stops. -/
inductive Fault where
  /-- Raised by step when the module has no power and no power-good is due (13 R284): nothing executes. Safe: the
  machine stops where the hardware does nothing. -/
  | poweredOff
  deriving DecidableEq, Repr

/-- Why a step has no meaning. -/
inductive Refusal where
  /-- Raised by exec for a row that has no meaning yet. Safe: the machine stops. -/
  | notModelled (mnemonic : String)
  deriving DecidableEq, Repr

/-! ### Contexts -/

/-- What a Blocked context waits for (02 Table 2-1). -/
inductive Wait where
  /-- a pending scalar register among those named (02 R25) -/
  | regs (l : List (BitVec 5))
  /-- a place in the vector queue (02 R25) -/
  | vq
  /-- a vector memory word or held XSEL touching the 32-byte sectors from a for n bytes (02 R27, 06 R150) -/
  | sector (a : Word) (n : Nat)
  /-- every vector word of the context (02 R26) -/
  | vector
  /-- the repetition sequencer (02 R30, R31, 15 R311) -/
  | sequencer
  /-- a queue register (02 R28, R29) -/
  | queue (q : Nat) (push : Bool)
  /-- a place in the message interface (02 R44) -/
  | message
  /-- a store-acknowledge count below 64 (04 R91) -/
  | ack
  /-- the condition of a fence (04 Table 4-4) -/
  | fence (scope : Nat)
  /-- a counter reaching a target (04 R99) -/
  | counter (a : Word) (target : Nat)
  /-- a WAITW (04 R104) -/
  | waitw (d : BitVec 5)
  /-- a WFI (24 R455) -/
  | wfi
  /-- a place in the mq (09 R207) -/
  | mq
  /-- the context's mq operations (09 R215) -/
  | mqDone
  /-- a place in a copy channel (22 R363) -/
  | channel (c : Nat)
  /-- a place in a stage queue (02 R49) -/
  | stageQueue (q : Nat)
  /-- a round of SYNC (24 R432) -/
  | sync (round : Nat)
  /-- a pace tick (23 R401) -/
  | pace (t : Word)
  /-- a carousel entry's beats: the entry and the count (07 R172) -/
  | carousel (e : Nat) (want : Nat)
  /-- a splat command (08 R185) -/
  | splat
  /-- a WAYS of a core: the context's own, a sibling's, or that of a core it reaches (03 R64, R65) -/
  | ways (core : Nat)
  /-- a rank in transit (03 R69) -/
  | rank (r : Nat)
  /-- key updates accepted and not yet applied (10 R221) -/
  | keys
  /-- the encoder's buffer or an open frame (08 R200, R202) -/
  | encoder (stream frame : Nat)
  /-- the conditions of EXIT (22 R374) -/
  | exit
  /-- those of HALT (23 R385) -/
  | halt
  /-- a place among the held XMIT or XSEL operations (06 R150) -/
  | exchange (x : Bool)
  /-- a way of a slice's set, or a place in the list of a fill, for n bytes at pa: the requests get retries until then (03 R76) -/
  | slice (pa n : Nat)
  /-- a .ar atomic that the interface holds (04 Table 4-5), or one on the n bytes at a place (04 R85) -/
  | atomic
  /-- operations that precede a write to a die and are still on their way there (04 R87) -/
  | hold (die : Nat)
  /-- vector words in front of an instruction that traps (12 R262) -/
  | precise
  deriving DecidableEq, Repr

/-- The states of Table 2-1. A Parked context is saved or frozen and keeps what it was before. -/
inductive CState where
  | idle
  | ready
  | blocked (w : Wait)
  | held
  | savedReady
  | savedBlocked (w : Wait)
  | savedHeld
  | frozen
  deriving DecidableEq, Repr

/-- The fields of STATUS that are stored (12 Table 12-7); VBUSY, PEND, GANG and CTX are computed. -/
structure Status where
  priv : BitVec 2
  ppriv : BitVec 2
  aie : Bool
  paie : Bool
  frm : BitVec 2
  /-- NV, DZ, OF, UF, NX from bit 4 down to bit 0 -/
  flags : BitVec 5
  late : Bool
  lost : Bool
  heat : Bool
  det : Bool
  pure : Bool
  chk : Bool
  deriving DecidableEq, Repr

/-- A level of the LOOP nest (23 R390). -/
structure LoopLevel where
  start : Word
  last : Word
  rem : Word
  deriving DecidableEq, Repr

/-- The repetition sequencer at work (02 R31): count, iteration and word index, the window it renames, and whether the
context's own stream has the next turn of the two (02 R32). -/
structure Sequencer where
  own : Bool
  count : Nat
  iter : Nat
  idx : Nat
  wb : Nat
  ws : Nat
  stp : Nat
  deriving DecidableEq, Repr

/-- A cause with the address it concerns, 0 for none (12 R264, R268). -/
structure CauseRec where
  code : BitVec 7
  info : BitVec 32
  va : Word
  deriving DecidableEq, Repr

/-- A pending asynchronous cause (12 R265). -/
structure Async where
  src : BitVec 4
  coord : BitVec 18
  what : CauseRec
  deriving DecidableEq, Repr

/-- What a watch entry watches (04 R103): a sector of physical memory, of a core's array, or the completion registers. -/
inductive WatchTarget where
  | phys (sector : Nat) (ctr : Bool)
  | scratch (core off : Nat)
  | completion
  deriving DecidableEq, Repr

/-- An armed entry of a watch table. -/
structure WatchEntry where
  idx : Nat
  tgt : WatchTarget
  fired : Bool
  deriving DecidableEq, Repr

/-- A place a memory access reaches. -/
inductive Place where
  /-- byte off of the local array of a core, as an index way * 4096 + offset -/
  | array (core : Nat) (off : Nat)
  /-- physical memory, under a KEYID; the page's CTR, CA = 01 and HB -/
  | phys (pa : Nat) (keyid : Nat) (ctr uncached hb : Bool)
  /-- a completion register -/
  | completion (ch : Nat)
  /-- the address space of a check heat (11 R246) -/
  | shadow (va : Nat)
  deriving DecidableEq, Repr

/-- A .rel or .ar atomic that waits in the network interface (04 R96): its place, address and level
as it was accepted, and its ordering modifier (04 Table 4-5). -/
structure RelAtomic where
  place : Place
  va : Word
  user : Bool
  ord : BitVec 2
  wide : Bool
  op : Nat
  cas : Bool
  v : Nat
  e : Nat
  d : BitVec 5
  deriving DecidableEq, Repr

/-- A context's part in a gang (02 R33): the leader's key, its member number, the members, and what the member waits for
when it holds the gang back (02 R34). -/
structure GangRole where
  leader : Nat
  member : Nat
  members : List Nat
  wait : Option Wait
  deriving DecidableEq, Repr

/-- What a task is: a handler, a work routine or an exchange routine (02 R55). -/
inductive TaskKind where
  | handler
  | work
  | exchange
  deriving DecidableEq, Repr

/-- A record that a firing reserved: input port, tag, queue, the record's number and its place (02 R49, R50). -/
structure Reserved where
  port : Nat
  tag : Nat
  queue : Nat
  num : Nat
  place : Nat
  deriving DecidableEq, Repr

/-- The task a context holds. -/
structure Task where
  kind : TaskKind
  /-- the eight words of the launch header (02 Table 2-4) -/
  hdr : List Word
  mbox : Word
  /-- the number that tells a context's tasks apart (12 R265); its low byte is the task's tenant, which the notices of its
  operations carry (12 R268) -/
  num : Nat
  reserved : List Reserved
  /-- the retention slot of an eligible group (11 R238) -/
  slot : Option Nat
  /-- a check heat of a slot; true for a third heat (11 R246, R247) -/
  check : Option (Nat × Bool)
  /-- a gang follower's copy of its leader's task: what the task holds of the partition is the leader's (02 R33) -/
  follower : Bool
  deriving DecidableEq, Repr

/-- A context (01 Table 1-1, 12 Table 12-6). -/
structure Ctx where
  cs : CState
  pc : Word
  sreg : Vector Word 32
  vreg : Vector (Vector W32 8) 32
  mreg : Vector Byte 8
  ereg : Vector Word 8
  st : Status
  cause : Word
  epc : Word
  tvec : Word
  wid : Word
  widw : Word
  tenant : Byte
  deadl : Word
  keyh : Word
  opstop : Word
  loops : List LoopLevel
  /-- captured words with their addresses (23 R413) -/
  rep : List (Word × BitVec 32)
  seqr : Option Sequencer
  apend : List Async
  /-- a deferred fault found and not yet taken: address of the word and its cause (12 R263) -/
  deferred : Option (Word × CauseRec)
  /-- output ranges: start and length (11 R240) -/
  outl : List (Word × Nat)
  watch : List WatchEntry
  /-- the wake-up reasons that occurred, bits 8 to 12 of Table 4-6 as bits 0 to 4 -/
  reasons : BitVec 5
  /-- what an instruction that blocked has already done, by its address: the target of a BAR (22 R354), the round of a
  SYNC (24 R433), the tick at which a WAITW ends (04 R104), the state of a CARWAIT, the
  result of a command that another unit has performed (08 R185) -/
  resume : SMap Nat
  modCnt : Nat
  sysCnt : Nat
  relq : List RelAtomic
  /-- writes to memory before the last taken branch or jump, which its fetch sees (15 R293) -/
  seen : Nat
  pendR : List (BitVec 5)
  gang : Option GangRole
  task : Option Task
  /-- the clock after its last issue, 0 when it has not issued since its launch (02 R24) -/
  lastIssue : Nat
  deriving DecidableEq, Repr

/-! ### A core's units -/

/-- A vector-class word in the vector queue with what it read at issue (02 R25, 15 R314). -/
structure VWord where
  key : Nat
  pc : Word
  instr : Instr
  /-- the values of its scalar operands, in the order a, b (or the tile address of PXOUT) -/
  x : Word
  y : Word
  e5 : Word
  e6 : Word
  e7 : Word
  frm : BitVec 2
  krb : Word
  fromSeq : Bool
  deriving DecidableEq, Repr

/-- A copy command (22 R363 to R367) with the registers it read. -/
structure CopyCmd where
  id : Nat
  form : Nat
  dst : Word
  src : Word
  e : Vector Word 8
  key : Nat
  task : Nat
  priv : BitVec 2
  exch : Bool
  /-- payload bytes already written or sent (22 R364, 12 R267), and the end of the piece that has been checked (04 R109) -/
  done : Nat
  ends : Nat
  /-- 0 the payload, 1 the baton written or on its way, 2 the post made or on its way (22 R364) -/
  phase : Nat
  deriving DecidableEq, Repr

/-- A copy channel (22 R363, 04 R101). -/
structure Channel where
  cmds : List CopyCmd
  next : Nat
  compl : Nat
  frozen : Bool
  /-- packets on the package ring not yet acknowledged (20 R337) -/
  inFlight : Nat
  deriving DecidableEq, Repr

/-- A launch message (02 R44): mailbox, start tick, the header's words and who sent it. -/
structure Message where
  mbox : Word
  start : Word
  hdr : List Word
  part : Nat
  /-- sender: 0 a context with its key and task, 1 a copy channel (core * 4 + ch), 2 a host with its tag, 3 hardware,
  4 a catch unit for the context that registered the entry, by key and task, 5 a stage graph, 6 another module, by its number
  with the request's tag in task -/
  kind : Nat
  sender : Nat
  task : Nat
  deriving DecidableEq, Repr

/-- A header accepted by a launch queue (02 R45). -/
structure Header where
  hdr : List Word
  mbox : Word
  start : Word
  /-- the entry bound by MBOX -/
  bound : Word
  late : Bool
  param : Word
  reserved : List Reserved
  /-- the retention slot taken for it, and whether the copy has been made (11 R238) -/
  slot : Option Nat
  copied : Bool
  sender : Message
  deriving DecidableEq, Repr

/-- A key-routed update on its way to a bin (10 R223). -/
structure KeyUpdate where
  key : Nat
  value : W32
  /-- the owner's rank under the sender's KRB0 -/
  rank : Nat
  /-- the context that sent it and its task, or the cell of the edge sequencer that did -/
  sender : Nat
  task : Nat
  edge : Option Nat
  /-- its stamp when it came from another die (04 R87) -/
  stamp : Option (Vector (BitVec 32) 8)
  deriving DecidableEq, Repr

/-- A message for a rank in transit in its sender's interface (03 R69): the rank, the offset in its scratch, the context,
and what it does there. -/
inductive RankAct where
  | store (data : List Byte)
  | red (n op v : Nat)
  | key (u : KeyUpdate)
  deriving DecidableEq, Repr

structure RankMsg where
  rank : Nat
  off : Nat
  ctx : Nat
  task : Nat
  act : RankAct
  deriving DecidableEq, Repr

/-- A carousel subscription entry (07 R169, Table 7-5, Table 7-8). -/
structure Sub where
  /-- a freed entry keeps its last status with V = 0 until the place is taken again -/
  valid : Bool
  /-- the clocks in which it was registered and in which its last pass was served (07 R170, R171) -/
  reg : Nat
  fin : Nat
  seg : Nat
  mask : List Byte
  e4 : Word
  e5 : Word
  e6 : Word
  st : BitVec 2
  ovr : Bool
  busy : Bool
  gone : Bool
  mal : Bool
  dlv : Nat
  rel : Nat
  passes : Nat
  /-- beats that CPOST has posted in the current pass -/
  posted : Nat
  key : Nat
  task : Nat
  user : Bool
  deriving DecidableEq, Repr

/-- A held XMIT or XSEL (06 R149, R150). -/
structure Held where
  loop : Nat
  cycle : Nat
  data : List Byte
  addr : Nat
  d : BitVec 5
  ctx : Nat
  deriving DecidableEq, Repr

/-- The superstep list of a core (02 R55). -/
structure SuperList where
  hdr : List Word
  late : Bool
  mbox : Word
  base : Word
  idx : Nat
  /-- the routines now running or due in the current group, and whether SYNC is joined -/
  running : Nat
  joined : Bool
  /-- the exchange routine of the current kind-10 entry, started at release; 0 for none -/
  exch : Word
  /-- 0 in a work phase, 1 joined, 2 its exchange routine due, 3 at its end, 4 in the exchange routine -/
  phase : Nat
  deriving DecidableEq, Repr

/-- A WAYS in progress (03 R64): who, the new mask, the old mask. -/
structure WaysRun where
  ctx : Nat
  new : BitVec 6
  /-- the next identifier of each channel and the numbers of the next mq operation and edge program when it began -/
  chans : Vector Nat 4
  mq : Nat
  gq : Nat
  /-- key updates accepted before it and not yet applied, and the lq operations that the catch unit had accepted -/
  kin : Nat
  beats : Nat
  deriving DecidableEq, Repr

/-- A line in the L1 ways (03 R62, R78): line number, way, the KEYID of its page, tag, sideband, valid and dirty sectors. -/
structure L1Line where
  line : Nat
  way : Nat
  keyid : Nat
  tag : Nat
  sb : Word
  valid : BitVec 4
  dirty : BitVec 4
  deriving DecidableEq, Repr

/-- A translation held by a TLB (03 R72): page base, log2 of its size, entry. -/
structure TlbEntry where
  part : Nat
  base : Nat
  lg : Nat
  pte : Word
  deriving DecidableEq, Repr

/-- The error bookkeeping of an array (03 R80, R81): failing words, words with one flipped bit, the corrected count and
the retention mode with the errors each word pair has taken in it. -/
structure Ecc where
  bad : List Nat
  single : List Nat
  corr : Nat
  ret : Bool
  retErr : SMap Nat
  deriving DecidableEq, Repr

/-- An edge program that a core of a deterministic partition issued (10 R235): its counter DONE, G, and the issuer's level. -/
structure EdgeDue where
  done : Word
  g : Nat
  user : Bool
  deriving DecidableEq, Repr

/-- A core. -/
structure Core where
  q : Vector (List Word) 8
  qclaim : Vector (Option Nat) 8
  /-- contexts blocked at queue registers, oldest first: context, queue, push (02 R28) -/
  qwait : List (Nat × Nat × Bool)
  waym : BitVec 6
  arr : Mem
  ecc : Ecc
  tlb : List TlbEntry
  ch : Vector Channel 4
  vq : List VWord
  unsent : List Message
  /-- messages for a rank in transit that the interface holds, in send order (03 R69), and the entries of the rank table
  that it caches (03 R68) -/
  held : List RankMsg
  rcache : List (Nat × Word)
  launchQ : List Header
  krb0 : Word
  krb1 : Word
  kin : List KeyUpdate
  subs : SMap Sub
  xmits : List Held
  xsels : List Held
  exchBytes : Nat
  edges : List EdgeDue
  slist : Option SuperList
  joined : Nat
  ways : Option WaysRun
  l1 : List L1Line
  /-- the clock after the one in which the core last issued (02 R24) -/
  issues : Nat
  fqFrozen : Bool
  deriving DecidableEq, Repr

/-! ### A cell's units -/

/-- An operation of the mq (09 R207) with the registers it read. -/
structure MqOp where
  instr : Instr
  key : Nat
  task : Nat
  pc : Word
  x : Word
  y : Word
  e0 : Word
  e1 : Word
  e2 : Word
  e3 : Word
  priv : BitVec 2
  num : Nat
  /-- the sender's partition, for a remote command (09 R217) -/
  remote : Option Nat
  /-- for the MMA being performed, the k it has reached and its flags so far (09 R213) -/
  kAt : Option (Nat × BitVec 5)
  deriving DecidableEq, Repr

/-- A grant (09 R216). -/
structure Grant where
  nonce : Nat
  slots : Nat
  rights : Nat
  accs : Nat
  key : Nat
  part : Nat
  deriving DecidableEq, Repr

/-- An edge program on gq (10 R226). -/
structure EdgeProg where
  key : Nat
  task : Nat
  pc : Word
  core : Nat
  krb0 : Word
  krb1 : Word
  e : Vector Word 8
  s : Vector Word 32
  priv : BitVec 2
  num : Nat
  deriving DecidableEq, Repr

/-- An edge program at work (10 R228 to R232). -/
structure EdgeRun where
  prog : EdgeProg
  nv : Nat
  ne : Nat
  ids : Word
  ew : Word
  offs : Word
  cids : Word
  cew : Word
  coffs : Word
  body : List (BitVec 32)
  vreg : Vector (Vector W32 8) 8
  m : Vector Byte 3
  /-- the next owned vertex of the level, in rank and key order, and the next edge of it -/
  vtx : Nat
  edge : Nat
  /-- 0 running the level, 1 SENT added and waiting, 2 ARRIVE added and waiting -/
  phase : Nat
  deriving DecidableEq, Repr

/-- The fields of EDGESW (10 Table 10-6). -/
structure EdgeSw where
  level : Nat
  run : Bool
  fin : BitVec 2
  force : BitVec 2
  pend : BitVec 2
  mode : Bool
  deriving DecidableEq, Repr

/-- What passes on the carousel tree: a header or a payload beat (07 R171). -/
structure Beat where
  part : Nat
  seg : Nat
  len : Nat
  kind : Nat
  nodes : Nat
  prims : Nat
  lap : Nat
  slot : Nat
  promoted : Bool
  reinstated : Bool
  /-- the header of a lap's final base pass (07 R167) -/
  cut : Bool
  /-- none for the header, else the beat's number -/
  num : Option Nat
  data : List Byte
  tag : Nat
  sb : Word
  deriving DecidableEq, Repr

/-- The pass now passing a catch unit, with the payload the walker has seen (07 R171, R183). -/
structure Passing where
  head : Beat
  arrived : Nat
  payload : List Byte
  deriving DecidableEq, Repr

/-- A remote command, a launch header or a rank-window access held for a parked partition (12 R258). -/
inductive HeldMsg where
  | launch (core : Nat) (h : Header)
  | remote (op : MqOp)
  | key (core : Nat) (u : KeyUpdate)
  /-- a packet of a copy's payload: target core, scratch address, bytes, the sending core and channel, the copy's offset, and
  whether it carries the exchange class -/
  | write (core off : Nat) (data : List Byte) (src ch at' : Nat) (exch : Bool)
  deriving DecidableEq, Repr

/-- A cell. -/
structure Cell where
  part : Option Nat
  oos : Bool
  /-- disqualified in a deterministic partition, with effect at its next SYNC release (11 R250) -/
  dq : Bool
  slotMem : Mem
  /-- tag and sideband of line slot * 8 + r (09 R204) -/
  slotTag : SMap (Nat × Word)
  opEcc : Ecc
  /-- claiming context of each slot; after its EXIT, the number behind its last mq operation, with which the claim ends (09
  R205) -/
  claims : SMap (Nat × Option Nat)
  /-- pair (s, c) of element acc * 64 + i * 8 + j (05 R134) -/
  acc : SMap (W32 × W32)
  mq : List MqOp
  mqFrozen : Bool
  mqNum : Nat
  grants : List Grant
  mmaIn : List MqOp
  gq : List EdgeProg
  gqFrozen : Bool
  gqNum : Nat
  edge : Option EdgeRun
  esw : EdgeSw
  catchQ : List Beat
  passing : Option Passing
  /-- the pass that has the slot, as CARPOS reads it: it stays after its last beat until the next header or the lap gap
  (07 R175) -/
  shown : Option Passing
  /-- the latest header at the catch unit: segment and clock (07 R170, R176) -/
  hdrAt : Option (Nat × Nat)
  /-- the set mask bits of each segment as the cut's header found them, and its clock (07 R176) -/
  roll : SMap Nat
  rollAt : Option Nat
  /-- candidate buffers that took a candidate in the lap: core and scratch address (07 R182) -/
  cand : List (Nat × Nat)
  lqFrozen : Bool
  lqNum : Nat
  holding : SMap (List HeldMsg)
  deriving DecidableEq, Repr

/-! ### Clusters and dies -/

/-- A line of a near-memory slice (03 R74, R76, R78, 13 R280): the tag and sideband its fill fixed, the KEYID of its fill,
valid and dirty sectors. A line with no valid sector is an allocated way whose fill is on its way; it holds the list of
its requesters. A pinned line is listed when a copy has written its tag. -/
structure NearLine where
  tag : Nat
  sb : Word
  keyid : Nat
  valid : BitVec 4
  dirty : BitVec 4
  deriving DecidableEq, Repr

/-- A record of a miss list (03 R76). -/
structure MissReq where
  coord : Nat
  tag : Nat
  mask : Nat
  kind : Nat
  keyid : Nat
  /-- the clock at which a retried request is sent again -/
  again : Nat
  deriving DecidableEq, Repr

/-- A splat command waiting for the cluster's splat unit (08 R185). -/
structure SplatCmd where
  key : Nat
  pc : Word
  instr : Instr
  x : Word
  y : Word
  z : Word
  e6 : Word
  e7 : Word
  clock : Nat
  deriving DecidableEq, Repr

/-- A cluster. -/
structure Cluster where
  ctlb : List TlbEntry
  /-- lines the slice holds, by line number: at most 16 of a set, less the pinned ways (03 R74, R75) -/
  near : SMap NearLine
  /-- miss lists by line number, and requests that got a retry -/
  miss : SMap (List MissReq)
  retry : List (Nat × MissReq)
  /-- pinned ways, and how many of them firmware holds for save areas (03 R75, 12 R259) -/
  pins : Nat
  savePins : Nat
  /-- watch records, oldest first: sector, context key, entry (04 R103) -/
  records : List (Nat × Nat × Nat)
  splats : List SplatCmd
  ecc : Ecc
  deriving DecidableEq, Repr

/-- A flit of a scheduled exchange on a loop: loop, position it was placed at, cycle, bytes (06 R147). -/
structure LoopFlit where
  loop : Nat
  pos : Nat
  cycle : Nat
  data : List Byte
  deriving DecidableEq, Repr

/-- What a ring packet does at its destination. -/
inductive Payload where
  /-- a write of a copy: the place (in an array, by its scratch address), the bytes, the tags of the lines it writes whole,
  the sender's core and channel, the offset in the copy and the partition -/
  | copyWrite (place : Place) (data : List Byte) (tags : List (Nat × Nat × Word)) (core ch off part : Nat)
  /-- the acknowledgement of one -/
  | ack (core ch : Nat) (n : Nat)
  /-- a copy's post of n to a counter: its place, the sender's core and channel (20 R337) -/
  | post (place : Place) (n core ch : Nat)
  /-- a launch message, and the partition it is for -/
  | launch (m : Message) (part : Nat)
  /-- a group of beats for a die's relay (07 R166) -/
  | beats (l : List Beat)
  /-- a fabric packet's payload bytes, of an operation that the header's OP names -/
  | bytes (l : List Byte)
  deriving DecidableEq, Repr

/-- A packet of the package ring (06 Table 6-4) or of the fabric (06 Table 6-5). -/
structure Packet where
  dst : Nat
  src : Nat
  vc : Nat
  dir : Nat
  len : Nat
  cls : Nat
  stamp : Option (Vector (BitVec 32) 8)
  /-- DST and SRC, core coordinates -/
  core : Nat
  from' : Nat
  tag : Nat
  op : Nat
  pa : Nat
  payload : Payload
  dstMod : Nat
  srcMod : Nat
  fvc : Nat
  hops : Nat
  /-- the place of a packet for another module in the order in which this module sends to it (06 R161) -/
  seq : Nat
  deriving DecidableEq, Repr

/-- A packet that one stop of a die sends to another (06 R141 to R144): its stops by cluster, its loop (none for the stop's
local path), the slot and loop clock of each flit that has entered, the loop clock at which its head was taken, the loop
clock before which its head has been looked at, and how often it was refused. -/
structure LoopPkt where
  pkt : Packet
  src : Nat
  dst : Nat
  loop : Option Nat
  flits : List (Nat × Nat)
  taken : Option Nat
  seen : Nat
  refused : Nat
  deriving DecidableEq, Repr

/-- A write of a copy at its home: what the packet carried, the pieces of 64 bytes that are still to be written, in any order (20
R339), and whether a WAYS of the core holds it (03 Table 3-3). -/
structure Landing where
  place : Place
  data : List Byte
  tags : List (Nat × Nat × Word)
  core : Nat
  ch : Nat
  off : Nat
  exch : Bool
  stamp : Option (Vector (BitVec 32) 8)
  left : List Nat
  held : Bool
  /-- the number that a copy's post adds, in place of data -/
  post : Option Nat
  deriving DecidableEq, Repr

/-- A heat counter's add that a die holds for operations before it (04 R87): its partition, place and stamp. -/
structure CountAdd where
  part : Nat
  place : Place
  stamp : Vector (BitVec 32) 8
  deriving DecidableEq, Repr

/-- A packet at a gateway (06 R156): flits that have arrived and that have crossed onward, the places that its flits here
hold, oldest first (shared where true, else escape) with the clock in which each was given (20 R338), and whether the hold of 04 R87 has let it pass to its stop. A packet
injected here holds no place. -/
structure RingEntry where
  pkt : Packet
  got : Nat
  sent : Nat
  places : List (Bool × Nat)
  passed : Bool
  deriving DecidableEq, Repr

/-- A place that a flit left in a clock; it may be given again from the next one (20 R338). -/
structure FreedPlace where
  shared : Bool
  vc : Nat
  clock : Nat
  deriving DecidableEq, Repr

/-- A gateway: its packets, in the order in which their heads came; the class of the packet that its link took last; places left
in this clock; and the places that the link into it has given, with their clock (20 R338). -/
structure Gateway where
  q : List RingEntry
  last : Nat
  freed : List FreedPlace
  given : Nat × Nat
  deriving DecidableEq, Repr

/-- An encoder stream (08 Tables 8-7 and 8-8) and its open frames. -/
structure Stream where
  reg : Vector Word 6
  /-- writes that take effect at the next frame (08 R201) -/
  pend : Vector (Option Word) 6
  /-- frames closed so far -/
  closed : Nat
  /-- tiles of the two open frames: frame, tile row, tile column, the tile's bytes -/
  tiles : List (Nat × Nat × Nat × List Byte)
  /-- bitstreams of closed frames that wait for their output: frame, the registers in force, the partition they serve, bytes -/
  out : List (Nat × Vector Word 6 × Nat × List Byte)
  /-- tiles of the last closed frame -/
  prev : List (Nat × Nat × List Byte)
  /-- tiles of the second open frame when it has closed, whole, before the oldest (08 R202) -/
  early : Option (List (Nat × Nat × List Byte))
  produced : Nat
  /-- the partition that the registers in force serve, and the one whose supervisor last wrote a register -/
  part : Nat
  partNext : Nat
  /-- its output met "partition mismatch" (12 R266) -/
  frozen : Bool
  deriving DecidableEq, Repr

/-- A tile on fq (08 R200). -/
structure FqTile where
  key : Nat
  part : Nat
  core : Nat
  stream : Nat
  frame : Nat
  ty : Nat
  tx : Nat
  data : List Byte
  deriving DecidableEq, Repr

/-- A fabric port (06 R159): whether its link is up and whether firmware holds it frozen (12 R266), the flits that the
other side can take, the number of the last group sent, the replays that have failed in a row. -/
structure Port where
  up : Bool
  frozen : Bool
  credits : Nat
  seqno : Nat
  replays : Nat
  /-- groups in the replay buffer by number, oldest first: at most 256 flits -/
  buf : List (Nat × List Packet)
  /-- groups to be sent again, the last group of the other side that was whole, and how often a replay of the next one has been
  asked for -/
  again : List Nat
  heard : Nat
  asked : Nat
  deriving DecidableEq, Repr

/-- A die. -/
structure Die where
  mhz : Nat
  reduced : Bool
  /-- power controller at 400 MHz and above its budget, and the last window it measured (13 R286) -/
  overBudget : Bool
  measured : Nat
  /-- for a release that waits for it, the clock at which a reduced clock has returned to 800 MHz (06 R146) -/
  ramp : Option Nat
  /-- core clock of exchange cycle 0 while an exchange phase runs (06 R146) -/
  exE : Option Nat
  /-- clock at which the exchange routines start (02 R58) -/
  exStart : Option Nat
  flits : List LoopFlit
  /-- packets on the loops, and the source that a stop has served last: stop, source (06 R143) -/
  loopPkts : List LoopPkt
  loopTurn : SMap Nat
  /-- writes of copies that are being written (20 R339), and counter adds that the die holds (04 R87) -/
  landing : List Landing
  counts : List CountAdd
  gw : Vector Gateway 2
  vclk : Vector (BitVec 32) 8
  /-- groups of beats at the relay, and the partition whose group the engine sent last (07 R166) -/
  relay : List (List Beat)
  carLast : Nat
  streams : Vector Stream 8
  fq : List FqTile
  fqNum : Nat
  ports : Vector Port 2
  deriving DecidableEq, Repr

/-! ### Partitions and the module -/

/-- A record in a stage queue: its number in append order, tag, whether a firing reserved it, and its place. -/
structure QRec where
  num : Nat
  tag : Nat
  reserved : Bool
  place : Nat
  deriving DecidableEq, Repr

/-- A stage queue (02 R48, Table 2-9): log2 depth, storage, producing and consuming stage, records oldest first. -/
structure StageQueue where
  lg : Nat
  base : Word
  prod : Nat
  cons : Nat
  recs : List QRec
  next : Nat
  /-- empty since the balancer's window began (02 R51) -/
  wasEmpty : Bool
  /-- contexts blocked at an ENQ, oldest first (02 R61) -/
  wait : List Nat
  deriving DecidableEq, Repr

/-- A stage (02 Table 2-8). -/
structure Stage where
  seed : Bool
  inp : List Nat
  out : List Nat
  plen : Nat
  param : Word
  template : List Word
  cells : List Nat
  /-- cells that join when their running handlers exit (02 R51) -/
  joining : List Nat
  deriving DecidableEq, Repr

/-- A stage graph (02 R53). -/
structure Graph where
  stages : List Stage
  queues : List StageQueue
  rctr : Word
  rarea : Word
  rdepth : Nat
  /-- replays started and not yet performed: first and last, with the parameter bytes of each stage as the CADD that
  started them found them (02 R52, R54) -/
  due : List (Nat × Nat × List (List Byte))
  /-- the last window of 4,096 ticks that the balancer has closed (02 R51) -/
  window : Nat
  deriving DecidableEq, Repr

/-- A carousel definition (07 Table 7-3) with the header fields CARDEF validated. -/
structure CarDef where
  table : List Word
  order : List Nat
  g : Nat
  lapctr : Word
  /-- KIND, LEN, NODES, PRIMS of each segment -/
  heads : List (Nat × Nat × Nat × Nat)
  deriving DecidableEq, Repr

/-- A pass at the source engine (07 R167). -/
structure Pass where
  seg : Nat
  promoted : Bool
  reinstated : Bool
  deriving DecidableEq, Repr

/-- A partition's carousel (07 R164 to R178). -/
structure Carousel where
  cdef : Option CarDef
  /-- an accepted definition that takes over at the lap end; some none stops it -/
  next : Option (Option CarDef)
  lap : Nat
  /-- base passes of the lap that are left, and how many it has -/
  left : List Nat
  base : Nat
  /-- the pass in progress, its groups sent, and whether a beat of it faulted at its read -/
  cur : Option Pass
  sent : Nat
  faulted : Bool
  slot : Nat
  /-- the clock of the lap's cut, and whether LAP_CUT has settled it -/
  cutAt : Option Nat
  settled : Bool
  inGap : Bool
  /-- the earliest clock for the next group (07 R166, R167) -/
  ready : Nat
  /-- passes begun, newest first: 0 base, 1 promoted, 2 reinstated; promoted passes of this lap (07 R178) -/
  window : List Nat
  lapPromos : Nat
  /-- promotion requests in order: clock, core, segment -/
  promos : List (Nat × Nat × Nat)
  /-- skip requests with their clock; grants for the next lap; segments skipped in this one (07 R177) -/
  skipReq : SMap Nat
  /-- skip requests recorded after the clock of a cut that is not settled: they wait for the one that follows (07 R177) -/
  skipNext : List Nat
  grants : List Nat
  skipped : List Nat
  /-- notices of entries for skipped segments on their way; passes due now, and in the next lap; reinstated in this lap -/
  noticed : List Nat
  reinst : List Nat
  reinstNext : List Nat
  reinstated : List Nat
  roll : SMap Nat
  deriving DecidableEq, Repr

/-- A marker that QFENCE placed (04 R93): the operations each named queue must have performed before later ones
begin. A queue is a copy channel, an mq, lq, gq or fq by kind and unit; the number is that of its next operation. -/
structure Marker where
  queues : List (Nat × Nat × Nat)
  deriving DecidableEq, Repr

/-- A retention slot (11 R238, Table 11-1). -/
structure RetSlot where
  /-- retained lines: address, bytes of 32, tag, sideband -/
  kept : List (Nat × List Byte × Nat × Word)
  hdr : List Word
  mbox : Word
  bound : Word
  param : Word
  orig : Nat
  checker : Option Nat
  third : Option Nat
  digest : Option (Word × Word)
  digest2 : Option (Option (Word × Word))
  digest3 : Option (Option (Word × Word))
  /-- shadow store: bytes written by the check heat (11 R246) -/
  shadow : Mem
  written : List Nat
  deriving DecidableEq, Repr

/-- What a switch-out saves of a core beside its queues (12 Table 12-6), and the cells' records. -/
structure Saved where
  ctxs : SMap Ctx
  cores : SMap Core
  cells : SMap Cell
  markers : List Marker
  deriving DecidableEq, Repr

/-- A partition (02 R47, 13 Table 13-2). -/
structure Part where
  live : Bool
  det : Bool
  /-- cells in ascending rank order -/
  cells : List Nat
  desc : Vector Word 8
  /-- ranks of the table at RANKBASE that firmware has given a core (03 R68) -/
  nranks : Nat
  /-- bound mailboxes: address, core, entry (02 R40) -/
  dir : List (Word × Nat × Word)
  /-- forward entries: address, module, PARTID (02 R41) -/
  fwd : List (Word × Nat × Nat)
  /-- messages firmware holds for a rank in transit (03 R69) -/
  transit : List (Nat × HeldMsg)
  budg : Word
  remain : Nat
  period0 : Nat
  heatr : Nat
  heatA : Nat
  promx : Nat
  snapctl : Word
  /-- where the image of the last trigger goes (24 R435) -/
  snapBuf : Word
  /-- tick of a latch, and the image being written (12 R272) -/
  snapT : Option Nat
  image : Option (List Byte)
  car : Carousel
  graph : Option Graph
  /-- SYNC: rounds released (02 R58, 24 R432) -/
  rounds : Nat
  share : Option Nat
  saved : Option Saved
  /-- physical addresses of the save areas of its cells, in rank order (12 R259) -/
  areas : List Nat
  slots : SMap RetSlot
  checkQ : List Nat
  thirdQ : List Nat
  deriving DecidableEq, Repr

/-- A share set (12 R252): cells, partitions, the one switched in, a switch in progress, creation tick. -/
structure ShareSet where
  cells : List Nat
  parts : List Nat
  current : Option Nat
  /-- the partition being switched in, and whether the outgoing one is already saved -/
  switching : Option (Nat × Bool)
  born : Nat
  deriving DecidableEq, Repr

/-- A reply to a host (13 R273). -/
structure Reply where
  host : Nat
  tag : Nat
  status : Nat
  data : List Byte
  deriving DecidableEq, Repr

/-- Fuses (13 R281): the SHA-256 of the root public key, the module's certified identity public key and the minimum firmware
version. -/
structure Fuses where
  rootHash : Vector Byte 32
  identity : Vector Byte 60
  minVersion : BitVec 32
  deriving DecidableEq, Repr

/-- A byte of physical memory as it stood before a write, and the number of writes before that one. -/
structure Overwritten where
  num : Nat
  pa : Nat
  old : Byte
  deriving DecidableEq, Repr

/-- A management request waiting for firmware (13 R277): the requester, its tag and the request's eight words. -/
structure MgmtReq where
  host : Nat
  tag : Nat
  words : List Word
  deriving DecidableEq, Repr

/-- A read (no data) or write of a host that waits for operations before it (13 R273, 04 R87). -/
structure HostReq where
  host : Nat
  tag : Nat
  part : Nat
  va : Word
  size : Nat
  data : Option (List Byte)
  deriving DecidableEq, Repr

/-- A binding of a host agent (13 R274): host, PARTID, rights launch, read, write, flip. -/
structure Binding where
  host : Nat
  part : Nat
  launch : Bool
  read : Bool
  write : Bool
  flip : Bool
  deriving DecidableEq, Repr

/-- Who moves at a step: an event, a core's issue, or a pace tick. The schedule is plain data (notes/assumptions/8.md, DESIGN CHOICE). -/
inductive Turn where
  | event (i : Instr)
  | issue (core : Nat)
  deriving DecidableEq, Repr

/-- The module. -/
structure State where
  /-- contexts, by core coordinate * 4 + context number -/
  ctxs : SMap Ctx
  /-- cores, by coordinate (01 R16) -/
  cores : SMap Core
  /-- cells, by coordinate / 4 -/
  cells : SMap Cell
  /-- clusters, by coordinate / 512 -/
  clus : SMap Cluster
  dies : SMap Die
  parts : SMap Part
  shares : SMap ShareSet
  /-- physical memory (03 R74, R75): its bytes, and the key each sector of GDDR was written under: the draw of its pair,
  times 64, plus its KEYID (13 R280) -/
  mem : Mem
  memKey : SMap Nat
  /-- bytes of memory as they stood before a write, the newest write first, and the number of writes: what a context's fetch still
  sees (15 R293) -/
  wrote : List Overwritten
  wroteNum : Nat
  /-- failing 64-bit words of memory (03 R80) -/
  memEcc : Ecc
  /-- format regions FRA, FRB, FRC (03 R77) -/
  regions : SMap (Word × Word × Word)
  markers : List Marker
  /-- clocks of 800 MHz counted since reset (00 R3) -/
  clock : Nat
  pace : Word
  /-- thousandths of a tick that have passed of the present one; tick periods still to lengthen (above 0) or to shorten
  (below 0) by one part in 1,000; the module that is time master (06 R162) -/
  pacePhase : Nat
  paceFix : Int
  timeMaster : Nat
  paceLost : Bool
  paceAge : Nat
  paceOffset : Int
  /-- the fused list of disabled cells (01 R21): what the ordering codes of 00 R1 differ in -/
  disabled : List Nat
  power : Bool
  /-- step of bring-up and whether it is held there (13 R284) -/
  boot : Nat
  bootHeld : Bool
  /-- what else the fuses hold (13 R281) -/
  fuses : Fuses
  image : List Byte
  recovery : SMap (List Byte)
  hss : Nat
  scores : SMap Nat
  completed : Nat
  hwMsgs : List Message
  /-- management requests, in arrival order (13 R277) -/
  mgmt : List MgmtReq
  /-- partition a management request's notice goes to -/
  notices : List (Nat × List Word)
  replies : List Reply
  /-- reads and writes of hosts that wait for operations before them, in arrival order (13 R274) -/
  hostQ : List HostReq
  /-- the binding tables, of up to 64 entries for each host agent (13 R274) -/
  bindings : List Binding
  frozenHosts : List Nat
  /-- the route table: egress die and port, and fabric VC, of each destination module (06 R160) -/
  routes : SMap (Nat × Nat × Nat)
  modNum : Nat
  /-- packets at their egress port, launch messages sent to other modules that await their reply by tag, and the number of
  the next packet for another module -/
  fabOut : List Packet
  fabWait : SMap Message
  fabSeq : Nat
  /-- draws of the key pair of each KEYID (13 R280) -/
  keys : SMap Nat
  /-- the tick at which a module-wide snapshot is latched, and firmware's latest image (12 R271) -/
  extSnap : Option Nat
  fwImage : List Byte
  /-- which agent moves next, and the context that moves -/
  turns : List Turn
  cur : Nat
  /-- counter of free values (notes/assumptions/4.md, DESIGN CHOICE) -/
  free : Nat
  /-- the synchronous trap the last instruction took (notes/assumptions/5.md, DESIGN CHOICE) -/
  trapTag : Option (CauseRec × Nat)
  deriving DecidableEq, Repr

/-! ### Reset values -/

/-- STATUS at reset (12 Table 12-7). -/
def Status.reset : Status :=
  { priv := 0, ppriv := 0, aie := true, paie := false, frm := 0, flags := 0, late := false, lost := false,
    heat := false, det := false, pure := false, chk := false }

/-- A context at reset: Idle; the registers without a reset value are 0, m0 all ones (notes/assumptions/1.md, DESIGN CHOICE). -/
def Ctx.reset : Ctx :=
  { cs := .idle, pc := 0, sreg := Vector.replicate 32 0, vreg := Vector.replicate 32 (Vector.replicate 8 0),
    mreg := (Vector.replicate 8 0).set 0 255, ereg := Vector.replicate 8 0, st := Status.reset, cause := 0, epc := 0,
    tvec := 0, wid := 0, widw := 0, tenant := 0, deadl := 0, keyh := 0, opstop := 0x3B800000, loops := [], rep := [],
    seqr := none, apend := [], deferred := none, outl := [], watch := [], reasons := 0, resume := [], modCnt := 0, sysCnt := 0, relq := [], seen := 0, pendR := [],
    gang := none, task := none, lastIssue := 0 }

def Ecc.reset : Ecc := { bad := [], single := [], corr := 0, ret := false, retErr := [] }

def Channel.reset : Channel :=
  { cmds := [], next := 0, compl := 0, frozen := false, inFlight := 0 }

def Core.reset : Core :=
  { q := Vector.replicate 8 [], qclaim := Vector.replicate 8 none, qwait := [], waym := 0, arr := [], ecc := Ecc.reset,
    tlb := [], ch := Vector.replicate 4 Channel.reset, vq := [], unsent := [], held := [], rcache := [], launchQ := [], krb0 := 0, krb1 := 0,
    kin := [], subs := [], xmits := [], xsels := [], exchBytes := 0, edges := [], slist := none, joined := 0, ways := none, l1 := [],
    issues := 0, fqFrozen := false }

def EdgeSw.reset : EdgeSw := { level := 0, run := false, fin := 0, force := 0, pend := 0, mode := false }

def Cell.reset : Cell :=
  { part := none, oos := false, dq := false, slotMem := [], slotTag := [], opEcc := Ecc.reset, claims := [], acc := [], mq := [],
    mqFrozen := false, mqNum := 0, grants := [], mmaIn := [], gq := [], gqFrozen := false, gqNum := 0,
    edge := none, esw := EdgeSw.reset, catchQ := [], passing := none, shown := none, hdrAt := none, roll := [], rollAt := none, cand := [], lqFrozen := false, lqNum := 0,
    holding := [] }

def Cluster.reset : Cluster :=
  { ctlb := [], near := [], miss := [], retry := [], pins := 0, savePins := 0, records := [], splats := [], ecc := Ecc.reset }

def Stream.reset : Stream :=
  { reg := Vector.replicate 6 0, pend := Vector.replicate 6 none, closed := 0, tiles := [], out := [], prev := [], early := none,
    produced := 0, part := 64, partNext := 64, frozen := false }

/-- The spec gives the fuses no values (notes/assumptions/117.md). DESIGN CHOICE. -/
def Fuses.reset : Fuses := { rootHash := Vector.replicate 32 0, identity := Vector.replicate 60 0, minVersion := 0 }

def Gateway.reset : Gateway := { q := [], last := 0, freed := [], given := (0, 0) }

def Port.reset : Port := { up := false, frozen := false, credits := 0, seqno := 0, replays := 0, buf := [], again := [], heard := 0, asked := 0 }

def Die.reset : Die :=
  { mhz := 800, reduced := false, overBudget := false, measured := 0, ramp := none, exE := none, exStart := none, flits := [], loopPkts := [], loopTurn := [], landing := [], counts := [],
    gw := Vector.replicate 2 Gateway.reset,
    vclk := Vector.replicate 8 0, relay := [], carLast := 63, streams := Vector.replicate 8 Stream.reset, fq := [],
    fqNum := 0,
    ports := Vector.replicate 2 Port.reset }

def Carousel.reset : Carousel :=
  { cdef := none, next := none, lap := 0, left := [], base := 0, cur := none, sent := 0, faulted := false, slot := 0,
    cutAt := none, settled := false, inGap := true, ready := 0, window := [], lapPromos := 0, promos := [], skipReq := [], skipNext := [],
    grants := [], skipped := [], noticed := [], reinst := [], reinstNext := [], reinstated := [], roll := [] }

/-- A partition that does not exist; PROMX resets to 4 (07 Table 7-9). -/
def Part.reset : Part :=
  { live := false, det := false, cells := [], desc := Vector.replicate 8 0, nranks := 0, dir := [], fwd := [],
    transit := [], budg := 0, remain := 0, period0 := 0, heatr := 0, heatA := 0, promx := 4, snapctl := 0, snapBuf := 0,
    snapT := none, image := none, car := Carousel.reset, graph := none, rounds := 0, share := none, saved := none, areas := [],
    slots := [], checkQ := [], thirdQ := [] }

def ShareSet.reset : ShareSet := { cells := [], parts := [], current := none, switching := none, born := 0 }

/-- The cells disabled at manufacture: 120 of each die, at most 16 of a cluster (01 R21; notes/assumptions/3.md).
DESIGN CHOICE. -/
def fusedOff : List Nat :=
  (List.range 8).flatMap (fun d =>
    (List.range 64).map (fun c => (d * 64 + c) * 128 + 79) ++
    (List.range 56).map (fun c => (d * 64 + c) * 128 + 78))

/-- The module right after reset: powered, at step 1 of bring-up, with no partition (13 R284). -/
def State.reset : State :=
  { ctxs := [], cores := [], cells := [], clus := [], dies := [], parts := [], shares := [], mem := [], memKey := [], wrote := [], wroteNum := 0,
    memEcc := Ecc.reset, regions := [], markers := [], clock := 0, pace := 0, pacePhase := 0, paceFix := 0, timeMaster := 0, paceLost := false, paceAge := 0,
    paceOffset := 0, disabled := fusedOff, power := true, boot := 1, bootHeld := false, fuses := Fuses.reset, image := [],
    recovery := [], hss := 0, scores := [], completed := 0, hwMsgs := [], mgmt := [], notices := [], replies := [], hostQ := [],
    bindings := [], frozenHosts := [], routes := [], modNum := 0, fabOut := [], fabWait := [], fabSeq := 0, keys := [], extSnap := none, fwImage := [], turns := [],
    cur := 0, free := 0, trapTag := none }

/-! ### The homes of the units -/

def State.ctx (s : State) (k : Nat) : Ctx := SMap.get s.ctxs Ctx.reset k
def State.core (s : State) (c : Nat) : Core := SMap.get s.cores Core.reset c
def State.cell (s : State) (c : Nat) : Cell := SMap.get s.cells Cell.reset c
def State.clu (s : State) (c : Nat) : Cluster := SMap.get s.clus Cluster.reset c
def State.die (s : State) (d : Nat) : Die := SMap.get s.dies Die.reset d
def State.part (s : State) (p : Nat) : Part := SMap.get s.parts Part.reset p
def State.shareSet (s : State) (p : Nat) : ShareSet := SMap.get s.shares ShareSet.reset p

def State.setCtx (s : State) (k : Nat) (c : Ctx) : State := { s with ctxs := SMap.set s.ctxs k c }
def State.setCore (s : State) (k : Nat) (c : Core) : State := { s with cores := SMap.set s.cores k c }
def State.setCell (s : State) (k : Nat) (c : Cell) : State := { s with cells := SMap.set s.cells k c }
def State.setClu (s : State) (k : Nat) (c : Cluster) : State := { s with clus := SMap.set s.clus k c }
def State.setDie (s : State) (k : Nat) (c : Die) : State := { s with dies := SMap.set s.dies k c }
def State.setPart (s : State) (k : Nat) (c : Part) : State := { s with parts := SMap.set s.parts k c }
def State.setShare (s : State) (k : Nat) (c : ShareSet) : State := { s with shares := SMap.set s.shares k c }

/-- The context that moves. -/
def State.cx (s : State) : Ctx := s.ctx s.cur
def State.setCx (s : State) (c : Ctx) : State := s.setCtx s.cur c
/-- Its core, cell, cluster and die. -/
def State.curCore (s : State) : Nat := s.cur / 4
def State.curCell (s : State) : Nat := s.cur / 16

end Sys2Proof.Machine
end

