-- ==== Sys2Proof/Machine/Ops.lean ====
section
/-! DEFINITION. The named operations over registers, memory and exceptions that the meanings share. -/

namespace Sys2Proof.Machine

/-! ### Coordinates (01 R16, R17) -/

def dieOf (core : Nat) : Nat := core / 32768
def rowOf (core : Nat) : Nat := core / 4096 % 8
def colOf (core : Nat) : Nat := core / 512 % 8
def cluOf (core : Nat) : Nat := core / 512
def cellIdx (core : Nat) : Nat := core / 4 % 128

/-- A cell coordinate is valid: index 0 to 79, enabled, in service (01 R17). -/
def State.validCell (s : State) (cell : Nat) : Bool :=
  cell < 65536 && cell % 128 < 80 && !(s.disabled.contains cell) && !(s.cell cell).oos

/-- The partition a core's cell belongs to; 64 for none (02 R47). -/
def State.partOf (s : State) (core : Nat) : Nat := (s.cell (core / 4)).part.getD 64
/-- The partition a core's cell serves is being switched out or in (12 R255). -/
def State.parking (s : State) (core : Nat) : Bool :=
  match (s.cell (core / 4)).part with
  | none => true
  | some p => ((s.part p).share).any (fun ss => (s.shareSet ss).switching.isSome)
/-- The partition of the context that moves. -/
def State.curPart (s : State) : Nat := s.partOf s.curCore

/-- A free value, and the counter advanced (notes/assumptions/4.md, DESIGN CHOICE). -/
def State.bump (s : State) (n : Nat) : State := { s with free := s.free + n }

/-- A change that hardware makes to a partition's units wherever they stand: on its cells, or in what a switch-out saved of
them (12 R256). -/
def State.asOwner (s : State) (part : Nat) (f : State → State) : State :=
  match (s.part part).saved with
  | none => f s
  | some w =>
    let t := w.ctxs.foldl (fun (t : State) e => t.setCtx e.1 e.2) s
    let t := w.cores.foldl (fun (t : State) e => t.setCore e.1 e.2) t
    let t := w.cells.foldl (fun (t : State) e => t.setCell e.1 e.2) t
    let u := f t
    let w' : Saved := { ctxs := w.ctxs.map (fun e => (e.1, u.ctx e.1)), cores := w.cores.map (fun e => (e.1, u.core e.1)),
                        cells := w.cells.map (fun e => (e.1, u.cell e.1)), markers := w.markers }
    let u := w.ctxs.foldl (fun (t : State) e => t.setCtx e.1 (s.ctx e.1)) u
    let u := w.cores.foldl (fun (t : State) e => t.setCore e.1 (s.core e.1)) u
    let u := w.cells.foldl (fun (t : State) e => t.setCell e.1 (s.cell e.1)) u
    u.setPart part { u.part part with saved := some w' }

/-- A partition's cell stands on its hardware now, or is saved. -/
def State.ownsCell (s : State) (part cell : Nat) : Bool := (s.part part).saved.isSome || (s.cell cell).part = some part

/-! ### Registers (15 R295) -/

/-- S(r): s0 reads as zero. -/
def Ctx.s (x : Ctx) (r : BitVec 5) : Word := if r = 0 then 0 else x.sreg[r.toNat]'(r.isLt)
/-- S(r) := v: a write to s0 is discarded. -/
def Ctx.setS (x : Ctx) (r : BitVec 5) (v : Word) : Ctx :=
  if r = 0 then x else { x with sreg := x.sreg.set r.toNat v r.isLt }
/-- V(r), a vector register of eight lanes. -/
def Ctx.v (x : Ctx) (r : BitVec 5) : Vector W32 8 := x.vreg[r.toNat]'(r.isLt)
def Ctx.setV (x : Ctx) (r : BitVec 5) (v : Vector W32 8) : Ctx := { x with vreg := x.vreg.set r.toNat v r.isLt }
/-- Mask register m(k). -/
def Ctx.m (x : Ctx) (k : BitVec 3) : Byte := x.mreg[k.toNat]'(k.isLt)
def Ctx.setM (x : Ctx) (k : BitVec 3) (v : Byte) : Ctx := { x with mreg := x.mreg.set k.toNat v k.isLt }
/-- Extension register E(k). -/
def Ctx.e (x : Ctx) (k : BitVec 3) : Word := x.ereg[k.toNat]'(k.isLt)
def Ctx.setE (x : Ctx) (k : BitVec 3) (v : Word) : Ctx := { x with ereg := x.ereg.set k.toNat v k.isLt }

/-- Flags are combined by OR (05 R125). -/
def Ctx.orFlags (x : Ctx) (f : BitVec 5) : Ctx := { x with st := { x.st with flags := x.st.flags ||| f } }

/-! ### The program counter and the LOOP nest (23 R390, R391) -/

/-- Past a word of len bytes that transfers no control. -/
def Ctx.advance (x : Ctx) (len : Nat) : Ctx :=
  match x.loops with
  | [] => { x with pc := x.pc + BitVec.ofNat 64 len }
  | l :: t =>
    if l.last = x.pc then
      if 1 < l.rem.toNat then { x with pc := l.start, loops := { l with rem := l.rem - 1 } :: t }
      else { x with pc := x.pc + BitVec.ofNat 64 len, loops := t }
    else { x with pc := x.pc + BitVec.ofNat 64 len }

/-- The levels a taken branch or jump to t leaves standing. -/
def keepLoops (t : Word) : List LoopLevel → List LoopLevel
  | [] => []
  | l :: r => if l.start ≤ t ∧ t ≤ l.last then l :: r else keepLoops t r

/-- A taken branch, JMP or C.JMP. -/
def Ctx.branch (x : Ctx) (t : Word) : Ctx := { x with pc := t, loops := keepLoops t x.loops }

/-- The current context writes d and moves past a word of len bytes. -/
def State.wr (s : State) (len : Nat) (d : BitVec 5) (v : Word) : State := s.setCx ((s.cx.setS d v).advance len)
/-- The current context moves past a word of len bytes. -/
def State.skip (s : State) (len : Nat) : State := s.setCx (s.cx.advance len)

/-! ### STATUS and CAUSE -/

def boolBit (b : Bool) : BitVec 1 := if b then 1 else 0

/-- Vector words of a context queued or in execution (02 R25). -/
def State.vbusy (s : State) (k : Nat) : Bool := (s.core (k / 4)).vq.any (fun w => w.key = k)

/-- STATUS of a context as it reads (12 Table 12-7). -/
def State.status (s : State) (k : Nat) : Word :=
  let x := s.ctx k
  (0 : BitVec 16) ++ x.st.priv ++ x.st.ppriv ++ boolBit x.st.aie ++ boolBit x.st.paie ++ x.st.frm ++ (0 : BitVec 3) ++
    x.st.flags ++ (0 : BitVec 16) ++ boolBit x.st.late ++ boolBit (s.vbusy k) ++ boolBit x.st.lost ++
    BitVec.ofNat 4 x.apend.length ++ boolBit x.st.heat ++ boolBit x.st.det ++ boolBit x.st.pure ++ boolBit x.st.chk ++
    boolBit x.gang.isSome ++ (0 : BitVec 2) ++ BitVec.ofNat 2 k

/-- A cause with no information and no address. -/
def cz (code : Nat) : CauseRec := { code := BitVec.ofNat 7 code, info := 0, va := 0 }
/-- A cause of an address. -/
def czAt (code : Nat) (va : Word) : CauseRec := { code := BitVec.ofNat 7 code, info := 0, va := va }

/-- "Rank invalid" at a rank-window address, with the rank it names (03 R67, 12 Table 12-8). -/
def rankCause (va : Word) : CauseRec := { code := 0x28, info := BitVec.ofNat 32 (va.toNat % 2 ^ 56 / 0x8000), va := va }

/-- CAUSE (12 Table 12-8). -/
def causeWord (c : CauseRec) (src : BitVec 4) (coord : BitVec 18) (gmemb : BitVec 3) : Word :=
  c.info ++ coord ++ src ++ gmemb ++ c.code

/-- The cause of an engine fault: INFO is the operation's identifier, but the rank or coordinate where the cause is of one (03
R68, 12 Table 12-8). -/
def engineCause (c : CauseRec) (id : Nat) : CauseRec := if c.code = 0x28 || c.code = 0x2B then c else { c with info := BitVec.ofNat 32 id }

/-! ### Notices (12 R268) -/

/-- The eight words of a notice. -/
def noticeWords (cause epc va pace : Word) (tenant : Byte) (part : Nat) : List Word :=
  [cause, tenant ++ (0 : BitVec 56), 0xFFFF000000000000, 0, epc, va, pace, BitVec.ofNat 64 (part * 2 ^ 52)]

/-- A header sent to a partition's supervisor mailbox; to firmware when none is named. -/
def State.notice (s : State) (part : Nat) (w : List Word) : State :=
  let mb := (s.part part).desc[2] &&& 0x00FFFFFFFFFFFFFF
  if mb = 0 then { s with notices := s.notices ++ [(part, w)] }
  else { s with hwMsgs := s.hwMsgs ++ [{ mbox := mb, start := 0, hdr := w, part := part, kind := 3, sender := 0, task := 0 }] }

/-- A notice of a cause. -/
def State.causeNotice (s : State) (part : Nat) (c : CauseRec) (src : Nat) (coord : Nat) (epc : Word) (tenant : Byte) : State :=
  s.notice part (noticeWords (causeWord c (BitVec.ofNat 4 src) (BitVec.ofNat 18 coord) 0) epc c.va s.pace tenant part)

/-- A notice to firmware alone. -/
def State.firmware (s : State) (part : Nat) (w : List Word) : State := { s with notices := s.notices ++ [(part, w)] }

/-! ### Watches (04 R103 to R105) -/

/-- An event of reason r (bit r of reasons) at a watch target. -/
def Ctx.fire (x : Ctx) (r : Nat) (p : WatchTarget → Bool) : Ctx :=
  if x.watch.any (fun e => p e.tgt) then
    { x with watch := x.watch.map (fun e => if p e.tgt then { e with fired := true } else e),
             reasons := x.reasons ||| BitVec.ofNat 5 (2 ^ r) }
  else x

/-- Every watch of every context that p selects fires for reason r. -/
def State.fire (s : State) (r : Nat) (p : WatchTarget → Bool) : State :=
  { s with ctxs := s.ctxs.map (fun kc => (kc.1, kc.2.fire r p)) }

/-- A write to n bytes of physical memory fires the watches on its sectors. -/
def State.firePhys (s : State) (pa n : Nat) : State :=
  s.fire 0 (fun t => match t with
    | .phys sec _ => decide (pa / 32 ≤ sec) && decide (sec * 32 < pa + n)
    | _ => false)
def State.fireArray (s : State) (core off n : Nat) : State :=
  s.fire 0 (fun t => match t with
    | .scratch c sec => decide (c = core) && decide (off / 32 ≤ sec) && decide (sec * 32 < off + n)
    | _ => false)

/-- The watches of a core's contexts on the completion registers. -/
def State.fireCompletion (s : State) (core : Nat) : State :=
  { s with ctxs := s.ctxs.map (fun kc => if kc.1 / 4 = core then (kc.1, kc.2.fire 0 (fun t => t = .completion)) else kc) }

/-! ### Taking an exception (12 R262 to R269) -/

/-- What ends a meaning before its effect: a trap, a block, or the end of a check heat (11 Table 11-4). -/
inductive Stop where
  | trap (c : CauseRec)
  | block (w : Wait)
  | escape
  | unverifiable
  deriving DecidableEq, Repr

/-- Numbers from here on in `resume` belong to a CARWAIT, which begins afresh after a handler or a switch (12 Table 12-5). -/
def carMark : Nat := 2 ^ 70

/-- Entry to the supervisor handler (12 R262). -/
def Ctx.enter (x : Ctx) (epc cause : Word) : Ctx :=
  { x with epc := epc, cause := cause, pc := x.tvec, cs := .ready, resume := x.resume.filter (fun r => r.2 < carMark),
           st := { x.st with ppriv := x.st.priv, paie := x.st.aie, priv := 1, aie := false } }

/-- What empties when a context becomes Idle (23 R374). -/
def Ctx.clear (x : Ctx) : Ctx :=
  { x with cs := .idle, watch := [], reasons := 0, loops := [], rep := [], seqr := none, outl := [],
           apend := [], deferred := none, gang := none, task := none, resume := [],
           pendR := [], relq := [] }

/-- A frozen context (12 R266): Parked until FRZ acts; it executes again from EPC. -/
def Ctx.freeze (x : Ctx) (epc : Word) : Ctx := { x with cs := .frozen, epc := epc, pc := epc }

/-- The records of a firing leave their queues (02 R38, R49). -/
def Graph.release (g : Graph) (l : List Reserved) : Graph :=
  { g with queues := g.queues.mapIdx (fun i q => { q with recs := q.recs.filter (fun r => !(l.any (fun t => t.queue = i && t.num = r.num))) }) }

/-- The last exchange routine of a die has exited: its exchange phase is over and a reduced clock is restored (06 R146, 13 R286). -/
def State.exchEnd (s : State) (k : Nat) : State :=
  let die := k / 4 / 32768
  if s.cores.any (fun c => c.1 / 32768 = die && c.2.slist.any (fun l => l.phase = 2)) ||
    s.ctxs.any (fun c => c.1 ≠ k && c.1 / 4 / 32768 = die && c.2.task.any (fun t => t.kind = .exchange)) then s
  else s.setDie die { s.die die with exE := none, exStart := none, reduced := false }

/-- What a task holds of its partition and core goes back: reserved records (02 R38), the retention slot of a group that is
not completed (11 R243), and its place in the superstep list (02 R55). A gang's follower holds none of it (02 R33). -/
def State.returnTask (s : State) (k : Nat) : State :=
  match (s.ctx k).task with
  | none => s
  | some t =>
    let part := s.partOf (k / 4)
    let p := s.part part
    let s := if (t.reserved.isEmpty && t.slot.isNone) || t.follower then s
      else s.setPart part { p with graph := p.graph.map (fun g => g.release t.reserved),
                                   slots := match t.slot with
                                     | some i => if t.check.isNone then SMap.drop p.slots i else p.slots
                                     | none => p.slots }
    let s := if t.kind = .exchange then s.exchEnd k else s
    if t.kind = .handler || t.follower then s
    else
      let c := s.core (k / 4)
      s.setCore (k / 4) { c with slist := c.slist.map (fun l => { l with running := l.running - 1 }) }

/-- Claims of a context that has executed EXIT end with its last matrix operation (09 R205). -/
def Cell.sweep (u : Cell) : Cell :=
  { u with claims := u.claims.filter (fun c => match c.2.2 with
      | none => true
      | some n => u.mq.any (fun o => o.key = c.2.1 && o.remote.isNone && decide (o.num < n))) }

/-- A task leaves its context (22 R374): q4 to q7 that it claimed are discarded, its slot claims end once the mq operations
it queued have been performed (09 R205), its grants end, and its pending causes go to the supervisor. -/
def State.endTask (s : State) (k : Nat) : State :=
  let x := s.ctx k
  let core := k / 4
  let part := s.partOf core
  let s := x.apend.foldl (fun t a => t.causeNotice part a.what a.src.toNat a.coord.toNat 0 x.tenant) s
  let s := s.returnTask k
  let c := s.core core
  let mine := fun (i : Nat) => decide (4 ≤ i) && decide ((c.qclaim[i]?).join = some (k % 4))
  let s := s.setCore core
    { c with vq := c.vq.filter (fun w => w.key ≠ k),
             q := Vector.ofFn (fun i : Fin 8 => if mine i.val then [] else c.q[i]),
             qclaim := Vector.ofFn (fun i : Fin 8 => if mine i.val then none else c.qclaim[i]) }
  let u := s.cell (core / 4)
  let until' := (u.mq.filter (fun o => o.key = k && o.remote.isNone)).foldl (fun a o => max a (o.num + 1)) 0
  let s := s.setCell (core / 4)
    ({ u with claims := u.claims.map (fun c => if c.2 = (k, none) then (c.1, (k, some until')) else c),
              grants := u.grants.filter (fun g => g.key ≠ k) } : Cell).sweep
  let s := s.setCtx k x.clear
  { s with clus := s.clus.map (fun kc => (kc.1, { kc.2 with records := kc.2.records.filter (fun r => r.2.1 ≠ k) })) }

/-- The copies a task of a context queued leave a channel. -/
def Channel.dropKey (h : Channel) (k task : Nat) : Channel :=
  let keep := h.cmds.filter (fun c => c.key ≠ k || c.task ≠ task)
  { h with cmds := keep, compl := if keep.isEmpty then h.next else h.compl }

/-- The number of the task a context holds. -/
def Ctx.taskNum (x : Ctx) : Nat := x.task.elim 0 (fun t => t.num)

/-- The queued matrix operations, copies and splat commands of a check heat end with it; those of the context's earlier tasks stay. A completion
register that advances so wakes its watches (04 Table 4-6). -/
def State.dropMq (s : State) (k : Nat) : State :=
  let n := (s.ctx k).taskNum
  let u := s.cell (k / 16)
  let s := s.setCell (k / 16) ({ u with mq := u.mq.filter (fun o => o.key ≠ k || o.task ≠ n || o.remote.isSome) } : Cell).sweep
  let c := s.core (k / 4)
  let v := s.clu (cluOf (k / 4))
  let t := (s.setCore (k / 4) { c with ch := c.ch.map (fun h => h.dropKey k n) }).setClu (cluOf (k / 4)) { v with splats := v.splats.filter (fun q => q.key ≠ k) }
  if c.ch.any (fun h => (h.dropKey k n).compl ≠ h.compl) then t.fireCompletion (k / 4) else t

/-- A check heat ends: its context becomes Idle and the slot learns the outcome, none for a digest that disagrees with
every other (11 R246). -/
def State.endHeat (s : State) (k : Nat) (out : Option (Word × Word)) : State :=
  let x := s.ctx k
  let p := s.partOf (k / 4)
  let s := (s.dropMq k).endTask k
  let s := s.setCtx k { (s.ctx k) with st := { x.st with chk := false } }
  match x.task.bind (fun t => t.check) with
  | none => s
  | some (i, third) =>
    let q := s.part p
    match SMap.find q.slots i with
    | none => s
    | some r => s.setPart p { q with slots := SMap.set q.slots i (if third then { r with digest3 := some out } else { r with digest2 := some out }) }

/-- A synchronous or deferred trap of context k: a protection violation freezes it (12 R266), a trap in a handler that
has AIE = 0 is a double trap (R269), any other enters the handler (R262). -/
def State.takeTrap (s : State) (k : Nat) (epc : Word) (c : CauseRec) (src : BitVec 4) (gmemb : BitVec 3) : State :=
  let x := s.ctx k
  let core := k / 4
  let part := s.partOf core
  let s := { s with trapTag := some (c, k) }
  if x.st.chk then s.endHeat k none
  else if c.code = 0x25 then
    (s.setCtx k (x.freeze epc)).causeNotice part c src.toNat core epc x.tenant
  else if x.st.priv = 1 ∧ x.st.aie = false then
    (s.setCtx k (x.freeze epc)).firmware part
      (noticeWords (causeWord { c with code := 0x58, info := 0 } src (BitVec.ofNat 18 core) gmemb) epc c.va s.pace x.tenant part)
  else s.setCtx k (x.enter epc (causeWord c src (BitVec.ofNat 18 core) gmemb))

/-- The current context becomes Blocked at its instruction (02 R23). -/
def State.block (s : State) (w : Wait) : State :=
  let x := s.cx
  let s := s.setCx { x with cs := .blocked w }
  match w with
  | .queue q push =>
    let c := s.core s.curCore
    if c.qwait.contains (s.cur % 4, q, push) then s
    else s.setCore s.curCore { c with qwait := c.qwait ++ [(s.cur % 4, q, push)] }
  | _ => s

/-- A condition that must hold, or the cause is raised (00 R7, R8). -/
def need (p : Bool) (c : CauseRec) : Except Stop Unit := if p then .ok () else .error (.trap c)
/-- A condition that must hold, or the context blocks. -/
def await (p : Bool) (w : Wait) : Except Stop Unit := if p then .ok () else .error (.block w)

/-- An asynchronous cause that the agent at a coordinate reports to the task that owns its source, else a notice (12 R265);
"partition mismatch" is never delivered to the master's own handler (12 R266). -/
def State.postFrom (s : State) (coord k task : Nat) (src : Nat) (c : CauseRec) : State :=
  let x := s.ctx k
  let owns := match x.task with
    | some t => decide (t.num = task) && decide (x.cs ≠ CState.idle) && decide (x.cs ≠ CState.frozen)
    | none => false
  if owns && c.code ≠ 0x25 then
    if x.apend.length < 8 then
      s.setCtx k { x with apend := x.apend ++ [({ src := BitVec.ofNat 4 src, coord := BitVec.ofNat 18 coord, what := c } : Async)] }
    else s.setCtx k { x with st := { x.st with lost := true } }
  else s.causeNotice (s.partOf (k / 4)) c src coord 0 (BitVec.ofNat 8 task)

/-- A cause of an agent of the context's own core or cell, which reports by that core's coordinate. -/
def State.postAsync (s : State) (k task : Nat) (src : Nat) (c : CauseRec) : State := s.postFrom (k / 4) k task src c

/-- A cause for a context of a partition that may be parked is judged on its saved context (12 R256). -/
def State.postTo (s : State) (part coord k task src : Nat) (c : CauseRec) : State :=
  s.asOwner part (fun t => t.postFrom coord k task src c)

/-- A command that context k queued in task n belongs to the check heat it runs (11 R246); those of an earlier task (02
R38) do not. -/
def State.cmdChk (s : State) (k n : Nat) : Bool := (s.ctx k).st.chk && (s.ctx k).taskNum = n
/-- The context runs a work routine of a deterministic partition (02 R57). -/
def Ctx.isWork (x : Ctx) : Bool := x.task.elim false (fun t => t.kind = .work)
def Ctx.isExch (x : Ctx) : Bool := x.task.elim false (fun t => t.kind = .exchange)

/-! ### Address spaces (03 R62, R67, R73) -/

inductive Space where
  | scratch
  | translated
  | mgmt
  | completion
  | rank
  | none
  deriving DecidableEq, Repr

def spaceOf (va : Word) : Space :=
  if va.toNat < 0x10000 then .scratch
  else if va.toNat < 2 ^ 56 then .translated
  else if va.toNat / 2 ^ 56 = 0xFC then .mgmt
  else if va.toNat / 2 ^ 56 = 0xFD then .completion
  else if va.toNat / 2 ^ 56 = 0xFE then .rank
  else .none

/-- The address is canonical for an access (03 R73). -/
def canonical (va : Word) : Bool := spaceOf va ≠ .none && spaceOf va ≠ .mgmt

def popc : Nat → Nat → Nat
  | 0, _ => 0
  | n + 1, x => x % 2 + popc n (x / 2)

/-- Bytes of scratch a core has (03 R62). -/
def extent (waym : BitVec 6) : Nat := popc 6 waym.toNat * 0x1000

/-- The way that is the k-th scratch way, counting from way w. -/
def scratchWay (waym : BitVec 6) : Nat → Nat → Nat → Nat
  | 0, w, _ => w
  | n + 1, w, k => if waym.getLsbD w then (if k = 0 then w else scratchWay waym n (w + 1) (k - 1)) else scratchWay waym n (w + 1) k

/-- The place in the array of a scratch address within the extent. -/
def scratchIdx (waym : BitVec 6) (a : Nat) : Nat := scratchWay waym 6 0 (a / 0x1000) * 0x1000 + a % 0x1000

/-- The whole of n bytes at a lies in the scratch of a core. -/
def State.inScratch (s : State) (core a n : Nat) : Bool := a + n ≤ extent (s.core core).waym

/-! ### Physical memory (03 R74, R75, R80, 13 R280) -/

def pinBase : Nat := 0x8000000000000
/-- GDDR. -/
def isGddr (pa : Nat) : Bool := pa < 0x2000000000
/-- A physical address names GDDR or pinned near memory. -/
def State.backed (s : State) (pa : Nat) : Bool :=
  isGddr pa || (pinBase ≤ pa && pa < pinBase + 0x200000000 &&
    (pa - pinBase) % 0x1000000 < (s.clu ((pa - pinBase) / 0x1000000)).pins * 0x100000)
/-- The die of a line's home slice. -/
def homeDie (pa : Nat) : Nat := if isGddr pa then pa / 0x4000 % 8 else (pa - pinBase) / 0x40000000 % 8
/-- The cluster of a line's home slice. -/
def homeClu (pa : Nat) : Nat :=
  if isGddr pa then homeDie pa * 64 + (Nat.xor (pa / 0x20000 % 64) (pa / 0x800000 % 64)) else (pa - pinBase) / 0x1000000 % 512

/-- The 256 bits of a sector as its last writer's key left them. -/
def State.sectorRaw (s : State) (sec : Nat) : Nat := leNat (Mem.bytes s.mem (sec * 32) 32)

/-- The key that a KEYID now selects: the draw of its pair, times 64, plus the KEYID. -/
def State.keyNow (s : State) (keyid : Nat) : Nat := SMap.get s.keys 0 keyid * 64 + keyid

/-- The key a sector was written under; one that nothing has written stands as under KEYID 0 (notes/assumptions/9.md, PRESUMED). -/
def State.keyOf (s : State) (sec : Nat) : Nat := SMap.get s.memKey (s.keyNow 0) sec

/-- A byte of physical memory read under a KEYID (13 R280). -/
def State.byteAt (s : State) (keyid pa : Nat) : Byte :=
  let kw := s.keyOf (pa / 32)
  if isGddr pa ∧ kw ≠ s.keyNow keyid then
    BitVec.ofNat 8 (Config.recrypt kw (s.keyNow keyid) (pa / 32) (s.sectorRaw (pa / 32)) / 256 ^ (pa % 32))
  else Mem.get s.mem pa

/-- A sector of GDDR brought under a KEYID before a write under it. -/
def State.rekey (s : State) (keyid pa : Nat) : State :=
  let kw := s.keyOf (pa / 32)
  if isGddr pa ∧ kw ≠ s.keyNow keyid then
    { s with mem := Mem.write s.mem (pa / 32 * 32) (leBytes 32 (Config.recrypt kw (s.keyNow keyid) (pa / 32) (s.sectorRaw (pa / 32)))),
             memKey := SMap.set s.memKey (pa / 32) (s.keyNow keyid) }
  else s

/-- A byte of physical memory written under a KEYID; contexts may fetch it as it stood before (15 R293). -/
def State.putByte (s : State) (keyid pa : Nat) (b : Byte) : State :=
  let old := s.byteAt keyid pa
  let s := s.rekey keyid pa
  { s with mem := Mem.set s.mem pa b, wrote := if old = b then s.wrote else { num := s.wroteNum, pa := pa, old := old } :: s.wrote,
           wroteNum := if old = b then s.wroteNum else s.wroteNum + 1 }

/-- A byte as the fetch of a context sees it that has seen the first n writes: as it stood before the first write that it has not. -/
def State.fetchByte (s : State) (n keyid pa : Nat) : Byte :=
  ((s.wrote.takeWhile (fun w => n ≤ w.num)).foldl (fun b w => if w.pa = pa then some w.old else b) none).getD (s.byteAt keyid pa)

/-- The writes before this one every context's fetch has seen. -/
def State.fetchLow (s : State) : Nat :=
  let live := fun (l : List (Nat × Ctx)) => (l.filter (fun e => e.2.cs ≠ .idle)).map (fun e => e.2.seen)
  (live s.ctxs ++ s.parts.flatMap (fun p => p.2.saved.elim [] (fun v => live v.ctxs))).foldl min s.wroteNum

/-- The fetch of a context begins anew and sees every write made so far (15 R293; "causally after" is taken as performed before,
notes/assumptions/118.md, DEDUCED). Bytes that no context's fetch can see any longer are forgotten. -/
def State.freshFetch (s : State) (k : Nat) : State :=
  let low := s.fetchLow
  let s := s.setCtx k { s.ctx k with seen := s.wroteNum }
  if s.fetchLow = low then s else { s with wrote := s.wrote.filter (fun w => s.fetchLow ≤ w.num) }

def State.physBytes (s : State) (keyid pa : Nat) : Nat → List Byte
  | 0 => []
  | n + 1 => s.byteAt keyid pa :: s.physBytes keyid (pa + 1) n

def State.putBytes (s : State) (keyid pa : Nat) : List Byte → State
  | [] => s
  | b :: t => (s.putByte keyid pa b).putBytes keyid (pa + 1) t

/-! ### Error checks of the arrays (03 R80) -/

/-- The words of 8 bytes that n bytes at a touch. -/
def wordsOf (a n : Nat) : List Nat := (List.range ((a + n + 7) / 8 - a / 8)).map (fun i => a / 8 + i)
/-- The array leaves retention mode (03 R81): pairs with more than two errors are stored failing. -/
def Ecc.exit (e : Ecc) : Ecc :=
  if e.ret then
    { e with ret := false, retErr := [],
             bad := e.bad ++ ((e.retErr.filter (fun p => 2 < p.2)).flatMap (fun p => [2 * p.1, 2 * p.1 + 1])).filter (fun w => !e.bad.contains w) }
  else e
/-- A read meets a failing word; a request makes the array leave retention mode first. -/
def Ecc.failing (e : Ecc) (a n : Nat) : Bool := (wordsOf a n).any (fun w => e.exit.bad.contains w)
/-- A write meets a failing word that it does not write whole. -/
def Ecc.failingPart (e : Ecc) (a n : Nat) : Bool :=
  (wordsOf a n).any (fun w => e.exit.bad.contains w && !(a ≤ 8 * w && 8 * w + 8 ≤ a + n))
/-- An access corrects and counts the single errors it meets; the count saturates. -/
def Ecc.touch (e : Ecc) (a n : Nat) : Ecc :=
  let e := e.exit
  let hit := e.single.filter (fun w => (wordsOf a n).contains w)
  if hit.isEmpty then e
  else { e with single := e.single.filter (fun w => !(wordsOf a n).contains w), corr := min (e.corr + hit.length) 0xFFFFFFFF }
/-- Words written whole store fresh codes. -/
def Ecc.written (e : Ecc) (a n : Nat) : Ecc :=
  let e := e.exit
  let fresh := fun w => !(decide (a ≤ 8 * w) && decide (8 * w + 8 ≤ a + n))
  { e with bad := e.bad.filter fresh, single := e.single.filter fresh }

/-- The sector of word w in a line. -/
def secBit (w : Nat) : BitVec 4 := BitVec.ofNat 4 (2 ^ (w / 4 % 4))

/-- A pair of words of a slice is the only copy of its bytes: pinned memory, or a dirty sector. -/
def Cluster.onlyCopy (u : Cluster) (pair : Nat) : Bool :=
  !isGddr (16 * pair) || (SMap.find u.near (pair / 8)).any (fun l => l.valid &&& l.dirty &&& secBit (2 * pair) ≠ 0)
/-- A pair of words stands in a clean sector of a slice, which has a good copy below. -/
def Cluster.cleanCopy (u : Cluster) (pair : Nat) : Bool :=
  isGddr (16 * pair) && (SMap.find u.near (pair / 8)).any (fun l => l.valid &&& secBit (2 * pair) ≠ 0 && l.dirty &&& secBit (2 * pair) = 0)

/-- A sector is invalidated, and counts as corrected when it is filled again (R80). -/
def Cluster.refill (u : Cluster) (w : Nat) : Cluster :=
  match SMap.find u.near (w / 16) with
  | none => u
  | some l =>
    let l := { l with valid := l.valid &&& ~~~(secBit w) }
    { u with ecc := { u.ecc with corr := min (u.ecc.corr + 1) 0xFFFFFFFF },
             near := if l.valid = 0 then SMap.drop u.near (w / 16) else SMap.set u.near (w / 16) l }

/-- A request makes a slice leave retention mode: pairs past two errors are stored failing, a clean sector among them being
filled again (R80, R81). -/
def State.wakeSlice (s : State) (h : Nat) : State :=
  let u := s.clu h
  if u.ecc.ret then
    let pairs := (u.ecc.retErr.filter (fun p => 2 < p.2)).map Prod.fst
    let lost := ((pairs.filter u.onlyCopy).flatMap (fun p => [2 * p, 2 * p + 1])).filter (fun w => !s.memEcc.bad.contains w)
    let v := (pairs.filter u.cleanCopy).foldl (fun (v : Cluster) p => v.refill (2 * p)) u
    { (s.setClu h { v with ecc := { v.ecc with ret := false, retErr := [] } }) with memEcc := { s.memEcc with bad := s.memEcc.bad ++ lost } }
  else s

/-- A read of memory meets a failing word, counting those that leaving retention mode leaves failing. -/
def State.memFailing (s : State) (pa n : Nat) : Bool :=
  s.memEcc.failing pa n || (wordsOf pa n).any (fun w =>
    let e := (s.clu (homeClu (8 * w))).ecc
    e.ret && decide (2 < SMap.get e.retErr 0 (w / 2)) && (s.clu (homeClu (8 * w))).onlyCopy (w / 2))

/-- A write of n bytes meets a failing word that it does not write whole. -/
def State.memFailingPart (s : State) (pa n : Nat) : Bool :=
  (wordsOf pa n).any (fun w => s.memFailing (8 * w) 8 && !(decide (pa ≤ 8 * w) && decide (8 * w + 8 ≤ pa + n)))

/-! ### Bytes of a local array -/

def State.arrBytes (s : State) (core off n : Nat) : List Byte := Mem.bytes (s.core core).arr off n

/-- Bytes written into a core's array, at its bank ports: watches fire, fresh codes are stored. -/
def State.putArr (s : State) (core off : Nat) (b : List Byte) : State :=
  let c := s.core core
  (s.setCore core { c with arr := Mem.write c.arr off b, ecc := c.ecc.written off b.length }).fireArray core off b.length

/-- Bytes of a scratch range within the extent, page by page of ways. -/
def State.scratchBytes (s : State) (core a : Nat) : Nat → List Byte
  | 0 => []
  | n + 1 => Mem.get (s.core core).arr (scratchIdx (s.core core).waym a) :: s.scratchBytes core (a + 1) n

/-- Bytes written to a scratch range within the extent. -/
def State.putScratch (s : State) (core a : Nat) : List Byte → State
  | [] => s
  | b :: t => (s.putArr core (scratchIdx (s.core core).waym a) [b]).putScratch core (a + 1) t

/-- A unit's read of n bytes of scratch corrects and counts the single errors it meets, and ends retention mode (R80, R81). -/
def State.unitTouch (s : State) (core a n : Nat) : State :=
  let c := s.core core
  if c.ecc.single.isEmpty && !c.ecc.ret then s
  else s.setCore core { c with ecc := (List.range ((a + n + 7) / 8 - a / 8)).foldl (fun e i => e.touch (scratchIdx c.waym (a / 8 * 8 + 8 * i)) 8) c.ecc }
/-- The same of a context's own scratch; a check heat reads its shadow store instead. -/
def State.scrTouch (s : State) (k a n : Nat) : State := if (s.ctx k).st.chk then s else s.unitTouch (k / 4) a n

/-- Whole scratch ranges written as one access: the codes of words written whole are fresh. -/
def State.putScratchW (s : State) (core a : Nat) (b : List Byte) : State :=
  let s' := s.putScratch core a b
  let c := s'.core core
  s'.setCore core { c with ecc := c.ecc.written (scratchIdx c.waym a) b.length }

/-! ### Tagged lines (03 R77, R78) -/

/-- The enabled region with the lowest number that covers a physical line: its FMT and the address of its scale bytes. -/
def regionOf (pa : Nat) : SMap (Word × Word × Word) → Option (Nat × Nat)
  | [] => none
  | (_, fa, fb, fc) :: t =>
    let line := pa / 128
    if bit fc 63 && bits fa 51 7 ≤ line && line ≤ bits fb 51 7 then
      some (bits fc 59 56, bits fc 51 3 * 8 + (line - bits fa 51 7) * 8)
    else regionOf pa t

/-- The tag and sideband of the line at pa as its fill gives them, or the cause of a failed fill. -/
def State.fillTag (s : State) (keyid pa : Nat) : Except Nat (Nat × Word) :=
  if !isGddr pa then .ok (0, 0)
  else match regionOf pa s.regions with
    | none => .ok (0, 0)
    | some (fmt, sb) =>
      if fmt ≠ 6 then .ok (fmt, 0)
      else if !s.backed sb then .error 0x26
      else if s.memFailing sb 8 then .error 0x27
      else .ok (6, BitVec.ofNat 64 (leNat (s.physBytes keyid sb 8)))

/-- The tag and sideband of a line: those fixed when it filled (03 R79), else those a fill gives now. -/
def State.lineTag (s : State) (keyid pa : Nat) : Except Nat (Nat × Word) :=
  match SMap.find (s.clu (homeClu pa)).near (pa / 128) with
  | some l => if (l.keyid = keyid && l.valid ≠ 0) || !isGddr pa then .ok (l.tag, l.sb) else s.fillTag keyid pa
  | none => s.fillTag keyid pa

/-- The same for a core whose L1 ways hold a line that its slice no longer does: the line keeps its tag (R79). -/
def State.lineTagAt (s : State) (core keyid pa : Nat) : Except Nat (Nat × Word) :=
  match SMap.find (s.clu (homeClu pa)).near (pa / 128), (s.core core).l1.find? (fun l => l.line = pa / 128 && l.keyid = keyid) with
  | none, some l => .ok (l.tag, l.sb)
  | _, _ => s.lineTag keyid pa

/-- The cause of a fill that fails for n bytes at pa, line by line; every request that waits on the line receives it (R78). -/
def State.fillBad (s : State) (keyid pa n : Nat) : Option Nat :=
  (List.range ((pa + n + 127) / 128 - pa / 128)).findSome? (fun i =>
    match s.lineTag keyid (pa / 128 * 128 + 128 * i) with
    | .ok _ => none
    | .error c => some c)

/-- The 32-byte sectors of a line that n bytes at pa touch. -/
def secMask (pa n : Nat) : BitVec 4 :=
  BitVec.ofNat 4 (((List.range 4).filter (fun i => decide (pa % 128 < 32 * (i + 1)) && decide (32 * i < pa % 128 + n))).foldl (fun a i => a + 2 ^ i) 0)

/-! ### Translation (03 R70 to R72) -/

def pteV (e : Word) : Bool := bit e 0
def pteLeaf (e : Word) : Bool := bit e 2
def pteR (e : Word) : Bool := bit e 3
def pteW (e : Word) : Bool := bit e 4
def pteX (e : Word) : Bool := bit e 5
def pteU (e : Word) : Bool := bit e 6
def pteCa (e : Word) : Nat := bits e 9 8
def pteCtr (e : Word) : Bool := bit e 10
def pteHb (e : Word) : Bool := bit e 11
def pteAddr (e : Word) : Nat := bits e 51 12 * 4096
def pteOwner (e : Word) : Nat := bits e 57 52
def pteKey (e : Word) : Nat := bits e 63 58

/-- The five levels: lowest index bit, index width, leaf allowed. -/
def walkLevels : List (Nat × Nat × Bool) := [(48, 8, false), (39, 9, false), (30, 9, true), (21, 9, true), (16, 5, true)]

/-- The walk from a table down the levels left (03 R71): the leaf and log2 of its page, or the first failing check.
Tables are read under KEYID 0 (notes/assumptions/9.md). PRESUMED. -/
def State.walkFrom (s : State) (va : Nat) : List (Nat × Nat × Bool) → Nat → Except Nat (Word × Nat)
  | [], _ => .error 0x23
  | (lo, n, leafOk) :: rest, base =>
    let a := base + 8 * (va / 2 ^ lo % 2 ^ n)
    if !s.backed a then .error 0x26
    else if s.memFailing a 8 then .error 0x27
    else match s.fillBad 0 a 8 with
    | some c => .error c
    | none =>
      let e : Word := BitVec.ofNat 64 (leNat (s.physBytes 0 a 8))
      if !pteV e then .error 0x22
      else if 2 ≤ pteCa e then .error 0x23
      else if pteLeaf e then (if leafOk && pteAddr e % 2 ^ lo = 0 then .ok (e, lo) else .error 0x23)
      else match rest with
        | [] => .error 0x23
        | _ => s.walkFrom va rest (pteAddr e)

def State.walk (s : State) (part : Nat) (va : Nat) : Except Nat (Word × Nat) :=
  s.walkFrom va walkLevels (bits (s.part part).desc[0] 51 12 * 4096)

def tlbFind (part va : Nat) : List TlbEntry → Option (Word × Nat)
  | [] => none
  | e :: t => if e.part = part ∧ e.base = va / 2 ^ e.lg * 2 ^ e.lg then some (e.pte, e.lg) else tlbFind part va t

/-- A translation: from the core's TLB, its cluster's, or the walk. -/
def State.translate (s : State) (core part va : Nat) : Except Nat (Word × Nat) :=
  match tlbFind part va (s.core core).tlb with
  | some r => .ok r
  | none =>
    match tlbFind part va (s.clu (cluOf core)).ctlb with
    | some r => .ok r
    | none => s.walk part va

/-- The entry a translation of va makes. -/
def tlbOf (part va : Nat) (e : Word) (lg : Nat) : TlbEntry := { part := part, base := va / 2 ^ lg * 2 ^ lg, lg := lg, pte := e }

/-- An entry joins the n entries of a TLB that `same` selects; which of them a full set drops the spec does not say. -/
def tlbAdd (n free : Nat) (same : TlbEntry → Bool) (e : TlbEntry) (l : List TlbEntry) : List TlbEntry :=
  let l := l.filter (fun x => !(x.part = e.part && x.base = e.base && x.lg = e.lg))
  let set := l.filter same
  if set.length < n then e :: l
  else
    let v := set.getD (Config.freeNat free % set.length) e
    e :: l.filter (fun x => x ≠ v)

/-- A translation enters a core's TLB: 32 entries, fully associative (03 R72). -/
def State.coreTlbAdd (s : State) (core part va : Nat) (e : Word) (lg : Nat) : State :=
  let c := s.core core
  (s.setCore core { c with tlb := tlbAdd 32 s.free (fun _ => true) (tlbOf part va e lg) c.tlb }).bump 1

/-- A translation enters a cluster TLB: 512 sets of 8 ways (01 Table 1-3, 03 R72). -/
def State.ctlbAdd (s : State) (clu part va : Nat) (e : Word) (lg : Nat) : State :=
  let u := s.clu clu
  let t := tlbOf part va e lg
  let same := fun (x : TlbEntry) => decide (Config.tlbSet x.base x.lg % 512 = Config.tlbSet t.base t.lg % 512)
  (s.setClu clu { u with ctlb := tlbAdd 8 s.free same t u.ctlb }).bump 1

/-! ### Fetch (15 R292, R293) -/

/-- The halfword at va, fetched for context k. -/
def State.fetchHalf (s : State) (k : Nat) (va : Word) : Except CauseRec (BitVec 16) :=
  match spaceOf va with
  | .translated =>
    let part := s.partOf (k / 4)
    match s.translate (k / 4) part va.toNat with
    | .error c => .error (czAt c va)
    | .ok (e, lg) =>
      if pteOwner e ≠ part then .error (czAt 0x25 va)
      else if !pteX e || ((s.ctx k).st.priv = 0 && !pteU e) then .error (czAt 0x24 va)
      else
        let pa := pteAddr e + va.toNat % 2 ^ lg
        if !s.backed pa then .error (czAt 0x26 va)
        else if s.memFailing pa 2 then .error (czAt 0x27 va)
        else match s.fillBad (pteKey e) pa 2 with
          | some c => .error (czAt c va)
          | none => .ok (BitVec.ofNat 16 (leNat [s.fetchByte (s.ctx k).seen (pteKey e) pa, s.fetchByte (s.ctx k).seen (pteKey e) (pa + 1)]))
  | .none => .error (czAt 0x2D va)
  | .mgmt => .error (czAt 0x2D va)
  | _ => .error (czAt 0x24 va)

/-! ### Near-memory slices (03 R74 to R76, R80, R81, 13 R280) -/

/-- The lines of a slice in the set of a line. -/
def Cluster.setOf (u : Cluster) (line : Nat) : List (Nat × NearLine) :=
  u.near.filter (fun l => isGddr (l.1 * 128) && decide (Config.nearSet l.1 % 8192 = Config.nearSet line % 8192))

/-- Lines of a set that may be evicted: none that holds a list (R76), none that is dirty with a failing word (R80). -/
def State.nearVictims (s : State) (clu line : Nat) : List Nat :=
  let u := s.clu clu
  ((u.setOf line).filter (fun l => (SMap.get u.miss [] l.1).isEmpty && !(l.2.dirty ≠ 0 && s.memEcc.failing (l.1 * 128) 128))).map Prod.fst

/-- Places in the list of a line: four for each sector that is not valid (R76). -/
def NearLine.places (l : NearLine) : Nat := 4 * (4 - popc 4 l.valid.toNat)

/-- A way of the set of a line is free. -/
def Cluster.freeWay (u : Cluster) (line : Nat) : Bool :=
  decide (u.near.length < 16 - u.pins) || decide ((u.setOf line).length < 16 - u.pins)

/-- A request for n bytes of a GDDR line can be taken: its slice holds their sectors, or the list of its fill has a place, or a
way of its set can be had for it; else it gets a retry (R76). -/
def State.nearRoom (s : State) (pa n : Nat) : Bool :=
  let u := s.clu (homeClu pa)
  !isGddr pa || (match SMap.find u.near (pa / 128) with
    | some l => l.valid &&& secMask pa n = secMask pa n || decide ((SMap.get u.miss [] (pa / 128)).length < l.places)
    | none => u.freeWay (pa / 128) || !(s.nearVictims (homeClu pa) (pa / 128)).isEmpty)

/-- A way of its set is allocated to a line; of the lines that may be evicted the spec names none. -/
def State.nearAlloc (s : State) (pa : Nat) (l : NearLine) : State :=
  let h := homeClu pa
  let u := s.clu h
  let vs := s.nearVictims h (pa / 128)
  let full := !((SMap.find u.near (pa / 128)).isSome || u.freeWay (pa / 128))
  let near := if full then
      if vs.isEmpty then u.near else SMap.set (SMap.drop u.near (vs.getD (Config.freeNat s.free % vs.length) 0)) (pa / 128) l
    else SMap.set u.near (pa / 128) l
  (s.setClu h { u with near := near }).bump (if full then 1 else 0)

/-- Sectors written back from the L1 ways reach the home slice and are dirty there, with the line's tag; a line of another
KEYID makes room for them (13 R280). -/
def State.nearBack (s : State) (l : L1Line) : State :=
  let pa := l.line * 128
  if l.dirty = 0 || !isGddr pa then s
  else match SMap.find (s.clu (homeClu pa)).near l.line with
    | some n => s.nearAlloc pa (if n.keyid = l.keyid then { n with valid := n.valid ||| l.dirty, dirty := n.dirty ||| l.dirty }
        else { tag := l.tag, sb := l.sb, keyid := l.keyid, valid := l.dirty, dirty := l.dirty })
    | none => s.nearAlloc pa { tag := l.tag, sb := l.sb, keyid := l.keyid, valid := l.dirty, dirty := l.dirty }

/-! ### The L1 ways (03 R62; evictions fire watches, 04 Table 4-6) -/

/-- The ways that are cache. -/
def cacheWays (waym : BitVec 6) : List Nat := (List.range 6).filter (fun w => !waym.getLsbD w)

/-- A line leaves the L1 ways of a core: its dirty sectors are written back, and the watches of its contexts on the line
fire with reason 9. -/
def State.evict (s : State) (core line : Nat) : State :=
  let c := s.core core
  let s := (c.l1.filter (fun l => l.line = line)).foldl (fun t l => t.nearBack l) s
  let s := s.setCore core { c with l1 := c.l1.filter (fun l => l.line ≠ line) }
  { s with ctxs := s.ctxs.map (fun kc => if kc.1 / 4 = core then
      (kc.1, kc.2.fire 1 (fun t => match t with
        | .phys sec ctr => !ctr && decide (sec / 4 = line)
        | _ => false)) else kc) }

/-- Sectors of a line are brought into the L1 ways with its tag (R78): into a free way of its set, else in the place of a
line the spec does not name. -/
def State.l1Touch (s : State) (core keyid pa : Nat) (mask dirty : BitVec 4) : State :=
  let c := s.core core
  let line := pa / 128
  if c.l1.any (fun l => l.line = line) then
    s.setCore core { c with l1 := c.l1.map (fun l => if l.line = line then { l with valid := l.valid ||| mask, dirty := l.dirty ||| dirty } else l) }
  else
    let near := (SMap.find (s.clu (homeClu pa)).near line).elim (0, 0) (fun n => (n.tag, n.sb))
    let fresh := fun (w : Nat) => ({ line := line, way := w, keyid := keyid, tag := near.1, sb := near.2, valid := mask, dirty := dirty } : L1Line)
    let used := (c.l1.filter (fun l => l.line % 32 = line % 32)).map (fun l => l.way)
    match (cacheWays c.waym).filter (fun w => !used.contains w) with
    | w :: _ => s.setCore core { c with l1 := fresh w :: c.l1 }
    | [] =>
      let ws := cacheWays c.waym
      let w := ws.getD (Config.freeNat s.free % ws.length) 0
      let s := s.bump 1
      let s := match (c.l1.filter (fun l => l.line % 32 = line % 32 && l.way = w)).head? with
        | some l => s.evict core l.line
        | none => s
      let c := s.core core
      s.setCore core { c with l1 := fresh w :: c.l1 }

/-- A fill arrives at the home slice of a line: it is tagged, and the waiting requests are served in order (R76). A fill
that fails leaves the line unallocated; the requests that wait are those of PREF, which takes no cause (23 R403). -/
def State.mergeFill (s : State) (pa : Nat) : State :=
  let h := homeClu pa
  let u := s.clu h
  let reqs := SMap.get u.miss [] (pa / 128)
  let u := { u with miss := SMap.drop u.miss (pa / 128) }
  match SMap.find u.near (pa / 128) with
  | none => s.setClu h u
  | some l =>
    let mask := reqs.foldl (fun m r => m ||| BitVec.ofNat 4 r.mask) l.valid
    let put := fun (n : NearLine) =>
      reqs.foldl (fun t r => t.l1Touch r.coord r.keyid pa (BitVec.ofNat 4 r.mask) 0) (s.setClu h { u with near := SMap.set u.near (pa / 128) n })
    if l.valid ≠ 0 then put { l with valid := mask }
    else match s.fillTag l.keyid pa with
      | .error _ => s.setClu h { u with near := SMap.drop u.near (pa / 128) }
      | .ok (tag, sb) => put { l with tag := tag, sb := sb, valid := mask }

/-- An access reaches the home slice of a line: requests that wait for its fill come first, a line of another KEYID is
written back and invalidated (13 R280), and the sectors it lacks are filled (R76). -/
def State.nearTouch (s : State) (keyid pa : Nat) (mask dirty : BitVec 4) : State :=
  let s := s.wakeSlice (homeClu pa)
  if !isGddr pa then s
  else
    let s := if (SMap.get (s.clu (homeClu pa)).miss [] (pa / 128)).isEmpty then s else s.mergeFill pa
    match SMap.find (s.clu (homeClu pa)).near (pa / 128), s.fillTag keyid pa with
    | some l, f =>
      if l.keyid = keyid then s.nearAlloc pa { l with valid := l.valid ||| mask, dirty := l.dirty ||| dirty }
      else match f with
        | .ok (tag, sb) => s.nearAlloc pa { tag := tag, sb := sb, keyid := keyid, valid := mask, dirty := dirty }
        | .error _ =>
          let u := s.clu (homeClu pa)
          s.setClu (homeClu pa) { u with near := SMap.drop u.near (pa / 128) }
    | none, .ok (tag, sb) => s.nearAlloc pa { tag := tag, sb := sb, keyid := keyid, valid := mask, dirty := dirty }
    | none, .error _ => s

/-- A unit beside the cores reads or writes n bytes of memory at their homes, line by line; a host-bias page stands in no slice
(04 R107). -/
def State.homeTouch (s : State) (keyid pa n : Nat) (hb w : Bool) : State :=
  if hb then s
  else (List.range ((pa + n + 127) / 128 - pa / 128)).foldl (fun t i =>
    let a := max pa (pa / 128 * 128 + 128 * i)
    let m := secMask a (min (pa + n) (pa / 128 * 128 + 128 * i + 128) - a)
    t.nearTouch keyid a m (if w then m else 0)) s

/-- The table entries that a walk of va reads come into their slices under KEYID 0 (notes/assumptions/9.md). PRESUMED. -/
def State.walkTouch (s : State) (va : Nat) : List (Nat × Nat × Bool) → Nat → State
  | [], _ => s
  | (lo, n, _) :: rest, base =>
    let a := base + 8 * (va / 2 ^ lo % 2 ^ n)
    if !s.backed a || s.memFailing a 8 then s
    else
      let e : Word := BitVec.ofNat 64 (leNat (s.physBytes 0 a 8))
      let s := s.nearTouch 0 a (secMask a 8) 0
      if !pteV e || pteLeaf e then s else s.walkTouch va rest (pteAddr e)

/-- What an access of a core leaves in the TLBs: a miss in the core's is answered from its cluster's, and a miss there by
the walk. A translation stays until it is displaced or invalidated. -/
def State.tlbFill (s : State) (core part : Nat) (va : Word) : State :=
  if spaceOf va ≠ .translated || (tlbFind part va.toNat (s.core core).tlb).isSome then s
  else match tlbFind part va.toNat (s.clu (cluOf core)).ctlb with
    | some (e, lg) => s.coreTlbAdd core part va.toNat e lg
    | none =>
      let t := s.walkTouch va.toNat walkLevels (bits (s.part part).desc[0] 51 12 * 4096)
      match s.walk part va.toNat with
      | .ok (e, lg) => (t.ctlbAdd (cluOf core) part va.toNat e lg).coreTlbAdd core part va.toNat e lg
      | .error _ => t

/-- What the fetch of a halfword leaves in its home slice. -/
def State.fetchTouch (s : State) (core : Nat) (va : Word) : State :=
  match spaceOf va, s.translate core (s.partOf core) va.toNat with
  | .translated, .ok (e, lg) =>
    let pa := pteAddr e + va.toNat % 2 ^ lg
    if s.backed pa then s.homeTouch (pteKey e) pa 2 (pteHb e) false else s
  | _, _ => s

/-- The L1 ways of a core hold every sector of an access. -/
def State.cached (s : State) (core pa : Nat) (mask : BitVec 4) : Bool :=
  (s.core core).l1.any (fun l => l.line = pa / 128 && l.valid &&& mask = mask)

/-- What an access of n bytes leaves in the slice and in the L1 ways: a host-bias page stands in neither (04 R107), an
uncached or counter page in the slice alone. -/
def State.cacheTouch (s : State) (core keyid pa n : Nat) (past hb w : Bool) : State :=
  let mask := secMask pa n
  let dirty := if w then mask else 0
  if hb then s
  else if past then s.nearTouch keyid pa mask dirty
  else if s.cached core pa mask then (if w then s.l1Touch core keyid pa mask dirty else s)
  else (s.nearTouch keyid pa mask 0).l1Touch core keyid pa mask dirty

/-! ### The vector clocks (04 R87) -/

/-- A count stands no later than another, modulo 2^32 within a window of 2^31. -/
def countLe (x y : BitVec 32) : Bool := decide ((y - x).toNat < 2 ^ 31)
/-- Stamp x shows an operation that precedes that of stamp y. -/
def stampBefore (x y : Vector (BitVec 32) 8) : Bool :=
  (List.range 8).all (fun i => countLe ((x[i]?).getD 0) ((y[i]?).getD 0)) && x ≠ y

/-- A stamped packet for the die that precedes stamp v. -/
def Packet.before (p : Packet) (die : Nat) (v : Vector (BitVec 32) 8) : Bool :=
  p.dst = die && p.stamp.any (fun u => stampBefore u v)

/-- An operation for the die that precedes stamp v has not been applied: it is on a loop, at a gateway, being written at its
home, or a key update that its core has yet to apply. -/
def State.precedes (s : State) (die : Nat) (v : Vector (BitVec 32) 8) : Bool :=
  s.dies.any (fun d => d.2.gw.toList.any (fun g => g.q.any (fun e => e.pkt.before die v)) ||
    d.2.loopPkts.any (fun p => p.taken.isNone && p.pkt.before die v) ||
    (d.1 = die && (d.2.landing.any (fun l => l.stamp.any (fun u => stampBefore u v)) || d.2.counts.any (fun c => stampBefore c.stamp v)))) ||
  s.cores.any (fun c => dieOf c.1 = die && c.2.kin.any (fun u => u.stamp.any (fun x => stampBefore x v)))

/-- A die's clock raised to a stamp. -/
def Die.raise (d : Die) (v : Vector (BitVec 32) 8) : Die :=
  { d with vclk := Vector.zipWith (fun x y => if countLe x y then y else x) d.vclk v }

/-- The stamp of a die's next operation for a home on another. -/
def State.nextStamp (s : State) (src : Nat) : Vector (BitVec 32) 8 := (s.die src).vclk.set! src ((s.die src).vclk[src]! + 1)

/-- An operation from a die to a home on another adds to the sender's clock and raises the receiver's. -/
def State.stampTo (s : State) (src dst : Nat) : State :=
  if src = dst then s
  else
    let v := s.nextStamp src
    let s := s.setDie src { s.die src with vclk := v }
    s.setDie dst ((s.die dst).raise v)

/-- Every operation that precedes the next one from a die to another has been applied there; until then the gateway holds
it. -/
def State.mayArrive (s : State) (src dst : Nat) : Bool := src = dst || !s.precedes dst (s.nextStamp src)

/-- The die a place is homed on. -/
def Place.die (p : Place) (core : Nat) : Nat := match p with
  | .array c _ => dieOf c
  | .phys pa _ _ _ _ => homeDie pa
  | _ => dieOf core

/-- A place as an agent reaches it that performs there, past every L1 way (04 R95, R97). -/
def Place.atHome : Place → Place
  | .phys pa key ctr _ hb => .phys pa key ctr true hb
  | p => p

/-- n bytes of a place and m bytes of another have a byte in common. -/
def Place.meets (p q : Place) (n m : Nat) : Bool := match p, q with
  | .array c a, .array d b => c = d && decide (a < b + m) && decide (b < a + n)
  | .phys a _ _ _ _, .phys b _ _ _ _ => decide (a < b + m) && decide (b < a + n)
  | _, _ => false

/-- No .ar atomic of the context waits in the interface (04 Table 4-5). -/
def State.arFree (s : State) (k : Nat) : Except Stop Unit := await ((s.ctx k).relq.all (fun r => r.ord ≠ 3)) .atomic

/-- An operation on n bytes of a place comes after the context's held atomics on them, and after every held .ar atomic
(04 R85, Table 4-5). -/
def State.relFree (s : State) (k : Nat) (p : Place) (n : Nat) : Except Stop Unit :=
  await ((s.ctx k).relq.all (fun r => r.ord ≠ 3 && !r.place.meets p (if r.wide then 8 else 4) n)) .atomic

/-! ### Reaching a place -/

/-- What an access asks of an address. -/
structure Req where
  /-- size in bytes, to which the address must be aligned -/
  size : Nat
  r : Bool
  w : Bool
  /-- a counter page is refused (04 R98) -/
  noCtr : Bool
  /-- raises "heat impure" where the address's form is good (11 R237) -/
  impure : Bool
  deriving DecidableEq, Repr

def Req.load (n : Nat) : Req := { size := n, r := true, w := false, noCtr := false, impure := false }
def Req.store (n : Nat) : Req := { size := n, r := false, w := true, noCtr := true, impure := false }
def Req.atomic (n : Nat) (impure : Bool) : Req := { size := n, r := true, w := true, noCtr := true, impure := impure }

/-- The address of a rank's entry, and the number of entries of the table (13 Table 13-2). -/
def Part.rankPa (p : Part) (rank : Nat) : Nat := bits p.desc[6] 51 12 * 4096 + 8 * rank
def Part.rankLen (p : Part) : Nat := bits p.desc[6] 11 0 * 512

/-- The entry of a rank as the table holds it (03 Table 3-4); its reserved bits read as zero. -/
def State.rankEntry (s : State) (part rank : Nat) : Word :=
  let p := s.part part
  if rank < p.rankLen && rank < 2 ^ 20 then BitVec.ofNat 64 (leNat (s.physBytes 0 (p.rankPa rank) 8)) &&& 0xC00000000003FFFF else 0

/-- The entry as a core's interface has it: from its cache, else from the table. -/
def State.rankSeen (s : State) (core part rank : Nat) : Word :=
  ((s.core core).rcache.find? (fun e => e.1 = rank)).elim (s.rankEntry part rank) Prod.snd

/-- The interface caches 64 entries; the one used longest ago makes room (notes/assumptions/91.md). DESIGN CHOICE. -/
def State.rankFill (s : State) (core part rank : Nat) : State :=
  let c := s.core core
  let e := s.rankSeen core part rank
  s.setCore core { c with rcache := (rank, e) :: (c.rcache.filter (fun x => x.1 ≠ rank)).take 63 }

/-- Firmware writes an entry of the table; no interface keeps the old one (notes/assumptions/91.md). DESIGN CHOICE. -/
def State.setRank (s : State) (part rank : Nat) (e : Word) : State :=
  let p := s.part part
  let s := s.putBytes 0 (p.rankPa rank) (leBytes 8 e.toNat)
  let s := s.firePhys (p.rankPa rank) 8
  { s with cores := s.cores.map (fun c => if c.1 / 4 ∈ p.cells then (c.1, { c.2 with rcache := c.2.rcache.filter (fun x => x.1 ≠ rank) }) else c) }

/-- The ranks that firmware has given a core, with their entries. -/
def State.rankList (s : State) (part : Nat) : List (Nat × Word) :=
  (List.range (s.part part).nranks).map (fun r => (r, s.rankEntry part r))

/-- The core of a rank as a core's interface resolves it (03 R68): V = 0 is "rank invalid", T = 1 holds the message (R69), and so do
messages of the partition that the core's cell has held and must deliver first (12 R258). -/
def State.rankCore (s : State) (from' part rank : Nat) (va : Word) : Except Stop Nat :=
  let e := s.rankSeen from' part rank
  if !bit e 63 || !(rank < 2 ^ 20) then .error (.trap { code := 0x28, info := BitVec.ofNat 32 rank, va := va })
  else if bit e 62 || (s.core from').held.any (fun m => m.rank = rank) then .error (.block (.rank rank))
  else if !s.validCell (bits e 17 2) then .error (.trap { code := 0x2B, info := BitVec.ofNat 32 (bits e 17 0), va := va })
  else if !(SMap.get (s.cell (bits e 17 2)).holding [] part).isEmpty then .error (.block (.rank rank))
  else .ok (bits e 17 0)

/-- The array place a rank-window address names (03 R67). -/
def State.rankPlace (s : State) (from' part : Nat) (va : Word) (n : Nat) : Except Stop (Nat × Nat) :=
  let rest := va.toNat % 2 ^ 56
  if 0x800000000 ≤ rest || 0x6000 < rest % 0x8000 + n then
    .error (.trap (rankCause va))
  else do
    let core ← s.rankCore from' part (rest / 0x8000) va
    await (core = from' || (s.core core).ways.isNone) (.ways core)
    if s.inScratch core (rest % 0x8000) n then .ok (core, rest % 0x8000)
    else .error (.trap (czAt 0x21 va))

/-- The place of a translated address for an agent: `user` says whether U is checked. -/
def State.transPlace (s : State) (core part : Nat) (user : Bool) (q : Req) (va : Word) : Except Stop Place :=
  match s.translate core part va.toNat with
  | .error c => .error (.trap (czAt c va))
  | .ok (e, lg) =>
    if q.noCtr && pteCtr e then .error (.trap (czAt 0x29 va))
    else if pteOwner e ≠ part then .error (.trap (czAt 0x25 va))
    else if (q.r && !pteR e) || (q.w && !pteW e) || (user && !pteU e) then .error (.trap (czAt 0x24 va))
    else
      let pa := pteAddr e + va.toNat % 2 ^ lg
      if !s.backed pa then .error (.trap (czAt 0x26 va))
      else .ok (.phys pa (pteKey e) (pteCtr e) (pteCa e = 1) (pteHb e))

/-- The place an address names for context k, or for a command of it, with the causes of its space; `chk` says that a check
heat makes the access (11 R246). An access to another
core's scratch is held while that core changes its ways (03 Table 3-3). -/
def State.placeOf (s : State) (k : Nat) (chk user : Bool) (q : Req) (va : Word) : Except Stop Place :=
  let core := k / 4
  match spaceOf va with
  | .scratch =>
    if !s.inScratch core va.toNat q.size then .error (.trap (czAt 0x21 va))
    else if chk then .ok (.shadow va.toNat)
    else .ok (.array core (scratchIdx (s.core core).waym va.toNat))
  | .rank =>
    if chk then .error .escape
    else do
      let (c, off) ← s.rankPlace core (s.partOf core) va q.size
      .ok (.array c (scratchIdx (s.core c).waym off))
  | .translated =>
    if chk then .ok (.shadow va.toNat) else s.transPlace core (s.partOf core) user q va
  | .completion => .error (.trap (czAt 0x29 va))
  | _ => .error (.trap (czAt 0x2D va))

/-- The address names the scratch of a core for that core: directly, or through its own rank window (03 R67). -/
def State.ownScratch (s : State) (core : Nat) (va : Word) : Bool :=
  spaceOf va = .scratch || (spaceOf va = .rank && s.rankSeen core (s.partOf core) (va.toNat % 2 ^ 56 / 0x8000) &&& 0xC00000000003FFFF =
    0x8000000000000000 ||| BitVec.ofNat 64 core)

/-- An access of a context to its core's scratch waits for a WAYS in progress, and is judged by the new map (03
Table 3-3). -/
def State.waysFree (s : State) (k : Nat) (va : Word) : Except Stop Unit :=
  await (!(s.ownScratch (k / 4) va && (s.core (k / 4)).ways.isSome)) (.ways (k / 4))

/-- The place a context's access names, with the causes of 23 Table 23-3, 24 Table 24-4 and 22 Table 22-2 in their
order. -/
def State.reachAny (s : State) (k : Nat) (q : Req) (va : Word) : Except Stop Place := do
  let x := s.ctx k
  need (va.toNat % q.size = 0) (czAt 0x20 va)
  need (canonical va) (czAt 0x2D va)
  need (!(x.isWork && spaceOf va ≠ .scratch)) (czAt 0x2C va)
  need (!(q.impure && x.st.pure)) (cz 0x50)
  s.waysFree k va
  s.placeOf k x.st.chk (x.st.priv = 0) q va

/-- The place a context's access reaches once the atomics that stand before it have left the interface. -/
def State.reach (s : State) (k : Nat) (q : Req) (va : Word) : Except Stop Place := do
  let p ← s.reachAny k q va
  s.relFree k p q.size
  .ok p

/-! ### Structures in a partition's translated memory (03 R465) -/

/-- A byte's physical address, KEYID and bias under a partition's tables, for hardware that has no privilege level. -/
def State.partPlace (s : State) (part : Nat) (w : Bool) (va : Word) : Except CauseRec (Nat × Nat × Bool) :=
  match spaceOf va with
  | .translated =>
    match s.walk part va.toNat with
    | .error c => .error (czAt c va)
    | .ok (e, lg) =>
      let pa := pteAddr e + va.toNat % 2 ^ lg
      if pteOwner e ≠ part then .error (czAt 0x25 va)
      else if (if w then !pteW e else !pteR e) then .error (czAt 0x24 va)
      else if !s.backed pa then .error (czAt 0x26 va)
      else .ok (pa, pteKey e, pteHb e)
  | .scratch => .error (czAt 0x21 va)
  | .rank => .error (rankCause va)
  | .completion => .error (czAt 0x29 va)
  | _ => .error (czAt 0x2D va)

def State.partRead (s : State) (part : Nat) (va : Word) : Nat → Except CauseRec (List Byte)
  | 0 => .ok []
  | n + 1 =>
    match s.partPlace part false va with
    | .error c => .error c
    | .ok (pa, key, _) =>
      if s.memFailing pa 1 then .error (czAt 0x27 va)
      else match s.fillBad key pa 1 with
      | some c => .error (czAt c va)
      | none => match s.partRead part (va + 1) n with
        | .error c => .error c
        | .ok t => .ok (s.byteAt key pa :: t)

/-- What a read of n bytes at va under a partition's tables leaves in the slices. -/
def State.partTouch (s : State) (part : Nat) (va : Word) (n : Nat) : State :=
  (List.range ((va.toNat + n + 127) / 128 - va.toNat / 128)).foldl (fun t i =>
    let a := max va.toNat (va.toNat / 128 * 128 + 128 * i)
    match t.partPlace part false (BitVec.ofNat 64 a) with
    | .ok (pa, key, hb) => t.homeTouch key pa (min (va.toNat + n) (va.toNat / 128 * 128 + 128 * i + 128) - a) hb false
    | .error _ => t) s

/-- The die that holds a write of n bytes at va by a unit of die src, while an operation that precedes it is on its way there
(04 R87); none when it may be made. -/
def State.partHold (s : State) (src part : Nat) (va : Word) (n : Nat) : Option Nat :=
  (List.range ((va.toNat + n + 31) / 32 - va.toNat / 32)).findSome? (fun i =>
    match s.partPlace part true (BitVec.ofNat 64 (va.toNat / 32 * 32 + 32 * i)) with
    | .ok (pa, _, _) => if s.mayArrive src (homeDie pa) then none else some (homeDie pa)
    | .error _ => none)

/-- Bytes of [first, last) written by a unit of die src under a partition's tables from va on; on a fault the bytes before it
stay. A failing word is not written in part (03 R80). -/
def State.partWrite (s : State) (src part first last : Nat) (va : Word) : List Byte → State × Option CauseRec
  | [] => (s, none)
  | b :: t =>
    match s.partPlace part true va with
    | .error c => (s, some c)
    | .ok (pa, key, hb) =>
      let w := va.toNat / 8 * 8
      if s.memFailing (pa / 8 * 8) 8 && !(decide (first ≤ w) && decide (w + 8 ≤ last)) then (s, some (czAt 0x27 va))
      else match s.fillBad key pa 1 with
      | some c => (s, some (czAt c va))
      | none =>
        let s := if va.toNat = first || pa % 32 = 0 then (s.homeTouch key pa 1 hb true).stampTo src (homeDie pa) else s
        ((s.putByte key pa b).firePhys pa 1).partWrite src part first last (va + 1) t

/-- The words of [first, last) written whole store fresh codes (03 R80), from the n-th last on. -/
def State.freshen (s : State) (part first last : Nat) : Nat → State
  | 0 => s
  | n + 1 =>
    let w := (first / 8 + n) * 8
    let t := s.freshen part first last n
    if first ≤ w && w + 8 ≤ last then
      match s.partPlace part true (BitVec.ofNat 64 w) with
      | .ok (pa, _, _) => { t with memEcc := t.memEcc.written pa 8 }
      | .error _ => t
    else t

/-- Bytes stored under a partition's tables by a unit of die src. -/
def State.partStore (s : State) (src part : Nat) (va : Word) (b : List Byte) : State × Option CauseRec :=
  let r := s.partWrite src part va.toNat (va.toNat + b.length) va b
  if r.1.memEcc.bad.isEmpty && r.1.memEcc.single.isEmpty && !r.1.memEcc.ret then r
  else (r.1.freshen part va.toNat (va.toNat + b.length) ((va.toNat + b.length + 7) / 8 - va.toNat / 8), r.2)

/-- A word of n bytes at va is failing. -/
def State.partFailing (s : State) (part : Nat) (va : Word) : Nat → Bool
  | 0 => false
  | n + 1 => (match s.partPlace part true va with
    | .ok (pa, _, _) => s.memFailing pa 1
    | .error _ => false) || s.partFailing part (va + 1) n

/-! ### Retention slots (11 R238, Table 11-1) -/

/-- Where slot i of the retention area lies. -/
def Part.slotVa (p : Part) (i : Nat) : Word := (p.desc[3] &&& 0x00FFFFFFFFFFFFFF) + BitVec.ofNat 64 (0x10000 + i * 0x60000)

/-! ### The shadow store of a check heat (11 R246) -/

def State.retSlot (s : State) (k : Nat) : Option (Nat × Nat × RetSlot) :=
  match (s.ctx k).task.bind (fun t => t.check) with
  | none => none
  | some (i, _) => (SMap.find (s.part (s.partOf (k / 4))).slots i).map (fun r => (s.partOf (k / 4), i, r))

/-- A byte of a check heat's address space: written, else retained. -/
def RetSlot.byte (r : RetSlot) (a : Nat) : Option Byte :=
  if r.written.contains a then some (Mem.get r.shadow a)
  else (r.kept.find? (fun l => l.1 ≤ a && a < l.1 + 32)).bind (fun l => l.2.1[a - l.1]?)

def RetSlot.bytes (r : RetSlot) (a : Nat) : Nat → Except Stop (List Byte)
  | 0 => .ok []
  | n + 1 => match r.byte a with
    | none => .error .escape
    | some b => (r.bytes (a + 1) n).map (fun t => b :: t)

def RetSlot.put (r : RetSlot) (a : Nat) : List Byte → RetSlot
  | [] => r
  | b :: t => ({ r with shadow := Mem.set r.shadow a b, written := if r.written.contains a then r.written else a :: r.written } : RetSlot).put (a + 1) t

/-- The distinct 32-byte sectors the shadow store holds, in the order in which they were taken. -/
def RetSlot.taken (r : RetSlot) : List Nat := (r.written.reverse.map (fun a => a / 32)).eraseDups
def RetSlot.sectors (r : RetSlot) : Nat := r.taken.length
/-- The written-byte mask of a sector. -/
def RetSlot.mask (r : RetSlot) (sec : Nat) : Nat :=
  (List.range 32).foldl (fun m i => if r.written.contains (sec * 32 + i) then m + 2 ^ i else m) 0

/-- What a write of b at a leaves in the slot's memory: its bytes at the places of the sectors taken, and their masks (Table 11-1;
notes/assumptions/97.md). A page that cannot be written keeps what it holds. DESIGN CHOICE. -/
def State.shadowStore (s : State) (src part i : Nat) (r : RetSlot) (a : Nat) (b : List Byte) : State :=
  let va := (s.part part).slotVa i
  (r.taken.zipIdx).foldl (fun t e =>
    let lo := max a (e.1 * 32)
    let hi := min (a + b.length) (e.1 * 32 + 32)
    if hi ≤ lo then t
    else ((t.partStore src part (va + BitVec.ofNat 64 (0x10000 + 32 * e.2 + lo % 32)) ((b.drop (lo - a)).take (hi - lo))).1.partStore src part
      (va + BitVec.ofNat 64 (0x50000 + 4 * e.2)) (leBytes 4 (r.mask e.1))).1) s

/-- The tag and sideband a check heat reads for a line. -/
def RetSlot.tag (r : RetSlot) (a : Nat) : Nat × Word :=
  ((r.kept.find? (fun l => l.1 / 128 = a / 128)).map (fun l => (l.2.2.1, l.2.2.2))).getD (0, 0)

/-! ### Reads and writes of a place -/

/-- The n bytes of a place; "memory uncorrectable" on a failing word (03 R80). -/
def State.readPlace (s : State) (k : Nat) (p : Place) (n : Nat) (va : Word) : Except Stop (List Byte) :=
  match p with
  | .array core off =>
    if (s.core core).ecc.failing off n then .error (.trap (czAt 0x27 va)) else .ok (s.arrBytes core off n)
  | .phys pa key _ _ hb =>
    if s.memFailing pa n then .error (.trap (czAt 0x27 va))
    else match s.fillBad key pa n with
      | some c => .error (.trap (czAt c va))
      | none => if hb || s.nearRoom pa n then .ok (s.physBytes key pa n) else .error (.block (.slice pa n))
  | .completion c => .ok (leBytes 8 (((s.core (k / 4)).ch[c]?).elim 0 (fun h => h.compl)))
  | .shadow a => match s.retSlot k with
    | none => .error .escape
    | some (_, _, r) => r.bytes a n

/-- A rank-window access leaves the rank's entry in its sender's interface. -/
def State.rankUse (s : State) (core : Nat) (va : Word) : State :=
  if spaceOf va = .rank then s.rankFill core (s.partOf core) (va.toNat % 2 ^ 56 / 0x8000) else s

/-- What a core's read at va leaves behind: corrected errors, the line in its slice and in the L1 ways of a cached page,
the translation in the TLBs. -/
def State.afterRead (s : State) (core : Nat) (p : Place) (n : Nat) (va : Word) : State :=
  match p with
  | .array c off =>
    let y := s.core c
    (if y.ecc.single.isEmpty && !y.ecc.ret then s else s.setCore c { y with ecc := y.ecc.touch off n }).rankUse core va
  | .phys pa key ctr unc hb =>
    let s := if s.memEcc.single.isEmpty then s else
      let u := s.clu (homeClu pa)
      let hit := (s.memEcc.touch pa n).corr - s.memEcc.corr
      { (s.setClu (homeClu pa) { u with ecc := { u.ecc with corr := min (u.ecc.corr + hit) 0xFFFFFFFF } }) with memEcc := s.memEcc.touch pa n }
    (s.cacheTouch core key pa n (ctr || unc) hb false).tlbFill core (s.partOf core) va
  | _ => s

/-- The bytes of a place written at its home, in the one order of 04 R86; the watches on them fire. A home on another die
waits for what precedes the write (04 R87). -/
def State.writePlace (s : State) (k : Nat) (p : Place) (b : List Byte) (va : Word) : Except Stop State :=
  match p with
  | .array core off =>
    if (s.core core).ecc.failingPart off b.length then .error (.trap (czAt 0x27 va))
    else if !s.mayArrive (dieOf (k / 4)) (dieOf core) then .error (.block (.hold (dieOf core)))
    else .ok (((s.putArr core off b).stampTo (dieOf (k / 4)) (dieOf core)).rankUse (k / 4) va)
  | .phys pa key ctr unc hb =>
    if s.memFailingPart pa b.length then .error (.trap (czAt 0x27 va))
    else match s.fillBad key pa b.length with
      | some c => .error (.trap (czAt c va))
      | none =>
        if !(hb || s.nearRoom pa b.length) then .error (.block (.slice pa b.length))
        else if !s.mayArrive (dieOf (k / 4)) (homeDie pa) then .error (.block (.hold (homeDie pa)))
        else
          let s := s.cacheTouch (k / 4) key pa b.length (ctr || unc) hb true
          let s := s.putBytes key pa b
          let s : State := { s with memEcc := s.memEcc.written pa b.length }
          .ok (((s.firePhys pa b.length).stampTo (dieOf (k / 4)) (homeDie pa)).tlbFill (k / 4) (s.partOf (k / 4)) va)
  | .completion _ => .error (.trap (czAt 0x29 va))
  | .shadow a => match s.retSlot k with
    | none => .error .escape
    | some (pt, i, r) =>
      let r' := r.put a b
      if 8192 < r'.sectors then .error .unverifiable
      else
        let q := s.part pt
        .ok ((s.setPart pt { q with slots := SMap.set q.slots i r' }).shadowStore (dieOf (k / 4)) pt i r' a b)

/-! ### Store-acknowledge counts (04 R91) -/

/-- The operation counts at a home that is not the context's own array: in the sys count for a host-bias page. -/
def Place.counted (p : Place) (core : Nat) : Option Bool :=
  match p with
  | .array c _ => if c = core then none else some false
  | .phys _ _ _ _ hb => some hb
  | _ => none

/-- A context with 64 operations under a count blocks at its next one. -/
def State.ackRoom (s : State) (k : Nat) (p : Place) : Except Stop Unit :=
  match p.counted (k / 4) with
  | none => .ok ()
  | some sys => await (if sys then (s.ctx k).sysCnt < 64 else (s.ctx k).modCnt < 64) .ack

def Ctx.addAck (x : Ctx) (sys : Bool) : Ctx :=
  if sys then { x with sysCnt := x.sysCnt + 1 } else { x with modCnt := x.modCnt + 1 }

def State.addAck (s : State) (k : Nat) (p : Place) : State :=
  match p.counted (k / 4) with
  | none => s
  | some sys => s.setCtx k ((s.ctx k).addAck sys)

/-! ### Owners and bins of keys (10 R219, R223) -/

def krbRbase (w : Word) : Nat := bits w 63 44
def krbNr (w : Word) : Nat := bits w 43 24
def krbBs (w : Word) : Nat := bits w 23 12
def krbBbase (w : Word) : Nat := bits w 15 0

/-- The owner rank of a key. -/
def keyOwner (krb0 : Word) (key : Nat) : Option Nat :=
  if krbNr krb0 = 0 || krbBs krb0 = 0 || krbNr krb0 ≤ key / krbBs krb0 then none else some (krbRbase krb0 + key / krbBs krb0)

/-- The bin of a key at its owner. -/
def binAddr (k0 k1 : Word) (key : Nat) : Nat := krbBbase k1 + 8 * (key % krbBs k0)

/-! ### Ordering with queued vector words (02 R27, 06 R150) -/

/-- A vector-class word that may write vector register b or mask register m. -/
def mayWriteLanes (i : Instr) (b : BitVec 5) (m : BitVec 3) : Bool :=
  match i with
  | .vcmpEqF32 d .. | .vcmpLtF32 d .. | .vcmpLeF32 d .. | .vcmpNeF32 d .. | .vcmpEq d .. | .vcmpNe d .. | .vcmpLt d ..
  | .vcmpLe d .. | .vcmpLtU d .. | .vcmpLeU d .. => d = m
  | .vaddF32 d .. | .vsubF32 d .. | .vmulF32 d .. | .vfma d .. | .vminF32 d .. | .vmaxF32 d .. | .vabsF32 d .. | .vrcp d ..
  | .vrsq d .. | .vexp2 d .. | .vlog2 d .. | .vscanAddF32 d .. | .vscanMinF32 d .. | .vscanMaxF32 d .. | .vtab d .. | .vadd d ..
  | .vsub d .. | .vmul d .. | .vmin d .. | .vmax d .. | .vminU d .. | .vmaxU d .. | .vabs d .. | .vand d .. | .vor d ..
  | .vxor d .. | .vshl d .. | .vshr d .. | .vsha d .. | .vpopc d .. | .vsel d .. | .vperm d .. | .vbcast d .. | .vsort d ..
  | .vscanAdd d .. | .vld d .. | .vldx d .. => d = b
  | .vcvt .. | .raytri .. | .raybox .. | .attr .. => true
  | _ => false

/-- The 32-byte sector that an address of a core names, whatever name it has: of physical memory (0), of the array of core c
(c + 1), or an address that names no place. -/
def State.sectorOf (s : State) (core : Nat) (va : Word) : Nat × Nat :=
  let part := s.partOf core
  match spaceOf va with
  | .scratch => (core + 1, va.toNat / 32)
  | .rank => (bits (s.rankSeen core part (va.toNat % 2 ^ 56 / 0x8000)) 17 0 + 1, va.toNat % 0x8000 / 32)
  | .translated => match s.translate core part va.toNat with
    | .ok (e, lg) => (0, (pteAddr e + va.toNat % 2 ^ lg) / 32)
    | .error _ => (2 ^ 20, va.toNat / 32)
  | _ => (2 ^ 20, va.toNat / 32)

/-- The sectors of n bytes from va on. -/
def State.sectorsOf (s : State) (core : Nat) (va : Word) (n : Nat) : List (Nat × Nat) :=
  (List.range ((va.toNat + n + 31) / 32 - va.toNat / 32)).map (fun i => s.sectorOf core (BitVec.ofNat 64 (va.toNat / 32 * 32 + 32 * i)))

/-- The bin of a key that a core sends lies in the sectors of n bytes at va (10 R224). -/
def State.binIn (s : State) (core part : Nat) (krb0 : Word) (key : Nat) (va : Word) (n : Nat) : Bool :=
  (keyOwner krb0 key).any (fun r =>
    let c := bits (s.rankSeen core part r) 17 0
    (s.sectorsOf core va n).contains (c + 1, binAddr (s.core c).krb0 (s.core c).krb1 key / 32))

/-- A vector memory word, key update or pixel write of the context in the queue that may touch the sectors of n bytes at va. The lanes of
an indexed word are those of its registers, unless a word of the context before it, of which `before` holds the ones queued,
may write them. -/
def State.touches (s : State) (before : List VWord) (w : VWord) (va : Word) (n : Nat) : Bool :=
  let core := w.key / 4
  let near := fun (a : Word) (m : Nat) => (s.sectorsOf core a m).any (fun x => (s.sectorsOf core va n).contains x)
  let x := s.ctx w.key
  let indexed := fun (b : BitVec 5) (m : BitVec 3) (e : BitVec 2) =>
    before.any (fun u => u.key = w.key && mayWriteLanes u.instr b m) ||
      (List.range 8).any (fun i => (x.m m).getLsbD i && near (w.x + BitVec.ofNat 64 (((x.v b)[i]?).elim 0 (fun l => l.toNat))) (4 / 2 ^ e.toNat))
  match w.instr with
  | .vld .. | .vst .. => near (w.x + w.y) 32
  | .vldx _ _ b m e => indexed b m e
  | .vstx _ _ b m e => indexed b m e
  | .pxout .. => near w.x 2048
  | .attr .. => near w.y 48
  | .raytri .. => near w.y 64
  | .raybox .. => near w.y 24
  | .vtab .. => near (BitVec.ofNat 64 (bits w.e6 15 0)) 2048
  | .vksend a _ m =>
    spaceOf va ≠ .translated && (before.any (fun u => u.key = w.key && mayWriteLanes u.instr a m) ||
      (List.range 8).any (fun i => (x.m m).getLsbD i && s.binIn core (s.partOf core) w.krb (((x.v a)[i]?).elim 0 (fun l => l.toNat)) va n))
  | _ => false

/-- The words of a queue that touch the sectors of n bytes at va. -/
def State.anyTouches (s : State) (k : Nat) (va : Word) (n : Nat) : List VWord → List VWord → Bool
  | _, [] => false
  | before, w :: t => (w.key = k && s.touches before w va n) || s.anyTouches k va n (before ++ [w]) t

def State.sectorFree (s : State) (k : Nat) (va : Word) (n : Nat) : Bool :=
  let c := s.core (k / 4)
  !s.anyTouches k va n [] c.vq &&
    !(c.xsels.any (fun h => h.ctx = k % 4 && (s.sectorsOf (k / 4) (BitVec.ofNat 64 h.addr) 64).any (fun x => (s.sectorsOf (k / 4) va n).contains x)))

/-- A key update that the context sent is still to be applied to a bin in the sectors of n bytes at va (04 R85, 10 R224). -/
def State.keyAhead (s : State) (k : Nat) (va : Word) (n : Nat) : Bool :=
  s.cores.any (fun c => c.2.kin.any (fun u => u.sender = k && u.edge.isNone &&
    (s.sectorsOf (k / 4) va n).contains (c.1 + 1, binAddr c.2.krb0 c.2.krb1 u.key / 32)))

/-- A scalar access waits for those words, and for the context's key updates of that core. -/
def State.ordered (s : State) (k : Nat) (va : Word) (n : Nat) : Except Stop Unit :=
  await (s.sectorFree k va n && !s.keyAhead k va n) (.sector va n)

/-- A word that reads or writes n bytes of its core's scratch waits for those words and for the context's held atomics. -/
def State.scrOrdered (s : State) (k : Nat) (va : Word) (n : Nat) : Except Stop Unit := do
  s.ordered k va n
  s.relFree k (.array (k / 4) (scratchIdx (s.core (k / 4)).waym va.toNat)) n

/-! ### Scalar loads, stores and indivisible accesses -/

/-- The value of an ordinary load of n bytes at va, and the state after it (23 R388). -/
def State.load (s : State) (n : Nat) (va : Word) : Except Stop (Nat × State) := do
  let p ← s.reach s.cur (Req.load n) va
  s.ordered s.cur va n
  let b ← s.readPlace s.cur p n va
  .ok (leNat b, s.afterRead s.curCore p n va)

/-- The place of a rank window's address as its entry stands, in transit or not. -/
def State.rankHome (s : State) (core : Nat) (va : Word) : Place :=
  let c := bits (s.rankSeen core (s.partOf core) (va.toNat % 2 ^ 56 / 0x8000)) 17 0
  .array c (scratchIdx (s.core c).waym (va.toNat % 0x8000))

/-- A store of the context that its interface holds for another rank than r. -/
def State.heldStore (s : State) (k r : Nat) : Option Nat :=
  ((s.core (k / 4)).held.find? (fun m => m.ctx = k && m.rank ≠ r && (match m.act with
    | .store _ => true
    | _ => false))).map (fun m => m.rank)

/-- A store comes after the context's earlier stores (04 R85): it waits while the interface holds one for another rank than r. -/
def State.storeFree (s : State) (k r : Nat) : Except Stop Unit :=
  match s.heldStore k r with
  | some q => .error (.block (.rank q))
  | none => .ok ()

/-- The interface of a context's core holds a message for a rank in transit, counted toward its 8 unsent ones (03 R69);
the context goes on, and the operation counts as unacknowledged. The context's held atomics that stand before it come first
(04 R85, Table 4-5). -/
def State.holdRank (s : State) (va : Word) (r : Nat) (a : RankAct) (n : Nat) : Except Stop State := do
  s.relFree s.cur (s.rankHome s.curCore va) n
  s.ordered s.cur va n
  let c := s.core s.curCore
  await (s.cx.modCnt < 64) .ack
  await (c.unsent.length + c.held.length < 8) .message
  let m : RankMsg := { rank := r, off := va.toNat % 0x8000, ctx := s.cur, task := s.cx.task.elim 0 (fun t => t.num), act := a }
  .ok ((s.setCore s.curCore { c with held := c.held ++ [m] }).setCx (s.cx.addAck false))

/-- An ordinary store (24 R429). A partial write of a failing word leaves it and comes back asynchronously (R430). -/
def State.store (s : State) (n : Nat) (va : Word) (v : Word) : Except Stop State :=
  match s.reach s.cur (Req.store n) va with
  | .error (.block (.rank r)) => do
    s.storeFree s.cur r
    s.holdRank va r (.store (leBytes n v.toNat)) n
  | .error e => .error e
  | .ok p => do
    s.ordered s.cur va n
    s.storeFree s.cur (2 ^ 20)
    s.ackRoom s.cur p
    match s.writePlace s.cur p (leBytes n v.toNat) va with
    | .ok t => .ok (t.addAck s.cur p)
    | .error (.trap c) =>
      if c.code = 0x27 then .ok (s.postAsync s.cur s.cx.taskNum 1 c) else .error (.trap c)
    | .error e => .error e

/-- An indivisible read and write of a place (22 R346): `f` gives the new bytes, none to write nothing. -/
def State.rmw (s : State) (k : Nat) (p : Place) (n : Nat) (va : Word) (f : Nat → Option Nat) : Except Stop (Nat × State) := do
  let b ← s.readPlace k p n va
  let old := leNat b
  match f old with
  | none => do
    await (s.mayArrive (dieOf (k / 4)) (p.die (k / 4))) (.hold (p.die (k / 4)))
    .ok (old, (s.afterRead (k / 4) p n va).stampTo (dieOf (k / 4)) (p.die (k / 4)))
  | some v =>
    let t ← s.writePlace k p (leBytes n v) va
    .ok (old, t)

/-! ### Counters (04 R98, R99) -/

/-- The place of a counter in a translated page. -/
def State.counterPa (s : State) (core part : Nat) (user w : Bool) (va : Word) : Except CauseRec Place :=
  if va.toNat % 8 ≠ 0 then .error (czAt 0x20 va)
  else match spaceOf va with
  | .translated =>
    match s.translate core part va.toNat with
    | .error c => .error (czAt c va)
    | .ok (e, lg) =>
      let pa := pteAddr e + va.toNat % 2 ^ lg
      if !pteCtr e then .error (czAt 0x29 va)
      else if pteOwner e ≠ part then .error (czAt 0x25 va)
      else if (w && !pteW e) || !pteR e || (user && !pteU e) then .error (czAt 0x24 va)
      else if !s.backed pa then .error (czAt 0x26 va)
      else .ok (.phys pa (pteKey e) true (pteCa e = 1) (pteHb e))
  | .none => .error (czAt 0x2D va)
  | .mgmt => .error (czAt 0x2D va)
  | _ => .error (czAt 0x29 va)

/-- The place of a counter that hardware without a context's command names; a scratch address has no scratch (03 R465). -/
def State.unitCounter (s : State) (core part : Nat) (w : Bool) (va : Word) : Except CauseRec Place :=
  if va.toNat % 8 = 0 && spaceOf va = .scratch then .error (czAt 0x21 va)
  else s.counterPa core part false w va

/-- The parameter blocks of a graph's stages as they stand; a stage without one, or whose read faults, gives none. -/
def State.paramBlocks (s : State) (part : Nat) (g : Graph) : List (List Byte) :=
  g.stages.map (fun st =>
    match s.partRead part st.param (if st.param.toNat = 0 then 0 else st.plen) with
    | .ok b => b
    | .error _ => [])

/-- The causes of the parameter blocks that cannot be read. -/
def State.paramFaults (s : State) (part : Nat) (g : Graph) : List (CauseRec × Byte) :=
  g.stages.filterMap (fun st =>
    match s.partRead part st.param (if st.param.toNat = 0 then 0 else st.plen) with
    | .ok _ => none
    | .error c => some (c, BitVec.ofNat 8 (bits (st.template.getD 1 0) 63 56)))

/-- The replay counter of a partition rose from old to new: its replays start, and copy the parameter blocks at that
moment (02 R52, R54). -/
def State.startReplay (s : State) (part pa old new : Nat) : State :=
  let p := s.part part
  match p.graph with
  | none => s
  | some g =>
    if g.rctr = 0 then s
    else match s.partPlace part false g.rctr with
      | .ok (q, _, _) =>
        if q ≠ pa then s
        else
          let t := s.setPart part { p with graph := some { g with due := g.due ++ [(old + 1, new, s.paramBlocks part g)] } }
          (s.paramFaults part g).foldl (fun t c => t.causeNotice part c.1 0 0 0 c.2) t
      | .error _ => s

def State.startReplays (s : State) (pa old new : Nat) : State :=
  if new ≤ old then s else s.parts.foldl (fun t pp => t.startReplay pp.1 pa old new) s

/-- The saturating add at a counter's home: the old value and the state after. -/
def State.counterAdd (s : State) (core : Nat) (p : Place) (n : Nat) (va : Word) : Except Stop (Nat × State) := do
  let b ← s.readPlace (core * 4) p 8 va
  let old := leNat b
  let new := min (old + n) (2 ^ 64 - 1)
  let t ← s.writePlace (core * 4) p (leBytes 8 new) va
  .ok (old, match p with
    | .phys pa _ _ _ _ => t.startReplays pa old new
    | _ => t)

/-- A post by an engine: CADD.nr at sys scope (22 R364). -/
def State.post (s : State) (core part : Nat) (user : Bool) (va : Word) (n : Nat) : Except Stop State := do
  let p ← (s.counterPa core part user true va).mapError Stop.trap
  let (_, t) ← s.counterAdd core p n va
  .ok t

/-! ### Heat counters (11 Table 11-5) -/

/-- The add of 1 at a heat counter's home, saturating. -/
def State.heatAdd (s : State) (part : Nat) (p : Place) : State :=
  match p with
  | .phys pa key _ _ hb =>
    let coord := (s.part part).cells.headD 0 * 4
    if s.memFailing pa 8 then s.causeNotice part (cz 0x27) 12 coord 0 0
    else match s.fillBad key pa 8 with
    | some c => s.causeNotice part (cz c) 12 coord 0 0
    | none => ((s.homeTouch key pa 8 hb true).putBytes key pa
        (leBytes 8 (min (leNat (s.physBytes key pa 8) + 1) (2 ^ 64 - 1)))).firePhys pa 8
  | _ => s

/-- A counter of the header page at RETBASE rises by 1 at its home (11 Table 11-5), which holds the add for operations before
it (04 R87). A base in scratch is "scratch out of range" (03 R465). -/
def State.heatCount (s : State) (part off : Nat) : State :=
  let va : Word := BitVec.ofNat 64 (bits (s.part part).desc[3] 55 0 + off)
  let core := (s.part part).cells.headD 0 * 4
  match s.unitCounter core part true va with
  | .error c => s.causeNotice part c 12 core 0 0
  | .ok p =>
    let src := dieOf core
    let dst := p.die core
    if s.mayArrive src dst then (s.heatAdd part p).stampTo src dst
    else
      let v := s.nextStamp src
      let s := s.setDie src { s.die src with vclk := v }
      s.setDie dst { s.die dst with counts := (s.die dst).counts ++ [{ part := part, place := p, stamp := v }] }

/-- Escape and unverifiable (11 R246): no score changes, ESC rises, the slot is freed and the supervisor is told. -/
def State.escapeHeat (s : State) (k : Nat) (code : Nat) : State :=
  let x := s.ctx k
  let p := s.partOf (k / 4)
  let i := (x.task.bind (fun t => t.check)).elim 0 Prod.fst
  let s := (s.dropMq k).endTask k
  let s := s.setCtx k { (s.ctx k) with st := { x.st with chk := false } }
  let q := s.part p
  let s := (s.setPart p { q with slots := SMap.drop q.slots i }).heatCount p 0x20
  s.causeNotice p { code := BitVec.ofNat 7 code, info := BitVec.ofNat 32 i, va := 0 } 12 (k / 4) 0 x.tenant

/-! ### Leaving a wait or a task (02 R33 to R35, R38) -/

/-- In `resume`, the count that a PACEW returns, read as its context became Ready (23 R401). -/
def paceMark : Nat := 2 ^ 72

/-- What EXIT waits for at its context (22 R374): the sequencer, the vector words and their faults, and the counts. -/
def State.quiet (s : State) (k : Nat) : Bool :=
  let x := s.ctx k
  !s.vbusy k && x.seqr.isNone && x.deferred.isNone && decide (x.modCnt = 0) && decide (x.sysCnt = 0) && x.relq.isEmpty

/-- A context stops waiting because it enters a handler or is parked: its place among blocked pushers and poppers is
given up, a WAYS it had begun is withdrawn, and a WAITW starts afresh. -/
def State.unwait (s : State) (k : Nat) : State :=
  let c := s.core (k / 4)
  let s := s.setCore (k / 4)
    { c with qwait := c.qwait.filter (fun w => w.1 ≠ k % 4),
             ways := c.ways.filter (fun r => r.ctx ≠ k % 4) }
  let x := s.ctx k
  match x.cs with
  | .blocked (.waitw _) => s.setCtx k { x with resume := SMap.drop x.resume x.pc.toNat }
  | .ready => if (SMap.find x.resume x.pc.toNat).any (fun v => decide (paceMark ≤ v)) then s.setCtx k { x with resume := SMap.drop x.resume x.pc.toNat } else s
  | .blocked (.stageQueue _) =>
    let p := s.part (s.partOf (k / 4))
    s.setPart (s.partOf (k / 4)) { p with graph := p.graph.map (fun g =>
      { g with queues := g.queues.map (fun q => { q with wait := q.wait.filter (fun w => w ≠ k) }) }) }
  | _ => s

/-- The mark, in `resume`, of a context that ends once its counts and vector words are done. -/
def leaving : Nat := 2 ^ 64

/-- The context only ends. -/
def Ctx.isLeaving (x : Ctx) : Bool := (SMap.find x.resume leaving).isSome

/-- An exchange routine ends once every XMIT and XSEL of its core has acted (06 R150). -/
def State.exchangeDone (s : State) (k : Nat) : Bool :=
  !((s.ctx k).isExch && (!(s.core (k / 4)).xmits.isEmpty || !(s.core (k / 4)).xsels.isEmpty))

/-- A context ends: Idle once its counts, its vector words and its core's exchange are done. Until then a follower stays
Held and a frozen context Parked (02 Table 2-1). -/
def State.leave (s : State) (k : Nat) : State :=
  if s.quiet k && s.exchangeDone k then s.endTask k
  else
    let x := s.ctx k
    s.setCtx k { x with gang := none, watch := [], resume := [(leaving, 0)],
                        cs := match x.cs with
                          | .held => .held
                          | .frozen => .frozen
                          | _ => .blocked .exit }

/-- Every watch of a member wakes with reason bit 12. -/
def Ctx.wake12 (x : Ctx) : Ctx :=
  match x.cs with
  | .blocked (.waitw _) => { x with reasons := x.reasons ||| 16 }
  | _ => if x.watch.isEmpty then x else { x with reasons := x.reasons ||| 16 }

/-- The gang of a leader disbands: followers leave, the leader goes on alone. -/
def State.disband (s : State) (leader : Nat) : State :=
  match (s.ctx leader).gang with
  | none => s
  | some g =>
    let s := (g.members.filter (fun m => m ≠ leader)).foldl (fun t m => (t.unwait m).leave m) s
    let x := s.ctx leader
    s.setCtx leader ({ x with gang := none }.wake12)

/-- The key a trap of context k enters at, and the member number it reports (02 R35). -/
def Ctx.trapOwner (x : Ctx) (k : Nat) : Nat × BitVec 3 :=
  match x.gang with
  | none => (k, 0)
  | some g => (g.leader, BitVec.ofNat 3 g.member)

/-- A violation of protection that an operation of context k meets after the context has gone on freezes it where it stands, a
gang at its leader (12 R266); one that is frozen already is only reported. -/
def State.arrest (s : State) (k : Nat) (c : CauseRec) : State :=
  let o := (s.ctx k).trapOwner k
  if (s.ctx o.1).cs = .frozen then s.causeNotice (s.partOf (k / 4)) c 1 (k / 4) 0 (s.ctx k).tenant
  else
    let t := (s.unwait o.1).disband o.1
    t.takeTrap o.1 (t.ctx o.1).pc c 1 o.2

/-! ### The outcome of a meaning -/

/-- What a stop does to the state in which the instruction issued. A trap is precise: the context's vector words before the
instruction complete first (12 R262). -/
def State.stopped (s : State) : Stop → State
  | .trap c => if s.vbusy s.cur then s.block .precise else s.takeTrap s.cur s.cx.pc c 0 0
  | .block w => s.block w
  | .escape => s.escapeHeat s.cur 0x5A
  | .unverifiable => s.escapeHeat s.cur 0x5B

/-- The outcome of a meaning: its own next state, or what its stop does. -/
def State.out (s : State) (r : Except Stop State) : Host.Outcome State Fault Refusal :=
  match r with
  | .ok t => .next t
  | .error e => .next (s.stopped e)

/-! ### Sign extension -/

/-- The low w bits of x read as signed. -/
def signedOf (w x : Nat) : Int := if x % 2 ^ w < 2 ^ (w - 1) then (x % 2 ^ w : Nat) else (x % 2 ^ w : Nat) - (2 ^ w : Nat)
/-- A word from an integer, modulo 2^64. -/
def wordOf (x : Int) : Word := BitVec.ofInt 64 x
/-- The low w bits of x, sign-extended. -/
def sextN (w x : Nat) : Word := wordOf (signedOf w x)

end Sys2Proof.Machine
end

