-- ==== Sys2Proof/Machine/Operands.lean ====
section
/-! DEFINITION. Operand forms: the register fields of the words, immediates and effective addresses (15). -/

namespace Sys2Proof.Machine

/-- A 3-bit register field of a compressed word names s8 to s15 (15 R315). -/
def creg (r : BitVec 3) : BitVec 5 := (1 : BitVec 2) ++ r

/-! ### Immediates (15 Table 15-7) -/

/-- A sign-extended immediate. -/
def simm {n : Nat} (i : BitVec n) : Word := i.signExtend 64
/-- A zero-extended immediate. -/
def zimm {n : Nat} (i : BitVec n) : Word := i.setWidth 64
/-- A branch or jump offset: sign-extended, times 2. -/
def soff {n : Nat} (i : BitVec n) : Word := i.signExtend 64 <<< 1

/-! ### Effective addresses -/

/-- LD and ST (23 R388, 24 R429). -/
def addrM (x : Ctx) (a : BitVec 5) (o : BitVec 12) : Word := x.s a + simm o
/-- LDX and STX. -/
def addrX (x : Ctx) (a b : BitVec 5) (h : BitVec 3) : Word := x.s a + (x.s b <<< h.toNat)
/-- AMO, ACAS and RED (22 R346, 23 R410). -/
def addrA (x : Ctx) (a : BitVec 5) (f : BitVec 3) : Word := x.s a + 8 * zimm f
/-- Compressed loads and stores: the offset scaled by the size. -/
def addrC (x : Ctx) (s : BitVec 3) (o : BitVec 5) (n : Nat) : Word := x.s (creg s) + BitVec.ofNat 64 (o.toNat * n)

/-- Bytes of a size field (15 R301). -/
def sizeOf (z : BitVec 3) : Nat := 2 ^ (z.toNat % 4)
/-- The register value of a load of a size field: .b, .h, .w and .d sign-extend, .bu, .hu and .wu zero-extend. -/
def loadExt (z : BitVec 3) (v : Nat) : Word := if z.toNat < 4 then sextN (8 * sizeOf z) v else BitVec.ofNat 64 v

/-! ### The registers a word names -/

/-- The scalar registers a word names, to be read or written (02 R25). -/
def scalarRegs : Instr → List (BitVec 5)
  | .add d a b => [d, a, b]
  | .sub d a b => [d, a, b]
  | .and d a b => [d, a, b]
  | .or d a b => [d, a, b]
  | .xor d a b => [d, a, b]
  | .shl d a b => [d, a, b]
  | .shr d a b => [d, a, b]
  | .sha d a b => [d, a, b]
  | .slt d a b => [d, a, b]
  | .sltu d a b => [d, a, b]
  | .min d a b => [d, a, b]
  | .max d a b => [d, a, b]
  | .minu d a b => [d, a, b]
  | .maxu d a b => [d, a, b]
  | .seq d a b => [d, a, b]
  | .sel d a b c => [d, a, b, c]
  | .addi d a _ => [d, a]
  | .andi d a _ => [d, a]
  | .ori d a _ => [d, a]
  | .xori d a _ => [d, a]
  | .slti d a _ => [d, a]
  | .shli d a _ => [d, a]
  | .shri d a _ => [d, a]
  | .shai d a _ => [d, a]
  | .lui d _ => [d]
  | .addpc d _ => [d]
  | .mul d a b _ => [d, a, b]
  | .mulh d a b _ => [d, a, b]
  | .mulhu d a b _ => [d, a, b]
  | .div d a b _ => [d, a, b]
  | .divu d a b _ => [d, a, b]
  | .rem d a b _ => [d, a, b]
  | .remu d a b _ => [d, a, b]
  | .clz d a => [d, a]
  | .ctz d a => [d, a]
  | .popc d a => [d, a]
  | .brev d a => [d, a]
  | .bswap d a => [d, a]
  | .bfx d a b => [d, a, b]
  | .bfi d a b => [d, a, b]
  | .fadd d a b => [d, a, b]
  | .fsub d a b => [d, a, b]
  | .fmul d a b => [d, a, b]
  | .fdiv d a b => [d, a, b]
  | .fsqrt d a => [d, a]
  | .fmin d a b => [d, a, b]
  | .fmax d a b => [d, a, b]
  | .fcmp d a b _ => [d, a, b]
  | .fclass d a => [d, a]
  | .fcvt d a _ _ _ _ => [d, a]
  | .ffma d a b c => [d, a, b, c]
  | .ld d a _ _ => [d, a]
  | .st v a _ _ => [v, a]
  | .ldx d a b _ _ => [d, a, b]
  | .stx v a b _ _ => [v, a, b]
  | .pref a => [a]
  | .cflush a => [a]
  | .cinv a => [a]
  | .ways d _ => [d]
  | .beq a b _ => [a, b]
  | .bne a b _ => [a, b]
  | .blt a b _ => [a, b]
  | .bge a b _ => [a, b]
  | .bltu a b _ => [a, b]
  | .bgeu a b _ => [a, b]
  | .jal d _ => [d]
  | .jalr d a _ => [d, a]
  | .loop a _ => [a]
  | .amo d a b _ _ _ _ => [d, a, b]
  | .acas d a b _ _ _ => [d, a, b]
  | .red a b _ _ _ => [a, b]
  | .cadd d a _ b => [d, a, b]
  | .caddNr a _ b => [a, b]
  | .cwait d a _ b => [d, a, b]
  | .cread d a _ => [d, a]
  | .watch d a => [d, a]
  | .waitw d a => [d, a]
  | .qfence a => [a]
  | .bar a _ b => [a, b]
  | .pacew d a => [d, a]
  | .vredAddF32 d _ _ => [d]
  | .vredMinF32 d _ _ => [d]
  | .vredMaxF32 d _ _ => [d]
  | .vextr d _ b => [d, b]
  | .vbcast _ a _ => [a]
  | .vsort _ _ b _ => [b]
  | .vredAdd d _ _ => [d]
  | .vredMin d _ _ => [d]
  | .vredMax d _ _ => [d]
  | .vredOr d _ _ => [d]
  | .vredAnd d _ _ => [d]
  | .vld _ a b _ => [a, b]
  | .vst _ a b _ => [a, b]
  | .vldx _ a _ _ _ => [a]
  | .vstx _ a _ _ _ => [a]
  | .mclaim d a => [d, a]
  | .mrel a => [a]
  | .mload a b _ => [a, b]
  | .mma b => [b]
  | .mmaR a b => [a, b]
  | .mdrain a _ b => [a, b]
  | .mzero a => [a]
  | .mgrant d a b => [d, a, b]
  | .mstat d a _ => [d, a]
  | .cpy d a b _ => [d, a, b]
  | .cpyt d a b _ => [d, a, b]
  | .cpyg d a b _ => [d, a, b]
  | .seqw d a b => [d, a, b]
  | .seqrel a b => [a, b]
  | .cardef d a => [d, a]
  | .carsub d a b => [d, a, b]
  | .cardrop d a => [d, a]
  | .carskip d a => [d, a]
  | .carprom d a => [d, a]
  | .carwait d a b => [d, a, b]
  | .carpos d a b => [d, a, b]
  | .raytri _ _ b _ => [b]
  | .raybox _ _ b _ => [b]
  | .rayhit d a b => [d, a, b]
  | .spsort a => [a]
  | .spsortG d a b => [d, a, b]
  | .spcomp d a b => [d, a, b]
  | .attr _ _ b => [b]
  | .pxout d _ _ => [d]
  | .frsend a b => [a, b]
  | .emode d a => [d, a]
  | .krbin a b => [a, b]
  | .xmit a b _ => [a, b]
  | .xsel d a b _ => [d, a, b]
  | .spawn d a b => [d, a, b]
  | .mbox d a b => [d, a, b]
  | .gang d _ => [d]
  | .repgo a => [a]
  | .enq a b _ => [a, b]
  | .deq d a _ => [d, a]
  | .tid d _ => [d]
  | .qpush a _ => [a]
  | .qpop d _ => [d]
  | .qlevel d _ => [d]
  | .ext a _ => [a]
  | .extrd d _ => [d]
  | .outrng a b => [a, b]
  | .digrd d _ => [d]
  | .sysrd d _ => [d]
  | .syswr a _ => [a]
  | .cMov d s => [creg d, creg s]
  | .cAdd d s => [creg d, creg s]
  | .cSub d s => [creg d, creg s]
  | .cAddi d _ => [creg d]
  | .cShli d _ => [creg d]
  | .cAnd d s => [creg d, creg s]
  | .cLdw d s _ => [creg d, creg s]
  | .cStw v s _ => [creg v, creg s]
  | .cLdd d s _ => [creg d, creg s]
  | .cStd v s _ => [creg v, creg s]
  | .cBeqz s _ => [creg s]
  | .cBnez s _ => [creg s]
  | .cQpop d _ => [creg d]
  | _ => []

/-- A vector-class word with its scalar fields: the one in field a (or the tile address of PXOUT), the one in field b,
and the scalar register it writes (02 R25). -/
def vecSpec : Instr → Option (Option (BitVec 5) × Option (BitVec 5) × Option (BitVec 5))
  | .vaddF32 .. | .vsubF32 .. | .vmulF32 .. | .vfma .. | .vminF32 .. | .vmaxF32 ..
  | .vabsF32 .. | .vcmpEqF32 .. | .vcmpLtF32 .. | .vcmpLeF32 .. | .vcmpNeF32 .. | .vrcp ..
  | .vrsq .. | .vexp2 .. | .vlog2 .. | .vscanAddF32 .. | .vscanMinF32 .. | .vscanMaxF32 ..
  | .vtab .. | .vcvt .. | .vadd .. | .vsub .. | .vmul .. | .vmin ..
  | .vmax .. | .vminU .. | .vmaxU .. | .vabs .. | .vand .. | .vor ..
  | .vxor .. | .vshl .. | .vshr .. | .vsha .. | .vpopc .. | .vcmpEq ..
  | .vcmpNe .. | .vcmpLt .. | .vcmpLe .. | .vcmpLtU .. | .vcmpLeU .. | .vsel ..
  | .vperm .. | .vscanAdd .. | .vksend .. => some (none, none, none)
  | .vredAddF32 d _ _ => some (none, none, some d)
  | .vredMinF32 d _ _ => some (none, none, some d)
  | .vredMaxF32 d _ _ => some (none, none, some d)
  | .vextr d _ b => some (none, some b, some d)
  | .vbcast _ a _ => some (some a, none, none)
  | .vsort _ _ b _ => some (none, some b, none)
  | .vredAdd d _ _ => some (none, none, some d)
  | .vredMin d _ _ => some (none, none, some d)
  | .vredMax d _ _ => some (none, none, some d)
  | .vredOr d _ _ => some (none, none, some d)
  | .vredAnd d _ _ => some (none, none, some d)
  | .vld _ a b _ => some (some a, some b, none)
  | .vst _ a b _ => some (some a, some b, none)
  | .vldx _ a _ _ _ => some (some a, none, none)
  | .vstx _ a _ _ _ => some (some a, none, none)
  | .raytri _ _ b _ => some (none, some b, none)
  | .raybox _ _ b _ => some (none, some b, none)
  | .attr _ _ b => some (none, some b, none)
  | .pxout d _ _ => some (some d, none, none)
  | _ => none

/-- A captured word with each vector-register field replaced (02 R31). -/
def renameV (f : BitVec 5 → BitVec 5) : Instr → Instr
  | .vaddF32 d a b k => .vaddF32 (f d) (f a) (f b) k
  | .vsubF32 d a b k => .vsubF32 (f d) (f a) (f b) k
  | .vmulF32 d a b k => .vmulF32 (f d) (f a) (f b) k
  | .vfma d a b k => .vfma (f d) (f a) (f b) k
  | .vminF32 d a b k => .vminF32 (f d) (f a) (f b) k
  | .vmaxF32 d a b k => .vmaxF32 (f d) (f a) (f b) k
  | .vabsF32 d a k => .vabsF32 (f d) (f a) k
  | .vcmpEqF32 m a b k => .vcmpEqF32 m (f a) (f b) k
  | .vcmpLtF32 m a b k => .vcmpLtF32 m (f a) (f b) k
  | .vcmpLeF32 m a b k => .vcmpLeF32 m (f a) (f b) k
  | .vcmpNeF32 m a b k => .vcmpNeF32 m (f a) (f b) k
  | .vrcp d a k => .vrcp (f d) (f a) k
  | .vrsq d a k => .vrsq (f d) (f a) k
  | .vexp2 d a k => .vexp2 (f d) (f a) k
  | .vlog2 d a k => .vlog2 (f d) (f a) k
  | .vredAddF32 d a k => .vredAddF32 d (f a) k
  | .vredMinF32 d a k => .vredMinF32 d (f a) k
  | .vredMaxF32 d a k => .vredMaxF32 d (f a) k
  | .vscanAddF32 d a k => .vscanAddF32 (f d) (f a) k
  | .vscanMinF32 d a k => .vscanMinF32 (f d) (f a) k
  | .vscanMaxF32 d a k => .vscanMaxF32 (f d) (f a) k
  | .vtab d a k => .vtab (f d) (f a) k
  | .vcvt d a k => .vcvt (f d) (f a) k
  | .vadd d a b k e => .vadd (f d) (f a) (f b) k e
  | .vsub d a b k e => .vsub (f d) (f a) (f b) k e
  | .vmul d a b k e => .vmul (f d) (f a) (f b) k e
  | .vmin d a b k e => .vmin (f d) (f a) (f b) k e
  | .vmax d a b k e => .vmax (f d) (f a) (f b) k e
  | .vminU d a b k e => .vminU (f d) (f a) (f b) k e
  | .vmaxU d a b k e => .vmaxU (f d) (f a) (f b) k e
  | .vabs d a k e => .vabs (f d) (f a) k e
  | .vand d a b k => .vand (f d) (f a) (f b) k
  | .vor d a b k => .vor (f d) (f a) (f b) k
  | .vxor d a b k => .vxor (f d) (f a) (f b) k
  | .vshl d a b k e => .vshl (f d) (f a) (f b) k e
  | .vshr d a b k e => .vshr (f d) (f a) (f b) k e
  | .vsha d a b k e => .vsha (f d) (f a) (f b) k e
  | .vpopc d a k => .vpopc (f d) (f a) k
  | .vcmpEq m a b k e => .vcmpEq m (f a) (f b) k e
  | .vcmpNe m a b k e => .vcmpNe m (f a) (f b) k e
  | .vcmpLt m a b k e => .vcmpLt m (f a) (f b) k e
  | .vcmpLe m a b k e => .vcmpLe m (f a) (f b) k e
  | .vcmpLtU m a b k e => .vcmpLtU m (f a) (f b) k e
  | .vcmpLeU m a b k e => .vcmpLeU m (f a) (f b) k e
  | .vsel d a b k => .vsel (f d) (f a) (f b) k
  | .vperm d a b k => .vperm (f d) (f a) (f b) k
  | .vextr d a b => .vextr d (f a) b
  | .vbcast d a k => .vbcast (f d) a k
  | .vsort d a b k => .vsort (f d) (f a) b k
  | .vredAdd d a k => .vredAdd d (f a) k
  | .vredMin d a k => .vredMin d (f a) k
  | .vredMax d a k => .vredMax d (f a) k
  | .vscanAdd d a k => .vscanAdd (f d) (f a) k
  | .vredOr d a k => .vredOr d (f a) k
  | .vredAnd d a k => .vredAnd d (f a) k
  | .vld d a b k => .vld (f d) a b k
  | .vst v a b k => .vst (f v) a b k
  | .vldx d a b k e => .vldx (f d) a (f b) k e
  | .vstx v a b k e => .vstx (f v) a (f b) k e
  | i => i

/-- The value of an optional scalar field; 0 when the word has none. -/
def Ctx.so (x : Ctx) (r : Option (BitVec 5)) : Word := match r with
  | some r => x.s r
  | none => 0

end Sys2Proof.Machine
end

