-- ==== Sys2Proof/Machine/Flags.lean ====
section
/-! DEFINITION. Results that carry flags (05 R123 to R125). -/

namespace Sys2Proof.Machine

/-- The rounding mode of the context (05 Table 5-4). -/
def Ctx.mode (x : Ctx) : Nat := x.st.frm.toNat

/-- The low 32 bits of S(r), read as FP32 (05 R119). -/
def Ctx.f (x : Ctx) (r : BitVec 5) : Nat := (x.s r).toNat % 0x100000000

/-- The current context writes a zero-extended result to d, ORs its flags and moves past the word. -/
def State.wrF (s : State) (d : BitVec 5) (r : FRes) : State :=
  s.setCx (((s.cx.setS d (BitVec.ofNat 64 r.1)).orFlags r.2).advance 4)

end Sys2Proof.Machine
end

