-- ==== Sys2Proof/Machine/Alu.lean ====
section
/-! DEFINITION. Integer words: majors 1 to 11 (22, 23, 24). None raises a flag. -/

namespace Sys2Proof.Machine

/-- S(d) := f(S(a), S(b)). -/
def State.alu (s : State) (d a b : BitVec 5) (f : Word → Word → Word) : Host.Outcome State Fault Refusal :=
  .next (s.wr 4 d (f (s.cx.s a) (s.cx.s b)))

/-- S(d) := f(S(a)). -/
def State.alu1 (s : State) (d a : BitVec 5) (f : Word → Word) : Host.Outcome State Fault Refusal :=
  .next (s.wr 4 d (f (s.cx.s a)))

/-- 1 or 0. -/
def flagWord (p : Bool) : Word := if p then 1 else 0

def execAdd (d a b : BitVec 5) (s : State) : Host.Outcome State Fault Refusal := s.alu d a b (fun x y => x + y)
def execSub (d a b : BitVec 5) (s : State) : Host.Outcome State Fault Refusal := s.alu d a b (fun x y => x - y)
def execAnd (d a b : BitVec 5) (s : State) : Host.Outcome State Fault Refusal := s.alu d a b (fun x y => x &&& y)
def execOr (d a b : BitVec 5) (s : State) : Host.Outcome State Fault Refusal := s.alu d a b (fun x y => x ||| y)
def execXor (d a b : BitVec 5) (s : State) : Host.Outcome State Fault Refusal := s.alu d a b (fun x y => x ^^^ y)

/-- Shifts take the count S(b)[5:0] (24 R422). -/
def execShl (d a b : BitVec 5) (s : State) : Host.Outcome State Fault Refusal :=
  s.alu d a b (fun x y => x <<< (y.toNat % 64))
def execShr (d a b : BitVec 5) (s : State) : Host.Outcome State Fault Refusal :=
  s.alu d a b (fun x y => x >>> (y.toNat % 64))
def execSha (d a b : BitVec 5) (s : State) : Host.Outcome State Fault Refusal :=
  s.alu d a b (fun x y => x.sshiftRight (y.toNat % 64))

def execSlt (d a b : BitVec 5) (s : State) : Host.Outcome State Fault Refusal :=
  s.alu d a b (fun x y => flagWord (x.slt y))
def execSltu (d a b : BitVec 5) (s : State) : Host.Outcome State Fault Refusal :=
  s.alu d a b (fun x y => flagWord (x.ult y))
def execSeq (d a b : BitVec 5) (s : State) : Host.Outcome State Fault Refusal :=
  s.alu d a b (fun x y => flagWord (x = y))
def execMin (d a b : BitVec 5) (s : State) : Host.Outcome State Fault Refusal :=
  s.alu d a b (fun x y => if y.slt x then y else x)
def execMax (d a b : BitVec 5) (s : State) : Host.Outcome State Fault Refusal :=
  s.alu d a b (fun x y => if x.slt y then y else x)
def execMinu (d a b : BitVec 5) (s : State) : Host.Outcome State Fault Refusal :=
  s.alu d a b (fun x y => if y.ult x then y else x)
def execMaxu (d a b : BitVec 5) (s : State) : Host.Outcome State Fault Refusal :=
  s.alu d a b (fun x y => if x.ult y then y else x)
/-- 24 R416. -/
def execSel (d a b c : BitVec 5) (s : State) : Host.Outcome State Fault Refusal :=
  s.alu d a b (fun x y => if s.cx.s c = 0 then y else x)

def execAddi (d a : BitVec 5) (i : BitVec 15) (s : State) : Host.Outcome State Fault Refusal :=
  s.alu1 d a (fun x => x + simm i)
def execAndi (d a : BitVec 5) (i : BitVec 15) (s : State) : Host.Outcome State Fault Refusal :=
  s.alu1 d a (fun x => x &&& simm i)
def execOri (d a : BitVec 5) (i : BitVec 15) (s : State) : Host.Outcome State Fault Refusal :=
  s.alu1 d a (fun x => x ||| zimm i)
def execXori (d a : BitVec 5) (i : BitVec 15) (s : State) : Host.Outcome State Fault Refusal :=
  s.alu1 d a (fun x => x ^^^ zimm i)
def execSlti (d a : BitVec 5) (i : BitVec 15) (s : State) : Host.Outcome State Fault Refusal :=
  s.alu1 d a (fun x => flagWord (x.slt (simm i)))
def execShli (d a : BitVec 5) (h : BitVec 6) (s : State) : Host.Outcome State Fault Refusal :=
  s.alu1 d a (fun x => x <<< h.toNat)
def execShri (d a : BitVec 5) (h : BitVec 6) (s : State) : Host.Outcome State Fault Refusal :=
  s.alu1 d a (fun x => x >>> h.toNat)
def execShai (d a : BitVec 5) (h : BitVec 6) (s : State) : Host.Outcome State Fault Refusal :=
  s.alu1 d a (fun x => x.sshiftRight h.toNat)
/-- 23 R394. -/
def execLui (d : BitVec 5) (i : BitVec 20) (s : State) : Host.Outcome State Fault Refusal :=
  .next (s.wr 4 d (simm i <<< 15))
/-- 22 R351. -/
def execAddpc (d : BitVec 5) (i : BitVec 20) (s : State) : Host.Outcome State Fault Refusal :=
  .next (s.wr 4 d (s.cx.pc + soff i))

/-! ### Multiply and divide (23 R398, 22 R372, 23 R412, 05 Table 5-2) -/

/-- An operation on n-bit operands, given as unsigned numbers; the n-bit result is sign-extended when W = 1. -/
def onWidth (w : BitVec 1) (f : Nat → Nat → Nat → Int) (x y : Word) : Word :=
  if w = 1 then wordOf (signedOf 32 ((f 32 (x.toNat % 2 ^ 32) (y.toNat % 2 ^ 32)) % 2 ^ 32).toNat)
  else wordOf (f 64 x.toNat y.toNat)

def divS (n x y : Nat) : Int := if y = 0 then -1 else (signedOf n x).tdiv (signedOf n y)
def divU (n x y : Nat) : Int := if y = 0 then 2 ^ n - 1 else ((x / y : Nat) : Int)
def remS (n x y : Nat) : Int := if y = 0 then x else (signedOf n x).tmod (signedOf n y)
def remU (_ x y : Nat) : Int := if y = 0 then x else ((x % y : Nat) : Int)

def execMul (d a b : BitVec 5) (w : BitVec 1) (s : State) : Host.Outcome State Fault Refusal :=
  s.alu d a b (onWidth w (fun _ x y => ((x * y : Nat) : Int)))
def execMulh (d a b : BitVec 5) (w : BitVec 1) (s : State) : Host.Outcome State Fault Refusal :=
  s.alu d a b (onWidth w (fun n x y => (signedOf n x * signedOf n y) / 2 ^ n))
def execMulhu (d a b : BitVec 5) (w : BitVec 1) (s : State) : Host.Outcome State Fault Refusal :=
  s.alu d a b (onWidth w (fun n x y => ((x * y / 2 ^ n : Nat) : Int)))
def execDiv (d a b : BitVec 5) (w : BitVec 1) (s : State) : Host.Outcome State Fault Refusal :=
  s.alu d a b (onWidth w divS)
def execDivu (d a b : BitVec 5) (w : BitVec 1) (s : State) : Host.Outcome State Fault Refusal :=
  s.alu d a b (onWidth w divU)
def execRem (d a b : BitVec 5) (w : BitVec 1) (s : State) : Host.Outcome State Fault Refusal :=
  s.alu d a b (onWidth w remS)
def execRemu (d a b : BitVec 5) (w : BitVec 1) (s : State) : Host.Outcome State Fault Refusal :=
  s.alu d a b (onWidth w remU)

/-! ### Bit operations (22 R356, R358, 23 R402) -/

/-- Zero bits above the highest one bit among the low n. -/
def leadingZeros (x : Word) : Nat → Nat
  | 0 => 0
  | n + 1 => if x.getLsbD n then 0 else 1 + leadingZeros x n

/-- Zero bits below the lowest one bit, from bit i upward, among n. -/
def trailingZeros (x : Word) : Nat → Nat → Nat
  | 0, _ => 0
  | n + 1, i => if x.getLsbD i then 0 else 1 + trailingZeros x n (i + 1)

/-- The bits of x in reverse order. -/
def revBits (x : Word) : Word := x.reverse

/-- BFX: the field of b's specifier in a. -/
def fieldOf (a b : Word) : Word :=
  let len := bits b 13 8 + 1
  let f := a.toNat / 2 ^ bits b 5 0 % 2 ^ len
  if bit b 14 then sextN len f else BitVec.ofNat 64 f

/-- BFI: old with the field of b's specifier taken from a. -/
def insertField (old a b : Word) : Word :=
  let mask : Word := (BitVec.ofNat 64 (2 ^ (bits b 13 8 + 1) - 1)) <<< bits b 5 0
  (old &&& ~~~mask) ||| ((a <<< bits b 5 0) &&& mask)

def execClz (d a : BitVec 5) (s : State) : Host.Outcome State Fault Refusal :=
  s.alu1 d a (fun x => BitVec.ofNat 64 (leadingZeros x 64))
def execCtz (d a : BitVec 5) (s : State) : Host.Outcome State Fault Refusal :=
  s.alu1 d a (fun x => BitVec.ofNat 64 (trailingZeros x 64 0))
def execPopc (d a : BitVec 5) (s : State) : Host.Outcome State Fault Refusal :=
  s.alu1 d a (fun x => BitVec.ofNat 64 (popc 64 x.toNat))
def execBrev (d a : BitVec 5) (s : State) : Host.Outcome State Fault Refusal := s.alu1 d a revBits
def execBswap (d a : BitVec 5) (s : State) : Host.Outcome State Fault Refusal :=
  s.alu1 d a (fun x => BitVec.ofNat 64 (leNat (leBytes 8 x.toNat).reverse))
def execBfx (d a b : BitVec 5) (s : State) : Host.Outcome State Fault Refusal := s.alu d a b fieldOf
def execBfi (d a b : BitVec 5) (s : State) : Host.Outcome State Fault Refusal :=
  s.alu d a b (fun x y => insertField (s.cx.s d) x y)

end Sys2Proof.Machine
end

