-- ==== Sys2Proof/Machine/MemOps.lean ====
section
/-! DEFINITION. Scalar memory words: majors 14 to 17 but WAYS (23 R388, R403, 24 R429, 22 R361). -/

namespace Sys2Proof.Machine

/-- A load of n bytes at va whose value goes to d through ext. -/
def State.loadTo (s : State) (len n : Nat) (va : Word) (d : BitVec 5) (ext : Nat → Word) : Except Stop State := do
  let (v, t) ← s.load n va
  .ok (t.wr len d (ext v))

/-- A store of n bytes of v at va. -/
def State.storeFrom (s : State) (len n : Nat) (va v : Word) : Except Stop State := do
  let t ← s.store n va v
  .ok (t.skip len)

def execLd (d a : BitVec 5) (o : BitVec 12) (z : BitVec 3) (s : State) : Host.Outcome State Fault Refusal :=
  s.out (do
    need (z ≠ 7) (cz 0x02)
    s.loadTo 4 (sizeOf z) (addrM s.cx a o) d (loadExt z))
def execLdx (d a b : BitVec 5) (z h : BitVec 3) (s : State) : Host.Outcome State Fault Refusal :=
  s.out (do
    need (z ≠ 7 && h.toNat < 4) (cz 0x02)
    s.loadTo 4 (sizeOf z) (addrX s.cx a b h) d (loadExt z))
def execSt (v a : BitVec 5) (o : BitVec 12) (z : BitVec 3) (s : State) : Host.Outcome State Fault Refusal :=
  s.out (do
    need (z.toNat < 4) (cz 0x02)
    s.storeFrom 4 (sizeOf z) (addrM s.cx a o) (s.cx.s v))
def execStx (v a b : BitVec 5) (z h : BitVec 3) (s : State) : Host.Outcome State Fault Refusal :=
  s.out (do
    need (z.toNat < 4 && h.toNat < 4) (cz 0x02)
    s.storeFrom 4 (sizeOf z) (addrX s.cx a b h) (s.cx.s v))

/-! ### Fills (03 R76, R78) -/

/-- A request for a line joins the list of its fill, a way being allocated for the first; with the list full, or no way
to be had, it gets a retry and is sent again after 64 clocks. -/
def State.askFill (s : State) (line : Nat) (r : MissReq) : State :=
  let pa := line * 128
  let u := s.clu (homeClu pa)
  let l := SMap.get u.miss [] line
  let again := s.setClu (homeClu pa) { u with retry := u.retry ++ [(line, { r with again := s.clock + 64 })] }
  match SMap.find u.near line with
  | some n =>
    if l.length < n.places then s.setClu (homeClu pa) { u with miss := SMap.set u.miss line (l ++ [r]) } else again
  | none =>
    if s.nearRoom pa 128 then
      let s := s.nearAlloc pa { tag := 0, sb := 0, keyid := r.keyid, valid := 0, dirty := 0 }
      let u := s.clu (homeClu pa)
      s.setClu (homeClu pa) { u with miss := SMap.set u.miss line (l ++ [r]) }
    else again

/-- The request of a PREF: a read of the whole line. -/
def State.askLine (s : State) (core pa keyid : Nat) : State :=
  (s.bump 1).askFill (pa / 128) { coord := core, tag := Config.freeNat s.free, mask := 15, kind := 0, keyid := keyid, again := 0 }

/-- The home slice holds every sector of a line under the KEYID. -/
def State.nearHolds (s : State) (pa keyid : Nat) : Bool :=
  !isGddr pa || (SMap.find (s.clu (homeClu pa)).near (pa / 128)).any (fun l => l.valid = 15 && l.keyid = keyid)

/-- PREF (23 R403): never traps; a line the home slice holds comes into the L1 ways, any other waits for its fill. -/
def execPref (a : BitVec 5) (s : State) : Host.Outcome State Fault Refusal :=
  let va := s.cx.s a
  if spaceOf va = .translated && !s.cx.st.chk && !s.cx.isWork then
    match s.transPlace s.curCore s.curPart (s.cx.st.priv = 0) { size := 1, r := true, w := false, noCtr := true, impure := false } va with
    | .ok (.phys pa key false false false) =>
      if s.nearHolds pa key then .next ((s.cacheTouch s.curCore key (pa / 128 * 128) 128 false false false).skip 4)
      else .next ((s.askLine s.curCore pa key).skip 4)
    | _ => .next (s.skip 4)
  else .next (s.skip 4)

/-! ### CFLUSH and CINV (22 R361, R362) -/

/-- Every L1 way of the module writes back its dirty sectors of a line, and a GDDR line's slice its own; both are clean. -/
def State.cleanLine (s : State) (line : Nat) : State :=
  let s := s.cores.foldl (fun t kc => (kc.2.l1.filter (fun l => l.line = line)).foldl (fun t l => t.nearBack l) t) s
  let s : State := { s with cores := s.cores.map (fun kc => (kc.1, { kc.2 with l1 := kc.2.l1.map (fun l => if l.line = line then { l with dirty := 0 } else l) })) }
  let h := homeClu (line * 128)
  let u := s.clu h
  match SMap.find u.near line with
  | some n => s.setClu h { u with near := SMap.set u.near line { n with dirty := 0 } }
  | none => s

/-- Every L1 way of the module invalidates a line; the watches on it fire. -/
def State.killLine (s : State) (line : Nat) : State :=
  (s.cores.filter (fun kc => kc.2.l1.any (fun l => l.line = line))).foldl (fun t kc => t.evict kc.1 line) s

/-- A word with a failing code stands in a dirty sector of a line, in an L1 way or in a GDDR line's slice (22 R362). -/
def State.dirtyFailing (s : State) (line : Nat) : Bool :=
  let slice := if isGddr (line * 128) then (SMap.find (s.clu (homeClu (line * 128))).near line).elim 0 (fun l => l.dirty) else 0
  let dirty := s.cores.foldl (fun d c => (c.2.l1.filter (fun l => l.line = line)).foldl (fun d l => d ||| l.dirty) d) slice
  (List.range 16).any (fun i => dirty &&& secBit i ≠ 0 && s.memFailing (line * 128 + 8 * i) 8)

/-- The common part: the address checks, then `f` on the physical address, once the context's earlier accesses to the line are
performed. A dirty word with a failing code leaves the line as it stands. -/
def State.lineOp (s : State) (a : BitVec 5) (f : State → Nat → Nat → State) : Host.Outcome State Fault Refusal :=
  s.out (do
    let va := s.cx.s a
    need (canonical va) (czAt 0x2D va)
    need (spaceOf va = .translated) (czAt 0x02 va)
    need (!s.cx.isWork) (czAt 0x2C va)
    if s.cx.st.chk then .ok (s.skip 4)
    else do
      let p ← s.transPlace s.curCore s.curPart (s.cx.st.priv = 0) (Req.load 1) va
      match p with
      | .phys pa key _ _ hb =>
        if hb then .ok (s.skip 4)
        else do
          s.ordered s.cur (BitVec.ofNat 64 (va.toNat / 128 * 128)) 128
          s.relFree s.cur (.phys (pa / 128 * 128) key false false false) 128
          s.ackRoom s.cur p
          let s := s.setCx (s.cx.addAck false)
          if s.dirtyFailing (pa / 128) then .ok ((s.postAsync s.cur s.cx.taskNum 1 (czAt 0x27 va)).skip 4)
          else
            let s := if (SMap.get (s.clu (homeClu pa)).miss [] (pa / 128)).isEmpty then s else s.mergeFill pa
            .ok ((f s pa key).skip 4)
      | _ => .ok (s.skip 4))

def execCflush (a : BitVec 5) (s : State) : Host.Outcome State Fault Refusal :=
  s.lineOp a (fun s pa _ => s.cleanLine (pa / 128))
def execCinv (a : BitVec 5) (s : State) : Host.Outcome State Fault Refusal :=
  s.lineOp a (fun s pa _ =>
    let s := (s.cleanLine (pa / 128)).killLine (pa / 128)
    let u := s.clu (homeClu pa)
    if isGddr pa then s.setClu (homeClu pa) { u with near := SMap.drop u.near (pa / 128) } else s)

end Sys2Proof.Machine
end

