-- ==== Sys2Proof/Machine/Loops.lean ====
section
/-! DEFINITION. The stops of a die, its 28 loops and their slots, and how a packet is made and sent (01 R13, 06 R140 to
R144, R153, R154, R160, R161). -/

namespace Sys2Proof.Machine

/-! ### Stops (01 Table 1-4) -/

/-- The stops of a die's attachments, by cluster within the die (row * 8 + column): its gateways, its fabric ports, its GDDR
controllers, the carousel engine and the encoder. -/
def gatewayStop (dir : Nat) : Nat := if dir = 0 then 0 else 63
def portStop (port : Nat) : Nat := if port = 0 then 7 else 56
def gddrStop (ctl : Nat) : Nat := [3, 31, 60, 32].getD ctl 3
def engineStop : Nat := 27
def encoderStop : Nat := 36

/-- A stop as the coordinate of its cluster. -/
def stopCoord (die stop : Nat) : Nat := die * 32768 + stop * 512
/-- The stop of a core. -/
def coreStop (core : Nat) : Nat := core / 512 % 64

/-! ### Loops (06 R140, R141) -/

/-- The index of the loop of rows a < b (06 R140). -/
def loopIndex (a b : Nat) : Nat := a * (15 - a) / 2 + (b - a - 1)

/-- The rows of a loop. -/
def loopRows (l : Nat) : Option (Nat × Nat) :=
  ((List.range 8).flatMap (fun a => (List.range 8).map (fun b => (a, b)))).find? (fun p => decide (p.1 < p.2) && loopIndex p.1 p.2 = l)

/-- The position of a stop on a loop, when its row lies on it. -/
def posOf (stop l : Nat) : Option Nat :=
  match loopRows l with
  | none => none
  | some (a, b) => if stop / 8 = a then some (stop % 8) else if stop / 8 = b then some (15 - stop % 8) else none

/-- The stop position of a core on a loop. -/
def stopPos (core l : Nat) : Option Nat := posOf (coreStop core) l

/-- The loop that a packet for coordinate core takes from one stop to another; none within a stop (06 R141). -/
def loopFor (src dst core : Nat) : Option Nat :=
  if src = dst then none
  else
    let r := src / 8
    let j := core / 4 % 1024 % 7
    let x := if dst / 8 ≠ r then dst / 8 else if j < r then j else j + 1
    some (loopIndex (min r x) (max r x))

/-! ### Slots (06 R142, R143) -/

/-- A cell of a live deterministic partition lies on the die. -/
def State.split (s : State) (die : Nat) : Bool := s.parts.any (fun p => p.2.live && p.2.det && p.2.cells.any (fun c => c / 8192 = die))

/-- The slot that stands at a position at loop clock t. -/
def slotAt (pos t : Nat) : Nat := (pos + 15 * t) % 16

/-- A slot admits a class of arbitrated packets (06 Table 6-1). -/
def slotAdmits (split : Bool) (k cls : Nat) : Bool :=
  if k % 4 = 3 then cls = 1 else if k % 2 = 0 then !split else true

/-- Hops from a packet's source stop to its destination stop. -/
def LoopPkt.hops (x : LoopPkt) : Nat :=
  match x.loop.bind (posOf x.src), x.loop.bind (posOf x.dst) with
  | some p, some q => (q + 16 - p) % 16
  | _, _ => 0

/-- The loop clock at which a flit leaves its slot: its first pass of the destination once its head is taken. -/
def LoopPkt.leaveAt (x : LoopPkt) (entered : Nat) : Option Nat :=
  x.taken.map (fun t => entered + x.hops + (t - (entered + x.hops) + 15) / 16 * 16)

/-- A flit of the packet is in slot k at loop clock t. -/
def LoopPkt.holds (x : LoopPkt) (k t : Nat) : Bool :=
  x.flits.any (fun f => f.1 = k && decide (f.2 ≤ t) && (x.leaveAt f.2).all (fun l => decide (t < l)))

/-- Flits are still to enter. -/
def LoopPkt.more (x : LoopPkt) : Bool := decide (x.flits.length ≤ x.pkt.len)

/-- What sends at a stop: a core or slice by its coordinate, a gateway or a port behind them; with the class. -/
def LoopPkt.source (x : LoopPkt) (die : Nat) : Nat :=
  (if dieOf x.pkt.from' = die && x.pkt.hops = 0 then x.pkt.from' else 2 ^ 18 + x.pkt.dir) * 4 + x.pkt.cls % 4

/-- The packet whose flit enters a loop at a stop at clock t: of the sources that are ready for an empty slot that admits
their class, the next one in turn; a packet that has begun to enter goes first (notes/assumptions/94.md). DESIGN CHOICE. -/
def Die.enters (d : Die) (die : Nat) (split : Bool) (stop loop t : Nat) : Option Nat :=
  match posOf stop loop with
  | none => none
  | some pos =>
    let k := slotAt pos t
    if d.loopPkts.any (fun x => x.loop = some loop && x.holds k t) then none
    else
      let here := (d.loopPkts.mapIdx (fun i x => (i, x))).filter (fun e => e.2.src = stop && e.2.loop = some loop && e.2.more)
      let heads := here.filter (fun e => slotAdmits split k e.2.pkt.cls && !here.any (fun o => decide (o.1 < e.1) && o.2.source die = e.2.source die))
      let begun := heads.filter (fun e => !e.2.flits.isEmpty)
      let last := SMap.get d.loopTurn 0 (stop * 32 + loop)
      let far := fun (e : Nat × LoopPkt) => (e.2.source die + 2 ^ 22 - last - 1) % 2 ^ 22
      ((if begun.isEmpty then heads else begun).foldl (fun (b : Option (Nat × LoopPkt)) e =>
        match b with
        | none => some e
        | some o => if far e < far o then some e else b) none).map Prod.fst

/-! ### Packets (06 R153, R154) -/

/-- The direction of a packet between two dies (06 R153). -/
def ringDir (src dst : Nat) : Nat :=
  let d := (dst + 8 - src) % 8
  if d < 4 then 0 else if 4 < d then 1 else src % 2

/-- What the OP of a packet is chosen by. -/
def Payload.kind : Payload → Nat
  | .copyWrite .. => 0
  | .ack .. => 1
  | .launch .. => 2
  | .beats _ => 3
  | .bytes _ => 4
  | .post .. => 5

/-- A packet from one coordinate of the module to another. -/
def State.packet (s : State) (from' core len cls : Nat) (pl : Payload) : Packet :=
  { dst := dieOf core, src := dieOf from', vc := 0, dir := ringDir (dieOf from') (dieOf core), len := len, cls := cls, stamp := none,
    core := core, from' := from', tag := Config.packetTag s.free % 16384, op := Config.packetOp pl.kind % 256, pa := 0, payload := pl,
    dstMod := s.modNum, srcMod := s.modNum, fvc := 0, hops := 0, seq := 0 }

/-- The egress port of another module. -/
def State.egress (s : State) (mod : Nat) : Option (Nat × Nat) := (SMap.find s.routes mod).map (fun r => (r.1, r.2.1))

/-- The stop of a die to which a packet goes: a gateway for another die, a fabric port for another module, else its core's. -/
def State.stopFor (s : State) (die : Nat) (p : Packet) : Nat :=
  if p.dst ≠ die then gatewayStop p.dir
  else if p.dstMod ≠ s.modNum then portStop ((s.egress p.dstMod).elim 0 Prod.snd)
  else coreStop p.core

/-- A packet waits at a stop of a die for its loop. -/
def State.sendFrom (s : State) (die stop : Nat) (p : Packet) : State :=
  let d := s.die die
  let dst := s.stopFor die p
  let x : LoopPkt := { pkt := p, src := stop, dst := dst, loop := loopFor stop dst p.core, flits := [], taken := none, seen := 2 * s.clock, refused := 0 }
  s.setDie die { d with loopPkts := d.loopPkts ++ [x] }

/-- Packets on their way inside the module: on a loop and not taken, or at a gateway. -/
def State.moving (s : State) : List Packet :=
  s.dies.flatMap (fun d => (d.2.loopPkts.filter (fun x => x.taken.isNone)).map (fun x => x.pkt) ++
    d.2.gw.toList.flatMap (fun g => g.q.map (fun e => e.pkt)))

/-- A packet leaves its sender. -/
def State.sendPacket (s : State) (p : Packet) : State := (s.sendFrom p.src (coreStop p.from') p).bump 1

/-- A packet for another module, from a stop of a die: to the die of its egress port, on its route's fabric VC, with its place
in the order of sending (06 R160, R161). None without a route. -/
def State.sendOut (s : State) (die stop : Nat) (p : Packet) : Option State :=
  (SMap.find s.routes p.dstMod).map (fun r =>
    let p := { p with dst := r.1, src := die, dir := ringDir die r.1, vc := 0, fvc := r.2.2, seq := s.fabSeq }
    ({ s with fabSeq := s.fabSeq + 1 } : State).sendFrom die stop p)

/-- The two ends of a fabric link. -/
def Die.port (d : Die) (p : Nat) : Port := (d.ports[p]?).getD Port.reset
def State.setPort (s : State) (die p : Nat) (x : Port) : State := s.setDie die { s.die die with ports := (s.die die).ports.set! p x }

end Sys2Proof.Machine
end

