-- ==== Sys2Proof/Machine/FpOps.lean ====
section
/-! DEFINITION. Scalar FP32 words: majors 12 and 13 (23 R376 to R382). -/

namespace Sys2Proof.Machine

/-- S(d) := f(FRM, S(a)[31:0], S(b)[31:0]) with its flags. -/
def State.fpu (s : State) (d a b : BitVec 5) (f : Nat → Nat → Nat → FRes) : Host.Outcome State Fault Refusal :=
  .next (s.wrF d (f s.cx.mode (s.cx.f a) (s.cx.f b)))

def execFadd (d a b : BitVec 5) (s : State) : Host.Outcome State Fault Refusal := s.fpu d a b fAdd
def execFsub (d a b : BitVec 5) (s : State) : Host.Outcome State Fault Refusal := s.fpu d a b fSub
def execFmul (d a b : BitVec 5) (s : State) : Host.Outcome State Fault Refusal := s.fpu d a b fMul
def execFdiv (d a b : BitVec 5) (s : State) : Host.Outcome State Fault Refusal := s.fpu d a b fDiv
def execFsqrt (d a : BitVec 5) (s : State) : Host.Outcome State Fault Refusal := s.fpu d a a (fun m x _ => fSqrt m x)
def execFmin (d a b : BitVec 5) (s : State) : Host.Outcome State Fault Refusal :=
  s.fpu d a b (fun _ x y => fMinMax false x y)
def execFmax (d a b : BitVec 5) (s : State) : Host.Outcome State Fault Refusal :=
  s.fpu d a b (fun _ x y => fMinMax true x y)
def execFcmp (d a b : BitVec 5) (r : BitVec 2) (s : State) : Host.Outcome State Fault Refusal :=
  s.fpu d a b (fun _ x y => (if (fCmp r.toNat x y).1 then 1 else 0, (fCmp r.toNat x y).2))
def execFclass (d a : BitVec 5) (s : State) : Host.Outcome State Fault Refusal :=
  s.fpu d a a (fun _ x _ => (fClass x, 0))
def execFfma (d a b c : BitVec 5) (s : State) : Host.Outcome State Fault Refusal :=
  s.fpu d a b (fun m x y => fFma m x y (s.cx.f c))

/-- A conversion between format codes (15 Table 15-14, 23 R380): destination x, source y. -/
def fcvtWord (mode x y : Nat) (sat rtz : Bool) (v : Word) : Word × BitVec 5 :=
  match fmtOf y, fmtOf x with
  | some f, some g =>
    let r := cvtFF f g mode sat (v.toNat % 2 ^ f.width)
    (BitVec.ofNat 64 r.1, r.2)
  | some f, none =>
    let r := cvtFI f (intWidth x) (if rtz then 1 else mode) (v.toNat % 2 ^ f.width)
    (wordOf r.1, r.2)
  | none, some g =>
    let r := cvtIF g mode sat (signedOf (intWidth y) v.toNat)
    (BitVec.ofNat 64 r.1, r.2)
  | none, none => (v, 0)

def execFcvt (d a : BitVec 5) (sat : BitVec 1) (x : BitVec 4) (y : BitVec 5) (rtz : BitVec 1) (s : State) :
    Host.Outcome State Fault Refusal :=
  s.out (do
    need (fcvtCodes sat x y rtz) (cz 0x02)
    let r := fcvtWord s.cx.mode x.toNat y.toNat (sat = 1) (rtz = 1) (s.cx.s a)
    .ok (s.setCx (((s.cx.setS d r.1).orFlags r.2).advance 4)))

end Sys2Proof.Machine
end

