-- ==== Sys2Proof/Machine/Atomic.lean ====
section
/-! DEFINITION. Atomics and reductions: majors 28 to 30 (22 R346, R347, 23 R410, R411, 04 R95 to R97). -/

namespace Sys2Proof.Machine

/-! ### Fences (04 Table 4-4) -/

/-- A vector word that touches memory. -/
def VWord.isMem (w : VWord) : Bool :=
  match w.instr with
  | .vld .. | .vst .. | .vldx .. | .vstx .. | .pxout .. | .attr .. | .raytri .. | .raybox .. | .vtab .. | .vksend .. => true
  | _ => false

/-- The condition FENCE waits for at a scope, for context k. -/
def State.fenceMet (s : State) (k scope : Nat) : Bool :=
  let x := s.ctx k
  !((s.core (k / 4)).vq.any (fun w => w.key = k && w.isMem)) &&
    (decide (scope < 1) || (x.relq.all (fun r => (r.place.counted (k / 4)).isSome) && !(s.core (k / 4)).xsels.any (fun h => h.ctx = k % 4))) &&
    (decide (scope < 2) || (decide (x.modCnt = 0) && x.relq.isEmpty)) && (decide (scope < 6) || decide (x.sysCnt = 0))

/-! ### Values -/

/-- Signed and unsigned choices between two n-byte values. -/
def minS (n x y : Nat) : Nat := if signedOf (8 * n) y < signedOf (8 * n) x then y else x
def maxS (n x y : Nat) : Nat := if signedOf (8 * n) x < signedOf (8 * n) y then y else x

/-- The value an AMO writes (15 Table 15-16). -/
def amoValue (op n old v : Nat) : Nat :=
  match op with
  | 0 => v
  | 1 => (old + v) % 256 ^ n
  | 2 => Nat.land old v
  | 3 => Nat.lor old v
  | 4 => Nat.xor old v
  | 5 => minS n old v
  | 6 => maxS n old v
  | 7 => min old v
  | _ => max old v

/-- The value a RED writes. -/
def redValue (op n old v : Nat) : Nat :=
  match op with
  | 0 => (old + v) % 256 ^ n
  | 1 => minS n old v
  | 2 => maxS n old v
  | 3 => min old v
  | 4 => max old v
  | 5 => Nat.land old v
  | 6 => Nat.lor old v
  | 7 => Nat.xor old v
  | 8 => (fAdd 0 old v).1
  | 9 => (fMinMax false old v).1
  | _ => (fMinMax true old v).1

/-- Bytes of an access whose W bit is given. -/
def atomSize (wide : Bool) : Nat := if wide then 8 else 4

/-- What an AMO or ACAS writes over an old value; an ACAS that fails writes nothing. -/
def RelAtomic.newValue (r : RelAtomic) (old : Nat) : Option Nat :=
  if r.cas then (if old = r.e then some r.v else none) else some (amoValue r.op (atomSize r.wide) old r.v)

/-- The register value of an old value. -/
def RelAtomic.result (r : RelAtomic) (old : Nat) : Word := if r.wide then BitVec.ofNat 64 old else sextN 32 old

/-- The indivisible access of an AMO or ACAS, and S(d) := old. -/
def State.atomicNow (s : State) (k : Nat) (r : RelAtomic) (va : Word) : Except Stop State := do
  let (old, t) ← s.rmw k r.place (atomSize r.wide) va r.newValue
  .ok (t.setCtx k ((t.ctx k).setS r.d (r.result old)))

/-- The access of a release atomic that leaves the network interface (04 R96), at the place its address then names: a page
may have changed its bias while it waited (04 R108). A fault comes back asynchronously and leaves memory unchanged, but "partition mismatch" freezes the context (22 R347); none while
the access must wait. -/
def State.atomicLate (s : State) (k : Nat) (r : RelAtomic) : Option State :=
  let done := fun (t : State) => t.setCtx k { (t.ctx k) with pendR := (t.ctx k).pendR.erase r.d }
  let go : Except Stop State := do
    s.waysFree k r.va
    let p ← s.placeOf k false r.user (Req.atomic (atomSize r.wide) false) r.va
    s.atomicNow k { r with place := p } r.va
  match go with
  | .ok t => some (done t)
  | .error (.trap c) => some (done (if c.code = 0x25 then s.arrest k c else s.postAsync k (s.ctx k).taskNum 1 c))
  | .error _ => none

/-- Held atomics of a context under its module count, or under its sys count. -/
def Ctx.heldUnder (x : Ctx) (core : Nat) (sys : Bool) : Nat := (x.relq.filter (fun r => r.place.counted core = some sys)).length

/-- An operation leaves the count it was under. -/
def Ctx.subAck (x : Ctx) (sys : Bool) : Ctx := if sys then { x with sysCnt := x.sysCnt - 1 } else { x with modCnt := x.modCnt - 1 }

/-- Causes the checks at issue raise precisely for a release atomic (22 R347). -/
def atIssue (c : CauseRec) : Bool :=
  c.code = 0x20 || c.code = 0x2D || c.code = 0x2C || c.code = 0x50 || c.code = 0x29 || c.code = 0x25

/-- AMO and ACAS. "Heat impure" follows 11 R237. A .rel or .ar form comes after the context's earlier vector memory words, and
waits in the interface, under the count of its home, while the module count is not zero (04 R96). -/
def State.atomic (s : State) (va : Word) (r : RelAtomic) (ord : BitVec 2) : Except Stop State := do
  let q := Req.atomic (atomSize r.wide) (ord = 0 && r.d ≠ 0)
  let late := ord.getLsbD 1 && !s.cx.st.chk
  match (if late then s.reachAny s.cur q va else s.reach s.cur q va) with
  | .error (.trap c) =>
    if late && !atIssue c then .ok ((s.postAsync s.cur s.cx.taskNum 1 c).skip 4) else .error (.trap c)
  | .error e => .error e
  | .ok p => do
    s.ordered s.cur va q.size
    s.ackRoom s.cur p
    let x := s.cx
    let r := { r with place := p, va := va, user := x.st.priv = 0, ord := ord }
    if late then do
      await (s.fenceMet s.cur 0) (.fence 0)
      let y := { x with relq := x.relq ++ [r], pendR := if r.d = 0 then x.pendR else r.d :: x.pendR }
      let wait := (s.setCx ((p.counted s.curCore).elim y y.addAck)).skip 4
      if x.modCnt = 0 && x.relq.isEmpty then .ok ((s.atomicLate s.cur r).elim wait (fun t => t.skip 4)) else .ok wait
    else do
      let t ← s.atomicNow s.cur r va
      .ok (t.skip 4)

/-- The operands of an atomic word read at issue. -/
def atomOperands (x : Ctx) (d b : BitVec 5) (w : BitVec 1) (cas : Bool) (op : Nat) : RelAtomic :=
  { place := .shadow 0, va := 0, user := false, ord := 0, wide := w = 0, op := op, cas := cas, v := (x.s b).toNat % 256 ^ atomSize (w = 0),
    e := (x.s d).toNat % 256 ^ atomSize (w = 0), d := d }

def execAmo (d a b : BitVec 5) (w : BitVec 1) (r : BitVec 2) (p : BitVec 4) (f : BitVec 3) (s : State) :
    Host.Outcome State Fault Refusal :=
  s.out (do
    need (p.toNat ≤ 8) (cz 0x02)
    s.atomic (addrA s.cx a f) (atomOperands s.cx d b w false p.toNat) r)

def execAcas (d a b : BitVec 5) (w : BitVec 1) (r : BitVec 2) (f : BitVec 3) (s : State) :
    Host.Outcome State Fault Refusal :=
  s.out (s.atomic (addrA s.cx a f) (atomOperands s.cx d b w true 0) r)

def execRed (a b : BitVec 5) (w : BitVec 1) (p : BitVec 4) (f : BitVec 3) (s : State) :
    Host.Outcome State Fault Refusal :=
  s.out (do
    need (p.toNat ≤ 7 || (p.toNat ≤ 10 && w = 1)) (cz 0x02)
    if s.cx.st.chk then .ok (s.skip 4)
    else do
      let n := atomSize (w = 0)
      let va := addrA s.cx a f
      let v := (s.cx.s b).toNat % 256 ^ n
      match s.reach s.cur (Req.atomic n false) va with
      | .error (.block (.rank r)) => (s.holdRank va r (.red n p.toNat v) n).map (fun t => t.skip 4)
      | .error e => .error e
      | .ok p' => do
        s.ordered s.cur va n
        s.ackRoom s.cur p'
        match s.rmw s.cur p'.atHome n va (fun old => some (redValue p.toNat n old v)) with
        | .ok (_, t) => .ok ((t.addAck s.cur p').skip 4)
        | .error (.trap c) => .ok ((s.postAsync s.cur s.cx.taskNum 1 c).skip 4)
        | .error e => .error e)

/-- A held atomic leaves the interface, oldest first, once the module count is zero but for it and those that wait behind it
(04 R96). -/
def execRelAtomicDepart (key : Nat) (s : State) : Host.Outcome State Fault Refusal :=
  let x := s.ctx key
  match x.relq with
  | [] => .next s
  | r :: t =>
    if x.modCnt ≠ x.heldUnder (key / 4) false then .next s
    else
      let y := { x with relq := t }
      .next (((s.setCtx key ((r.place.counted (key / 4)).elim y y.subAck)).atomicLate key r).getD s)

/-- Operations under a context's module count that no home can have acknowledged: key updates that no bin has taken yet
(10 R224), at their core, held for it, or with firmware; messages that an interface holds for a rank in transit (03 R69); and
held atomics (04 R96). -/
def State.keysOut (s : State) (k : Nat) : Nat :=
  let mine := fun (u : KeyUpdate) => u.sender = k && u.edge.isNone
  let kept := fun (m : HeldMsg) => match m with
    | .key _ u => mine u
    | _ => false
  let own := fun (m : RankMsg) => m.ctx = k && (match m.act with
    | .key u => u.edge.isNone
    | _ => true)
  (s.ctx k).heldUnder (k / 4) false + (s.cores.map (fun c => (c.2.kin.filter mine).length + (c.2.held.filter own).length)).foldl (fun a n => a + n) 0 +
    (s.parts.map (fun p => (p.2.transit.filter (fun h => kept h.2)).length)).foldl (fun a n => a + n) 0 +
    (s.cells.map (fun c => (c.2.holding.map (fun h => (h.2.filter kept).length)).foldl (fun a n => a + n) 0)).foldl (fun a n => a + n) 0

/-- A home acknowledges an operation: the module count falls, or the sys count when sys is 1 (04 R91). -/
def execStoreAcknowledge (key sys : Nat) (s : State) : Host.Outcome State Fault Refusal :=
  let x := s.ctx key
  if (if sys = 1 then decide (x.sysCnt ≤ x.heldUnder (key / 4) true) else decide (x.modCnt ≤ s.keysOut key)) then .next s
  else .next (s.setCtx key (x.subAck (decide (sys = 1))))

end Sys2Proof.Machine
end

