-- ==== Sys2Proof/Machine/Sync.lean ====
section
/-! DEFINITION. Synchronisation words: major 31 (04 R91 to R106, 22 R353, R359, 24 R432, R453, 23 R401). -/

namespace Sys2Proof.Machine

/-! ### Fences -/

/-- Wait as FENCE waits. -/
def State.fenced (s : State) (scope : BitVec 3) : Except Stop Unit :=
  await (s.fenceMet s.cur scope.toNat) (.fence scope.toNat)

/-- A command that a context places in an engine queue comes after every earlier operation of the context (04 R92): after what
FENCE.core waits for, its held atomics, and what its interface holds for ranks in transit. -/
def State.engineFree (s : State) (k : Nat) : Except Stop Unit := do
  await (s.fenceMet k 1) (.fence 1)
  await (s.ctx k).relq.isEmpty .atomic
  match (s.core (k / 4)).held.find? (fun m => m.ctx = k) with
  | some m => .error (.block (.rank m.rank))
  | none => .ok ()

def execFence (sc : BitVec 3) (s : State) : Host.Outcome State Fault Refusal :=
  s.out (do
    need (sc ≠ 7) (cz 0x02)
    s.fenced sc
    .ok (s.skip 4))

/-! ### Instructions that wait in two parts -/

/-- What the instruction at the program counter has already done. -/
def State.resumed (s : State) : Option Nat := SMap.find s.cx.resume s.cx.pc.toNat
/-- The current context blocks and remembers v for its instruction. -/
def State.blockWith (s : State) (v : Nat) (w : Wait) : State :=
  let x := s.cx
  (s.setCx { x with resume := SMap.set x.resume x.pc.toNat v }).block w
/-- The instruction forgets it. -/
def State.forget (s : State) : State :=
  let x := s.cx
  s.setCx { x with resume := SMap.drop x.resume x.pc.toNat }

/-! ### Counters (04 R98 to R101) -/

/-- The place of a counter operation of the current context. -/
def State.counterAt (s : State) (w : Bool) (va : Word) : Except Stop Place := do
  need (va.toNat % 8 = 0) (czAt 0x20 va)
  need (canonical va) (czAt 0x2D va)
  need (!s.cx.isWork) (czAt 0x2C va)
  if s.cx.st.chk then .error .escape
  else do
  s.arFree s.cur
  match spaceOf va with
  | .completion =>
    if !w && va.toNat % 2 ^ 56 < 32 then .ok (.completion (va.toNat % 2 ^ 56 / 8)) else .error (.trap (czAt 0x29 va))
  | .translated => do
    let p ← (s.counterPa s.curCore s.curPart (s.cx.st.priv = 0) w va).mapError Stop.trap
    s.ordered s.cur va 8
    s.relFree s.cur p 8
    .ok p
  | _ => .error (.trap (czAt 0x29 va))

/-- The value of a counter or completion register, and the state after the read: an operation of the sender's die (04 R87). -/
def State.counterRead (s : State) (p : Place) (va : Word) : Except Stop (Nat × State) := do
  let b ← s.readPlace s.cur p 8 va
  let d := p.die s.curCore
  await (s.mayArrive (dieOf s.curCore) d) (.hold d)
  .ok (leNat b, s.stampTo (dieOf s.curCore) d)

def execCadd (d a : BitVec 5) (sc : BitVec 3) (b : BitVec 5) (s : State) : Host.Outcome State Fault Refusal :=
  s.out (do
    need (sc ≠ 7) (cz 0x02)
    let va := s.cx.s a
    let p ← s.counterAt true va
    s.fenced sc
    s.ackRoom s.cur p
    let (old, t) ← s.counterAdd s.curCore p (s.cx.s b).toNat va
    .ok (t.wr 4 d (BitVec.ofNat 64 old)))

/-- CADD.nr does not wait; it counts until its home acknowledges it. In a check heat it is not performed. -/
def execCaddNr (a : BitVec 5) (sc : BitVec 3) (b : BitVec 5) (s : State) : Host.Outcome State Fault Refusal :=
  s.out (do
    need (sc ≠ 7) (cz 0x02)
    if s.cx.st.chk then .ok (s.skip 4)
    else do
      let va := s.cx.s a
      let p ← s.counterAt true va
      s.ackRoom s.cur p
      match s.counterAdd s.curCore p (s.cx.s b).toNat va with
      | .ok (_, t) => .ok ((t.addAck s.cur p).skip 4)
      | .error (.trap c) => .ok ((s.postAsync s.cur s.cx.taskNum 1 c).skip 4)
      | .error e => .error e)

/-- Block until a counter has reached a target; the value seen, and the state after it. -/
def State.counterWait (s : State) (va : Word) (target : Nat) (sc : BitVec 3) : Except Stop (Nat × State) := do
  let p ← s.counterAt false va
  s.fenced sc
  let r ← s.counterRead p va
  await (target ≤ r.1) (.counter va target)
  .ok r

def execCwait (d a : BitVec 5) (sc : BitVec 3) (b : BitVec 5) (s : State) : Host.Outcome State Fault Refusal :=
  s.out (do
    need (sc ≠ 7) (cz 0x02)
    let (v, t) ← s.counterWait (s.cx.s a) (s.cx.s b).toNat sc
    .ok (t.wr 4 d (BitVec.ofNat 64 v)))

def execCread (d a : BitVec 5) (sc : BitVec 3) (s : State) : Host.Outcome State Fault Refusal :=
  s.out (do
    need (sc ≠ 7) (cz 0x02)
    let (v, t) ← s.counterWait (s.cx.s a) 0 sc
    .ok (t.wr 4 d (BitVec.ofNat 64 v)))

/-- BAR (22 R353, R354): the add is performed once, and its target kept while the context waits. -/
def execBar (a : BitVec 5) (sc : BitVec 3) (b : BitVec 5) (s : State) : Host.Outcome State Fault Refusal :=
  s.out (do
    need (sc ≠ 7) (cz 0x02)
    let n := (s.cx.s b).toNat
    need (n ≠ 0 && n ≤ 2 ^ 32) (cz 0x02)
    let va := s.cx.s a
    let p ← s.counterAt true va
    match s.resumed with
    | none => do
      s.fenced sc
      let (old, t) ← s.counterAdd s.curCore p 1 va
      let target := (old / n + 1) * n
      if target ≤ old + 1 then .ok (t.skip 4) else .ok (t.blockWith target (.counter va target))
    | some target => do
      let (v, t) ← s.counterRead p va
      await (target ≤ v) (.counter va target)
      .ok (t.forget.skip 4))

/-- SYNC (24 R432, R433). -/
def execSync (s : State) : Host.Outcome State Fault Refusal :=
  s.out (do
    need (!(s.part s.curPart).det) (cz 0x2C)
    if s.cx.st.chk then .error .escape
    else match s.resumed with
    | none => do
      s.fenced 5
      let c := s.core s.curCore
      let round := c.joined + 1
      .ok ((s.setCore s.curCore { c with joined := round }).blockWith round (.sync round))
    | some round => do
      await (round ≤ (s.part s.curPart).rounds) (.sync round)
      .ok (s.forget.skip 4))

def execPacew (d a : BitVec 5) (s : State) : Host.Outcome State Fault Refusal :=
  s.out (do
    need (!s.cx.isWork) (cz 0x2C)
    need (!s.cx.st.pure) (cz 0x50)
    match s.resumed with
    | some v => .ok (s.forget.wr 4 d (BitVec.ofNat 64 v))
    | none => do
      await ((s.cx.s a).toNat ≤ s.pace.toNat) (.pace (s.cx.s a))
      .ok (s.wr 4 d s.pace))

/-! ### Watches (04 R103 to R106) -/

/-- The watch records of a context leave the home slices. -/
def State.dropRecords (s : State) (k : Nat) : State :=
  { s with clus := s.clus.map (fun kc => (kc.1, { kc.2 with records := kc.2.records.filter (fun r => r.2.1 ≠ k) })) }

/-- A record of a counter sector at its home; the oldest of 256 is displaced and its entry fires with reason 9. -/
def State.placeRecord (s : State) (sec k idx : Nat) : State :=
  let h := homeClu (sec * 32)
  let u := s.clu h
  match u.records with
  | (sec0, k0, i0) :: t =>
    if u.records.length < 256 then s.setClu h { u with records := u.records ++ [(sec, k, idx)] }
    else
      let s := s.setClu h { u with records := t ++ [(sec, k, idx)] }
      let x := s.ctx k0
      s.setCtx k0 (x.fire 1 (fun g => g = .phys sec0 true && x.watch.any (fun e => e.idx = i0 && e.tgt = g)))
  | [] => s.setClu h { u with records := [(sec, k, idx)] }

/-- An entry of the current context's table armed on a target: its index, or all ones when the table is full. Of the free
entries the lowest is taken; the spec names none (notes/assumptions/92.md). DESIGN CHOICE. -/
def State.arm (s : State) (g : WatchTarget) : State × Word :=
  let x := s.cx
  match x.watch.find? (fun e => e.tgt = g) with
  | some e => (s, BitVec.ofNat 64 e.idx)
  | none =>
    match (List.range 8).find? (fun i => !(x.watch.any (fun e => e.idx = i))) with
    | none => (s, -1)
    | some i =>
      let s := s.setCx { x with watch := x.watch ++ [{ idx := i, tgt := g, fired := false }] }
      (match g with
        | .phys sec true => s.placeRecord sec s.cur i
        | _ => s, BitVec.ofNat 64 i)

def execWatch (d a : BitVec 5) (s : State) : Host.Outcome State Fault Refusal :=
  s.out (do
    let va := s.cx.s a
    need (canonical va) (czAt 0x2D va)
    need (!(s.cx.isWork && spaceOf va ≠ .scratch)) (czAt 0x2C va)
    match spaceOf va with
    | .scratch => do
      s.waysFree s.cur va
      need (s.inScratch s.curCore va.toNat 1) (czAt 0x21 va)
      let (t, i) := s.arm (.scratch s.curCore (scratchIdx (s.core s.curCore).waym va.toNat / 32))
      .ok (t.wr 4 d i)
    | .completion => do
      need (va.toNat % 2 ^ 56 < 32) (czAt 0x2A va)
      let (t, i) := s.arm .completion
      .ok (t.wr 4 d i)
    | .translated => do
      let p ← s.transPlace s.curCore s.curPart (s.cx.st.priv = 0) (Req.load 1) va
      match p with
      | .phys pa key ctr unc hb => do
        need (!hb && (!unc || ctr)) (czAt 0x2A va)
        let s := (if ctr then s else s.cacheTouch s.curCore key pa 1 false false false).tlbFill s.curCore s.curPart va
        let (t, i) := s.arm (.phys (pa / 32) ctr)
        .ok (t.wr 4 d i)
      | _ => .error (.trap (czAt 0x2A va))
    | _ => .error (.trap (czAt 0x2A va)))

/-- WAITW returns: fired entries and reasons go to d, every entry is disarmed, and the context moves on. -/
def State.waitwReturn (s : State) (k : Nat) (d : BitVec 5) (timeout intr : Bool) : State :=
  let x := s.ctx k
  let fired := x.watch.foldl (fun a e => if e.fired then a ||| 2 ^ e.idx else a) 0
  let v : Nat := fired + 256 * x.reasons.toNat ||| (if timeout then 0x400 else 0) ||| (if intr then 0x800 else 0)
  let y := ({ x with watch := [], reasons := 0, resume := SMap.drop x.resume x.pc.toNat, cs := .ready } : Ctx)
  (s.setCtx k ((y.setS d (BitVec.ofNat 64 v)).advance 4)).dropRecords k

/-- A WAITW that holds a context back returns, in every member of a gang at once (02 R34); each member's timeout counts. -/
def State.waitwAll (s : State) (k : Nat) (d : BitVec 5) (intr : Bool) : State :=
  let late := fun (m : Nat) => let x := s.ctx m; let t := SMap.get x.resume 0 x.pc.toNat; decide (t ≠ 0) && decide (t ≤ s.pace.toNat)
  match (s.ctx k).gang with
  | none => s.waitwReturn k d (late k) intr
  | some g => g.members.foldl (fun t m =>
      let u := t.waitwReturn m d (late m) intr
      let x := u.ctx m
      u.setCtx m { x with cs := if m = k then .ready else .held, gang := x.gang.map (fun r => { r with wait := none }) }) s

/-- A WFI is over, for every member of a gang at once. -/
def State.wfiAll (s : State) (k : Nat) : State :=
  match (s.ctx k).gang with
  | none => s.setCtx k { (s.ctx k).advance 4 with cs := .ready }
  | some g => g.members.foldl (fun t m =>
      let x := (t.ctx m).advance 4
      t.setCtx m { x with cs := if m = k then .ready else x.cs, gang := x.gang.map (fun r => { r with wait := none }) }) s

/-- An asynchronous cause is pending and would be taken (04 Table 4-6). -/
def Ctx.interrupted (x : Ctx) : Bool := x.st.aie && !x.apend.isEmpty

/-- A WAITW that waits until tick t, 0 for no timeout, has a reason to return. -/
def State.timedOut (s : State) (t : Nat) : Bool := t ≠ 0 && t ≤ s.pace.toNat

def execWaitw (d a : BitVec 5) (s : State) : Host.Outcome State Fault Refusal :=
  s.out (do
    let x := s.cx
    let n := (x.s a).toNat
    need (!(x.isWork && n ≠ 0)) (cz 0x2C)
    need (!(x.st.pure && n ≠ 0)) (cz 0x50)
    if x.st.chk then .error .escape
    else
      let t := s.resumed.getD (if n = 0 then 0 else s.pace.toNat + n)
      if x.reasons ≠ 0 || x.interrupted || s.timedOut t || (x.watch.isEmpty && n = 0) then
        .ok (s.waitwReturn s.cur d (s.timedOut t) x.interrupted)
      else .ok (s.blockWith t (.waitw d)))

/-- A WAITW timeout passes and the context returns with reason 10. A gang returns as one stream, when no member waits any
longer (02 R34). -/
def execWaitwTimeout (key : Nat) (s : State) : Host.Outcome State Fault Refusal :=
  let x := s.ctx key
  match x.cs with
  | .blocked (.waitw d) =>
    if x.gang.isNone && s.timedOut (SMap.get x.resume 0 x.pc.toNat) then .next (s.waitwReturn key d true x.interrupted) else .next s
  | _ => .next s

/-! ### QFENCE (04 R93) -/

/-- The number of the next operation that a queue will accept, and of the oldest it has not performed: 0 a copy channel
core * 4 + c, 1 mq, 2 lq, 3 gq of a cell, 4 fq of a die, 5 the queues of a partition that is parked, which perform nothing. -/
def State.accepted (s : State) (kind unit : Nat) : Nat :=
  match kind with
  | 0 => ((s.core (unit / 4)).ch[unit % 4]?).elim 0 (fun c => c.next)
  | 1 => (s.cell unit).mqNum
  | 2 => (s.cell unit).lqNum + (s.cell unit).catchQ.length
  | 3 => (s.cell unit).gqNum
  | _ => (s.die unit).fqNum
def State.performed (s : State) (kind unit : Nat) : Nat :=
  match kind with
  | 0 => ((s.core (unit / 4)).ch[unit % 4]?).elim 0 (fun c => (c.cmds.head?).elim c.next (fun m => m.id))
  | 1 => ((s.cell unit).mq.head?).elim (s.cell unit).mqNum (fun o => o.num)
  | 2 => (s.cell unit).lqNum
  | 3 => ((s.cell unit).gq.head?).elim (s.cell unit).gqNum (fun g => g.num)
  | 5 => 0
  | _ => (s.die unit).fqNum - (s.die unit).fq.length

/-- Every operation the marker covers has been performed. -/
def State.markerMet (s : State) (m : Marker) : Bool := m.queues.all (fun q => decide (q.2.2 ≤ s.performed q.1 q.2.1))

/-- The next operation of a queue may begin: no marker it stands behind is open. -/
def State.mayBegin (s : State) (kind unit : Nat) : Bool :=
  s.markers.all (fun m => !(m.queues.any (fun q => q.1 = kind && q.2.1 = unit && decide (q.2.2 ≤ s.performed kind unit))) || s.markerMet m)

def execQfence (a : BitVec 5) (s : State) : Host.Outcome State Fault Refusal :=
  s.out (do
    let m := s.cx.s a
    need (m.toNat < 256) (cz 0x02)
    if s.cx.st.chk || m = 0 then .ok (s.skip 4)
    else
      let qs := ((List.range 4).map (fun c => (c, 0, s.curCore * 4 + c))) ++
        [(4, 1, s.curCell), (5, 2, s.curCell), (6, 3, s.curCell), (7, 4, dieOf s.curCore)]
      let named := (qs.filter (fun q => bit m q.1)).map (fun q => (q.2.1, q.2.2, s.accepted q.2.1 q.2.2))
      let t : State := { s with markers := s.markers.filter (fun k => !s.markerMet k) ++ [({ queues := named } : Marker)] }
      .ok (t.skip 4))

end Sys2Proof.Machine
end

