-- ==== Sys2Proof/Machine/VecUnit.lean ====
section
/-! DEFINITION. What the vector unit does with the words of majors 32 to 34 (24 R439 to R452, 21 R342, R343). -/

namespace Sys2Proof.Machine

abbrev VReg := Vector W32 8

/-! ### Lanes -/

/-- Lane i of a register as a number. -/
def lane (v : VReg) (i : Nat) : Nat := (v[i]?).elim 0 (fun w => w.toNat)

/-- The lanes of a mask that are active, in ascending order. -/
def activeLanes (m : Byte) : List Nat := (List.range 8).filter (fun i => m.getLsbD i)

/-- A register with each active lane replaced. -/
def lanesOf (m : Byte) (old : VReg) (f : Nat → Nat) : VReg :=
  Vector.ofFn (fun i => if m.getLsbD i.val then BitVec.ofNat 32 (f i.val) else old[i])

/-- Each active lane of vd takes a result with its flags. -/
def Ctx.vmap (x : Ctx) (d : BitVec 5) (k : BitVec 3) (f : Nat → FRes) : Ctx :=
  (x.setV d (lanesOf (x.m k) (x.v d) (fun i => (f i).1))).orFlags ((activeLanes (x.m k)).foldl (fun a i => a ||| (f i).2) 0)

/-- An FP32 operation on two registers. -/
def Ctx.vfp2 (x : Ctx) (d a b : BitVec 5) (k : BitVec 3) (f : Nat → Nat → FRes) : Ctx :=
  x.vmap d k (fun i => f (lane (x.v a) i) (lane (x.v b) i))
def Ctx.vfp1 (x : Ctx) (d a : BitVec 5) (k : BitVec 3) (f : Nat → FRes) : Ctx :=
  x.vmap d k (fun i => f (lane (x.v a) i))

/-! ### Elements of a lane (24 R440, R441) -/

/-- Bits of an element. -/
def elemBits (e : BitVec 2) : Nat := 32 / 2 ^ e.toNat

/-- Element j of n bits. -/
def elem (n x j : Nat) : Nat := x / 2 ^ (n * j) % 2 ^ n

/-- The lane whose elements are f of the operands' elements. -/
def onElems (n : Nat) (f : Nat → Nat → Nat) (x y : Nat) : Nat :=
  (List.range (32 / n)).foldl (fun a j => a + f (elem n x j) (elem n y j) % 2 ^ n * 2 ^ (n * j)) 0

/-- An integer operation on the elements of two registers. -/
def Ctx.vint (x : Ctx) (d a b : BitVec 5) (k : BitVec 3) (e : BitVec 2) (f : Nat → Nat → Nat → Nat) : Ctx :=
  x.vmap d k (fun i => (onElems (elemBits e) (f (elemBits e)) (lane (x.v a) i) (lane (x.v b) i), 0))

/-- The unsigned code of an integer modulo 2^n. -/
def toCode (n : Nat) (z : Int) : Nat := (z % (2 ^ n : Nat)).toNat

/-! ### Comparisons (24 R443) -/

/-- A mask of the active lanes for which p holds. -/
def maskOf (m : Byte) (p : Nat → Bool) : Byte :=
  (List.range 8).foldl (fun a i => if m.getLsbD i && p i then a ||| BitVec.ofNat 8 (2 ^ i) else a) 0

def Ctx.vcmpF (x : Ctx) (m : BitVec 3) (a b : BitVec 5) (k : BitVec 3) (rel : Nat) : Ctx :=
  (x.setM m (maskOf (x.m k) (fun i => (fCmp rel (lane (x.v a) i) (lane (x.v b) i)).1))).orFlags
    ((activeLanes (x.m k)).foldl (fun f i => f ||| (fCmp rel (lane (x.v a) i) (lane (x.v b) i)).2) 0)

/-- The relation holds for every element of a lane. -/
def Ctx.vcmpI (x : Ctx) (m : BitVec 3) (a b : BitVec 5) (k : BitVec 3) (e : BitVec 2) (rel : Nat → Nat → Nat → Bool) : Ctx :=
  let n := elemBits e
  x.setM m (maskOf (x.m k) (fun i =>
    (List.range (32 / n)).all (fun j => rel n (elem n (lane (x.v a) i) j) (elem n (lane (x.v b) i) j))))

/-! ### Reductions and scans (05 R137, R138) -/

/-- A value that may be absent, with the flags of the operations that made it. -/
abbrev Part1 := Option Nat × BitVec 5

def comb (f : Nat → Nat → FRes) (u v : Part1) : Part1 :=
  match u.1, v.1 with
  | some x, some y => (some (f x y).1, u.2 ||| v.2 ||| (f x y).2)
  | some x, none => (some x, u.2 ||| v.2)
  | none, r => (r, u.2 ||| v.2)

/-- A lane, absent when it is masked off. -/
def present (m : Byte) (v : VReg) (i : Nat) : Part1 := (if m.getLsbD i then some (lane v i) else none, 0)

/-- Reduce over the eight lanes. -/
def reduce8 (f : Nat → Nat → FRes) (p : Nat → Part1) : Part1 :=
  comb f (comb f (comb f (p 0) (p 1)) (comb f (p 2) (p 3))) (comb f (comb f (p 4) (p 5)) (comb f (p 6) (p 7)))

/-- One step of a scan at distance d. -/
def scanStep (f : Nat → Nat → FRes) (d : Nat) (y : Nat → Part1) : Nat → Part1 := fun i => if i < d then y i else comb f (y (i - d)) (y i)

def scan8 (f : Nat → Nat → FRes) (p : Nat → Part1) : Nat → Part1 := scanStep f 4 (scanStep f 2 (scanStep f 1 p))

def Ctx.vred (x : Ctx) (d a : BitVec 5) (k : BitVec 3) (f : Nat → Nat → FRes) (identity : Nat) (ext : Nat → Word) : Ctx :=
  let r := reduce8 f (present (x.m k) (x.v a))
  (x.setS d (ext (r.1.getD identity))).orFlags r.2

def Ctx.vscan (x : Ctx) (d a : BitVec 5) (k : BitVec 3) (f : Nat → Nat → FRes) : Ctx :=
  let y := scan8 f (present (x.m k) (x.v a))
  (x.setV d (lanesOf (x.m k) (x.v d) (fun i => (y i).1.getD 0))).orFlags ((activeLanes (x.m k)).foldl (fun g i => g ||| (y i).2) 0)

/-- Integer operators on 32-bit values, without flags. -/
def iop (f : Nat → Nat → Nat) (x y : Nat) : FRes := (f x y % 0x100000000, 0)

/-! ### VSORT (24 R451) -/

/-- A value put after those whose digit is not above its own. -/
def insertBy (d v : Nat) : List (Nat × Nat) → List (Nat × Nat)
  | [] => [(d, v)]
  | (e, w) :: t => if d < e then (d, v) :: (e, w) :: t else (e, w) :: insertBy d v t

/-- The place of lane i among the active lanes. -/
def rankIn (m : Byte) (i : Nat) : Nat := ((List.range i).filter (fun j => m.getLsbD j)).length

def Ctx.vsort (x : Ctx) (d a : BitVec 5) (k : BitVec 3) (y : Word) : Ctx :=
  let m := x.m k
  let sorted := (activeLanes m).foldl (fun l i => insertBy (lane (x.v a) i / 256 ^ bits y 1 0 % 256) (lane (x.v a) i) l) []
  x.setV d (lanesOf m (x.v d) (fun i => ((sorted[rankIn m i]?).elim 0 Prod.snd)))

/-! ### VCVT (21 R343, 24 R444) -/

/-- Width of a format code. -/
def codeWidth (c : Nat) : Nat := match fmtOf c with
  | some f => f.width
  | none => intWidth c

/-- A lane converted under the conversion word. -/
def vcvtLane (e5 : Word) (mode v : Nat) : FRes :=
  let src := bits e5 3 0
  let dst := bits e5 7 4
  if intCode src && intCode dst then
    let z := signedOf (intWidth src) v
    let hi : Int := 2 ^ (intWidth dst - 1) - 1
    let lo : Int := -(2 ^ (intWidth dst - 1) : Int)
    if hi < z then (toCode (intWidth dst) hi, fNV) else if z < lo then (toCode (intWidth dst) lo, fNV)
    else (toCode (intWidth dst) z, 0)
  else
    let r := fcvtWord mode dst src (bit e5 8) (bit e5 9) (BitVec.ofNat 64 v)
    (r.1.toNat % 2 ^ codeWidth dst, r.2)

/-- The register n above r. -/
def regUp (r : BitVec 5) (n : Nat) : BitVec 5 := r + BitVec.ofNat 5 n

/-- Encoding a block: 32 FP32 values of V(va) to V(va + 3) into V(vd). -/
def Ctx.vencode (x : Ctx) (d a : BitVec 5) (ty : Nat) : Ctx :=
  let vals := (List.range 32).map (fun k => lane (x.v (regUp a (k / 8))) (k % 8))
  let (cs, sc, fl) := encodeBlock ty vals
  let word := fun l => (List.range 8).foldl (fun acc j => acc + cs.getD (8 * l + j) 0 * 16 ^ j) 0
  (x.setV d (Vector.ofFn (fun i => BitVec.ofNat 32 (if i.val < 4 then word i.val else if i.val = 4 then sc else 0)))).orFlags fl

/-- Decoding a block: V(va) into V(vd) to V(vd + 3). -/
def Ctx.vdecode (x : Ctx) (d a : BitVec 5) : Ctx :=
  let src := x.v a
  let sc := lane src 4 % 256
  let row := fun (r : Nat) => (Vector.ofFn (fun i : Fin 8 => BitVec.ofNat 32 (decodeCode sc (lane src r / 16 ^ i.val % 16))) : VReg)
  (((x.setV d (row 0)).setV (regUp d 1) (row 1)).setV (regUp d 2) (row 2)).setV (regUp d 3) (row 3)

def Ctx.vcvt (x : Ctx) (d a : BitVec 5) (k : BitVec 3) (e5 : Word) (mode : Nat) : Ctx :=
  if bits e5 7 4 = 6 then x.vencode d a (bits e5 11 10)
  else if bits e5 3 0 = 6 then x.vdecode d a
  else x.vfp1 d a k (fun v => vcvtLane e5 mode v)

/-! ### The words that touch no memory -/

/-- The effect of a word on its context: x and y are its scalar operands, e5 the conversion word, all read at issue.
None for a word that reads or writes memory. -/
def Ctx.vecPure (c : Ctx) (i : Instr) (x y e5 : Word) (mode : Nat) : Option Ctx :=
  match i with
  | .vaddF32 d a b k => some (c.vfp2 d a b k (fAdd mode))
  | .vsubF32 d a b k => some (c.vfp2 d a b k (fSub mode))
  | .vmulF32 d a b k => some (c.vfp2 d a b k (fMul mode))
  | .vfma d a b k => some (c.vmap d k (fun i => fFma mode (lane (c.v a) i) (lane (c.v b) i) (lane (c.v d) i)))
  | .vminF32 d a b k => some (c.vfp2 d a b k (fMinMax false))
  | .vmaxF32 d a b k => some (c.vfp2 d a b k (fMinMax true))
  | .vabsF32 d a k => some (c.vfp1 d a k (fun v => (v % 0x80000000, 0)))
  | .vcmpEqF32 m a b k => some (c.vcmpF m a b k 0)
  | .vcmpLtF32 m a b k => some (c.vcmpF m a b k 1)
  | .vcmpLeF32 m a b k => some (c.vcmpF m a b k 2)
  | .vcmpNeF32 m a b k => some (c.vcmpF m a b k 3)
  | .vrcp d a k => some (c.vfp1 d a k fRcp)
  | .vrsq d a k => some (c.vfp1 d a k fRsq)
  | .vexp2 d a k => some (c.vfp1 d a k fExp2)
  | .vlog2 d a k => some (c.vfp1 d a k fLog2)
  | .vredAddF32 d a k => some (c.vred d a k (fAdd mode) 0 (BitVec.ofNat 64))
  | .vredMinF32 d a k => some (c.vred d a k (fMinMax false) 0x7F800000 (BitVec.ofNat 64))
  | .vredMaxF32 d a k => some (c.vred d a k (fMinMax true) 0xFF800000 (BitVec.ofNat 64))
  | .vscanAddF32 d a k => some (c.vscan d a k (fAdd mode))
  | .vscanMinF32 d a k => some (c.vscan d a k (fMinMax false))
  | .vscanMaxF32 d a k => some (c.vscan d a k (fMinMax true))
  | .vcvt d a k => some (c.vcvt d a k e5 mode)
  | .vadd d a b k e => some (c.vint d a b k e (fun _ u v => u + v))
  | .vsub d a b k e => some (c.vint d a b k e (fun n u v => u + 2 ^ n - v))
  | .vmul d a b k e => some (c.vint d a b k e (fun _ u v => u * v))
  | .vmin d a b k e => some (c.vint d a b k e (fun n u v => if signedOf n v < signedOf n u then v else u))
  | .vmax d a b k e => some (c.vint d a b k e (fun n u v => if signedOf n u < signedOf n v then v else u))
  | .vminU d a b k e => some (c.vint d a b k e (fun _ u v => min u v))
  | .vmaxU d a b k e => some (c.vint d a b k e (fun _ u v => max u v))
  | .vabs d a k e => some (c.vint d a a k e (fun n u _ => (signedOf n u).natAbs))
  | .vand d a b k => some (c.vint d a b k 0 (fun _ u v => Nat.land u v))
  | .vor d a b k => some (c.vint d a b k 0 (fun _ u v => Nat.lor u v))
  | .vxor d a b k => some (c.vint d a b k 0 (fun _ u v => Nat.xor u v))
  | .vshl d a b k e => some (c.vint d a b k e (fun n u v => u * 2 ^ (v % n)))
  | .vshr d a b k e => some (c.vint d a b k e (fun n u v => u / 2 ^ (v % n)))
  | .vsha d a b k e => some (c.vint d a b k e (fun n u v => toCode n (signedOf n u / (2 ^ (v % n) : Nat))))
  | .vpopc d a k => some (c.vint d a a k 0 (fun _ u _ => popc 32 u))
  | .vcmpEq m a b k e => some (c.vcmpI m a b k e (fun _ u v => u = v))
  | .vcmpNe m a b k e => some (c.vcmpI m a b k e (fun _ u v => u ≠ v))
  | .vcmpLt m a b k e => some (c.vcmpI m a b k e (fun n u v => signedOf n u < signedOf n v))
  | .vcmpLe m a b k e => some (c.vcmpI m a b k e (fun n u v => signedOf n u ≤ signedOf n v))
  | .vcmpLtU m a b k e => some (c.vcmpI m a b k e (fun _ u v => u < v))
  | .vcmpLeU m a b k e => some (c.vcmpI m a b k e (fun _ u v => u ≤ v))
  | .vsel d a b k => some (c.setV d (lanesOf (c.m k) (c.v b) (fun i => lane (c.v a) i)))
  | .vperm d a b k => some (c.vmap d k (fun i => (lane (c.v a) (lane (c.v b) i % 8), 0)))
  | .vextr d a _ => some (c.setS d (BitVec.ofNat 64 (lane (c.v a) (bits y 2 0))))
  | .vbcast d _ k => some (c.vmap d k (fun _ => (x.toNat % 0x100000000, 0)))
  | .vsort d a _ k => some (c.vsort d a k y)
  | .vredAdd d a k => some (c.vred d a k (iop (fun u v => u + v)) 0 (sextN 32))
  | .vredMin d a k => some (c.vred d a k (iop (fun u v => if signedOf 32 v < signedOf 32 u then v else u)) 0x7FFFFFFF (sextN 32))
  | .vredMax d a k => some (c.vred d a k (iop (fun u v => if signedOf 32 u < signedOf 32 v then v else u)) 0x80000000 (sextN 32))
  | .vscanAdd d a k => some (c.vscan d a k (iop (fun u v => u + v)))
  | .vredOr d a k => some (c.vred d a k (iop Nat.lor) 0 (sextN 32))
  | .vredAnd d a k => some (c.vred d a k (iop Nat.land) 0xFFFFFFFF (sextN 32))
  | _ => none

/-! ### Lane memory (24 R449) -/

/-- The n bytes a lane reads; every lane is checked before any is read into a register. -/
def State.laneRead (s : State) (k : Nat) (n : Nat) (va : Word) : Except Stop (Nat × Place) := do
  let p ← s.reach k (Req.load n) va
  let b ← s.readPlace k p n va
  .ok (leNat b, p)

/-- The values of the active lanes, in ascending order. -/
def State.lanesRead (s : State) (k n : Nat) (addr : Nat → Word) : List Nat → Except Stop (List (Nat × Nat × Place))
  | [] => .ok []
  | i :: t => do
    let (v, p) ← s.laneRead k n (addr i)
    let r ← s.lanesRead k n addr t
    .ok ((i, v, p) :: r)

def State.vecLoad (s : State) (k n : Nat) (d : BitVec 5) (m : Byte) (addr : Nat → Word) : Except Stop State := do
  let l ← s.lanesRead k n addr (activeLanes m)
  let s := l.foldl (fun t e => t.afterRead (k / 4) e.2.2 n (addr e.1)) s
  let x := s.ctx k
  .ok (s.setCtx k (x.setV d (lanesOf m (x.v d) (fun i => ((l.find? (fun e => e.1 = i)).elim 0 (fun e => e.2.1))))))

/-- The places of the active lanes of a store, each checked. -/
def State.lanesPlaces (s : State) (k n : Nat) (addr : Nat → Word) : List Nat → Except Stop (List (Nat × Place))
  | [] => .ok []
  | i :: t => do
    let p ← s.reach k (Req.store n) (addr i)
    let _ ← s.writePlace k p (leBytes n 0) (addr i)
    let r ← s.lanesPlaces k n addr t
    .ok ((i, p) :: r)

/-- The lanes stored in ascending order. -/
def State.lanesWrite (s : State) (k n : Nat) (addr : Nat → Word) (val : Nat → Nat) : List (Nat × Place) → Except Stop State
  | [] => .ok s
  | (i, p) :: t => do
    let s ← s.writePlace k p (leBytes n (val i)) (addr i)
    (s.addAck k p).lanesWrite k n addr val t

/-- Room under the store-acknowledge counts for every lane. -/
def State.lanesRoom (s : State) (k : Nat) (l : List (Nat × Place)) : Bool :=
  let x := s.ctx k
  decide (x.modCnt + (l.filter (fun e => e.2.counted (k / 4) = some false)).length ≤ 64) &&
    decide (x.sysCnt + (l.filter (fun e => e.2.counted (k / 4) = some true)).length ≤ 64)

def State.vecStore (s : State) (k n : Nat) (v : BitVec 5) (m : Byte) (addr : Nat → Word) : Except Stop State := do
  let l ← s.lanesPlaces k n addr (activeLanes m)
  await (s.lanesRoom k l) .ack
  s.storeFree k (2 ^ 20)
  s.lanesWrite k n addr (fun i => lane ((s.ctx k).v v) i) l

/-! ### VTAB (21 R342) -/

/-- The segment of x: floor((x - X0) * 2^(32 - SH)), clamped. -/
def vtabIndex (e6 : Word) (x : Nat) : Nat :=
  let top := bits e6 31 24
  match fp32.val x, fp32.val (bits e6 63 32) with
  | .inf neg, _ => if neg then 0 else top
  | .fin _ u, .fin _ v =>
    let d := u.sub v
    let e : Int := d.e + 32 - (bits e6 21 16 : Int)
    let j : Int := if e < 0 then d.m / (2 ^ (-e).toNat : Nat) else d.m * (2 ^ e.toNat : Nat)
    (min (max j 0) top).toNat
  | _, _ => 0

/-- A table entry's two words. -/
def State.vtabEntry (s : State) (k : Nat) (a : Nat) : Except Stop (Nat × Nat) := do
  let va : Word := BitVec.ofNat 64 a
  let p ← s.placeOf k (s.ctx k).st.chk false (Req.load 8) va
  s.relFree k p 8
  let b ← s.readPlace k p 8 va
  .ok (leNat (b.take 4), leNat (b.drop 4))

def State.vtabLanes (s : State) (k : Nat) (e6 : Word) (v : VReg) : List Nat → Except Stop (List (Nat × FRes))
  | [] => .ok []
  | i :: t => do
    let x := lane v i
    let r ← s.vtabLanes k e6 v t
    match fp32.val x with
    | .nan _ _ q => .ok ((i, (fp32.quiet x, if q then 0 else fNV)) :: r)
    | _ => do
      let (a, b) ← s.vtabEntry k (bits e6 15 0 + 8 * vtabIndex e6 x)
      .ok ((i, fFma 0 b x a) :: r)

def State.vtab (s : State) (k : Nat) (d a : BitVec 5) (m : BitVec 3) (e6 : Word) : Except Stop State := do
  let x := s.ctx k
  let base := bits e6 15 0
  let act := activeLanes (x.m m)
  need (act.isEmpty || base % 8 = 0) (czAt 0x20 (BitVec.ofNat 64 base))
  need (act.isEmpty || s.inScratch (k / 4) base (8 * (bits e6 31 24 + 1))) (czAt 0x21 (BitVec.ofNat 64 base))
  let l ← s.vtabLanes k e6 (x.v a) act
  let s := if act.isEmpty then s else s.scrTouch k base (8 * (bits e6 31 24 + 1))
  .ok (s.setCtx k (x.vmap d m (fun i => ((l.find? (fun e => e.1 = i)).elim (0, 0) Prod.snd))))

/-! ### A word of majors 32 to 34 -/

/-- The addresses of a lane: contiguous, or base plus the lane's offset. -/
def contiguous (w : VWord) (i : Nat) : Word := w.x + w.y + BitVec.ofNat 64 (4 * i)
def indexed (w : VWord) (v : VReg) (i : Nat) : Word := w.x + BitVec.ofNat 64 (lane v i)

def State.vecEffect (s : State) (w : VWord) : Except Stop State :=
  let k := w.key
  let x := s.ctx k
  match w.instr with
  | .vld d _ _ m => s.vecLoad k 4 d (x.m m) (contiguous w)
  | .vst v _ _ m => s.vecStore k 4 v (x.m m) (contiguous w)
  | .vldx d _ b m e => s.vecLoad k (4 / 2 ^ e.toNat) d (x.m m) (indexed w (x.v b))
  | .vstx v _ b m e => s.vecStore k (4 / 2 ^ e.toNat) v (x.m m) (indexed w (x.v b))
  | .vtab d a m => s.vtab k d a m w.e6
  | i => match x.vecPure i w.x w.y w.e5 w.frm.toNat with
    | some y => .ok (s.setCtx k y)
    | none => .ok s

/-! ### Checks at issue -/

/-- The conversion word of VCVT (15 R314, 21 R343, 24 R444): a and d are the register fields, k the mask field. -/
def vcvtOk (e5 : Word) (d a : BitVec 5) (k : BitVec 3) : Bool :=
  let src := bits e5 3 0
  let dst := bits e5 7 4
  let sat := bit e5 8
  let rtz := bit e5 9
  let ok := fun c => fpCode c || c = 5 || c = 8 || c = 9
  decide (e5.toNat < 4096) &&
  (if dst = 6 then src = 7 && a.toNat ≤ 28 && k = 0
   else if src = 6 then dst = 7 && d.toNat ≤ 28 && k = 0 && !rtz
   else ok src && ok dst && !(sat && intCode dst) && !(rtz && fpCode dst) && !(rtz && intCode src && intCode dst))

/-- E(6) of VTAB. -/
def vtabOk (e6 : Word) : Bool :=
  bits e6 23 22 = 0 && finite32 (bits e6 63 32)

end Sys2Proof.Machine
end

