-- ==== Sys2Proof/Machine/Geom.lean ====
section
/-! DEFINITION. Exact geometry: the ray tests of 08 R187 and R188, the pixel sets and planes of R196 and R197. -/

namespace Sys2Proof.Machine

/-- The exact number of a finite FP32 code. -/
def dyOf (x : Nat) : Option Dy := match fp32.val x with
  | .fin _ v => some v
  | _ => none

/-- The exact numbers of a list of codes, none when one is NaN or infinite. -/
def dysOf : List Nat → Option (List Dy)
  | [] => some []
  | x :: t => match dyOf x, dysOf t with
    | some v, some r => some (v :: r)
    | _, _ => none

/-- A vector of three exact numbers. -/
structure V3 where
  x : Dy
  y : Dy
  z : Dy
  deriving DecidableEq, Repr

def v3At (l : List Dy) (i : Nat) : V3 := { x := l.getD i Dy.zero, y := l.getD (i + 1) Dy.zero, z := l.getD (i + 2) Dy.zero }
def V3.sub (a b : V3) : V3 := { x := a.x.sub b.x, y := a.y.sub b.y, z := a.z.sub b.z }
def V3.dot (a b : V3) : Dy := ((a.x.mul b.x).add (a.y.mul b.y)).add (a.z.mul b.z)
def V3.cross (a b : V3) : V3 :=
  { x := (a.y.mul b.z).sub (a.z.mul b.y), y := (a.z.mul b.x).sub (a.x.mul b.z), z := (a.x.mul b.y).sub (a.y.mul b.x) }

/-- The ray of eight codes against the triangle of nine codes: t, u and v rounded, none for a miss (08 R187). -/
def rayTri (ray tri : List Nat) : Option (Nat × Nat × Nat) :=
  match dysOf (ray.take 8), dysOf (tri.take 9) with
  | some r, some q =>
    let o := v3At r 0
    let dir := v3At r 3
    let tmin := r.getD 6 Dy.zero
    let tmax := r.getD 7 Dy.zero
    let e1 := (v3At q 3).sub (v3At q 0)
    let e2 := (v3At q 6).sub (v3At q 0)
    let p := dir.cross e2
    let det := e1.dot p
    if det.m = 0 || tmax.lt tmin then none
    else
      let sg := fun (v : Dy) => if det.m < 0 then v.neg else v
      let d := sg det
      let w := o.sub (v3At q 0)
      let u := sg (w.dot p)
      let k := w.cross e1
      let v := sg (dir.dot k)
      let t := sg (e2.dot k)
      if Dy.zero.le u && Dy.zero.le v && (u.add v).le d && (tmin.mul d).le t && t.le (tmax.mul d) then
        some ((roundQuot fp32 0 false t d).1, (roundQuot fp32 0 false u d).1, (roundQuot fp32 0 false v d).1)
      else none
  | _, _ => none

/-- A fraction with positive denominator. -/
structure Ratio where
  n : Dy
  d : Dy
  deriving DecidableEq, Repr

def Ratio.le (a b : Ratio) : Bool := (a.n.mul b.d).le (b.n.mul a.d)
def Ratio.max (a b : Ratio) : Ratio := if a.le b then b else a
def Ratio.min (a b : Ratio) : Ratio := if a.le b then a else b
def Ratio.quot (n d : Dy) : Ratio := if d.m < 0 then { n := n.neg, d := d.neg } else { n := n, d := d }

/-- The interval of t cut down to one axis of a box; none when the axis is missed. -/
def slab (o d lo hi : Dy) (i : Ratio × Ratio) : Option (Ratio × Ratio) :=
  if hi.lt lo then none
  else if d.m = 0 then (if lo.le o && o.le hi then some i else none)
  else
    let a := Ratio.quot (lo.sub o) d
    let b := Ratio.quot (hi.sub o) d
    let i' := (i.1.max (a.min b), i.2.min (a.max b))
    if i'.1.le i'.2 then some i' else none

/-- The ray against the closed box of six codes: the least t rounded down, none for a miss (08 R188). -/
def rayBox (ray box : List Nat) : Option Nat :=
  match dysOf (ray.take 8), dysOf (box.take 6) with
  | some r, some q =>
    let g := fun (l : List Dy) (i : Nat) => l.getD i Dy.zero
    let one : Dy := { m := 1, e := 0 }
    if (g r 7).lt (g r 6) then none
    else
      let i0 := (({ n := g r 6, d := one } : Ratio), ({ n := g r 7, d := one } : Ratio))
      match (slab (g r 0) (g r 3) (g q 0) (g q 3) i0).bind (fun i => (slab (g r 1) (g r 4) (g q 1) (g q 4) i).bind
        (fun j => slab (g r 2) (g r 5) (g q 2) (g q 5) j)) with
      | some i => some (roundQuot fp32 2 false i.1.n i.1.d).1
      | none => none
  | _, _ => none

/-! ### The frame context (08 R195, R196) -/

def ftw (e7 : Word) : Nat := bits e7 63 48
def fth (e7 : Word) : Nat := bits e7 47 32
def frate (e7 : Word) : Nat := 2 ^ bits e7 19 18
def fx0 (e7 : Word) : Nat := 16 * bits e7 8 0
def fy0 (e7 : Word) : Nat := 16 * bits e7 17 9

/-- E(7) passes the checks of R195. TW or TH above 8,192, for which the rule lists no trap, fails them as 0 does
(notes/assumptions/120.md). DESIGN CHOICE. -/
def frameOk (e7 : Word) : Bool :=
  ftw e7 ≠ 0 && ftw e7 ≤ 8192 && fth e7 ≠ 0 && fth e7 ≤ 8192 && bits e7 31 20 = 0 && bits e7 19 18 ≠ 3 &&
    fx0 e7 < ftw e7 && fy0 e7 < fth e7

/-- The effective set of a lane word, as fine pixels of the target. -/
def pixelSet (e7 : Word) (w : Nat) : List (Nat × Nat) :=
  let r := frate e7
  let col := w % 16
  let row := w / 16 % 16
  let cov := w / 65536
  if col % r ≠ 0 || row % r ≠ 0 || 2 ^ (r * r) ≤ cov || w / 256 % 256 ≠ 0 then []
  else
    ((List.range (r * r)).filter (fun i => cov / 2 ^ i % 2 = 1)).filterMap (fun i =>
      let p := (fx0 e7 + col + i % r, fy0 e7 + row + i / r)
      if p.1 < ftw e7 && p.2 < fth e7 then some p else none)

/-! ### ATTR (08 R197) -/

/-- U, dU/dx and dU/dy over a set of pixels from the twelve codes of a plane record. -/
def attrLane (px : List (Nat × Nat)) (rec : List Nat) : FRes × FRes × FRes :=
  if px.isEmpty then ((0, 0), (0, 0), (0, 0))
  else match dysOf (rec.take 12) with
  | none => (nanInvalid, nanInvalid, nanInvalid)
  | some q =>
    let g := fun (i : Nat) => q.getD i Dy.zero
    let n2 := Dy.ofInt (2 * px.length)
    let sx := Dy.ofInt (px.foldl (fun a p => a + (2 * p.1 + 1)) 0 : Nat)
    let sy := Dy.ofInt (px.foldl (fun a p => a + (2 * p.2 + 1)) 0 : Nat)
    let e := fun (j : Nat) => (((g (3 * j)).mul sx).add ((g (3 * j + 1)).mul sy)).add ((g (3 * j + 2)).mul n2)
    let sum3 := fun (f : Nat → Dy) => ((f 0).add (f 1)).add (f 2)
    let S := sum3 e
    let N := sum3 (fun j => (e j).mul (g (9 + j)))
    if S.m = 0 then (nanInvalid, nanInvalid, nanInvalid)
    else
      let deriv := fun (c : Nat) =>
        let S' := sum3 (fun j => g (3 * j + c))
        let N' := sum3 (fun j => (g (3 * j + c)).mul (g (9 + j)))
        roundQuot fp32 0 false (((N'.mul S).sub (N.mul S')).mul n2) (S.mul S)
      (roundQuot fp32 0 false N S, deriv 0, deriv 1)

end Sys2Proof.Machine
end

