-- ==== Sys2Proof/Machine/Ray.lean ====
section
/-! DEFINITION. Rays, splats and pixels: major 38 (08 R184 to R203, 23 R404, R409, 24 R427). The four vector-class forms
issue in VecIssue.lean; here stand their effects, and the scalar forms whole. -/

namespace Sys2Proof.Machine

/-! ### Scratch of a context, 8 bytes at a time -/

/-- n words of scratch (or of a check heat's shadow) from a; the context's held atomics on them come first (04 R85). -/
def State.scrRead (s : State) (k : Nat) (a : Nat) : Nat → Except Stop (List Byte)
  | 0 => .ok []
  | n + 1 => do
    let va : Word := BitVec.ofNat 64 a
    let p ← s.placeOf k (s.ctx k).st.chk false (Req.load 8) va
    s.relFree k p 8
    let b ← s.readPlace k p 8 va
    let t ← s.scrRead k (a + 8) n
    .ok (b ++ t)

/-- Bytes, a multiple of 8, written to scratch from a. -/
def State.scrWrite (s : State) (k : Nat) (a : Nat) (n : Nat) (b : List Byte) : Except Stop State :=
  match n with
  | 0 => .ok s
  | n + 1 => do
    let va : Word := BitVec.ofNat 64 a
    let p ← s.placeOf k (s.ctx k).st.chk false (Req.store 8) va
    s.relFree k p 8
    let s ← s.writePlace k p (b.take 8) va
    s.scrWrite k (a + 8) n (b.drop 8)

/-- 32-bit little-endian values of bytes. -/
def words32 : Nat → List Byte → List Nat
  | 0, _ => []
  | n + 1, b => leNat (b.take 4) :: words32 n (b.drop 4)

/-! ### RAYTRI and RAYBOX -/

/-- The eight codes of lane i of V(a) to V(a + 7). -/
def rayLane (x : Ctx) (a : BitVec 5) (i : Nat) : List Nat := (List.range 8).map (fun j => lane (x.v (regUp a j)) i)

def State.rayTriEffect (s : State) (k : Nat) (d a : BitVec 5) (m : BitVec 3) (addr : Word) : Except Stop State := do
  let x := s.ctx k
  let b ← s.scrRead k addr.toNat 8
  let s := s.scrTouch k addr.toNat 64
  let tri := words32 9 b
  let hit := fun i => rayTri (rayLane x a i) tri
  let y := x.setV d (lanesOf (x.m m) (x.v d) (fun i => (hit i).elim 0x7F800000 (fun h => h.1)))
  let y := y.setV (regUp d 1) (lanesOf (x.m m) (x.v (regUp d 1)) (fun i => (hit i).elim 0 (fun h => h.2.1)))
  .ok (s.setCtx k (y.setV (regUp d 2) (lanesOf (x.m m) (x.v (regUp d 2)) (fun i => (hit i).elim 0 (fun h => h.2.2)))))

def State.rayBoxEffect (s : State) (k : Nat) (d a : BitVec 5) (m : BitVec 3) (addr : Word) : Except Stop State := do
  let x := s.ctx k
  let b ← s.scrRead k addr.toNat 3
  let s := s.scrTouch k addr.toNat 24
  .ok (s.setCtx k (x.setV d (lanesOf (x.m m) (x.v d) (fun i => (rayBox (rayLane x a i) (words32 6 b)).getD 0x7F800000))))

/-! ### RAYHIT (08 R189, 23 R409; "deterministic access" before "heat impure" by 15 R317) -/

def execRayhit (d a b : BitVec 5) (s : State) : Host.Outcome State Fault Refusal :=
  s.out (do
    let key := s.cx.s b
    let va := s.cx.s a
    need (!(s.cx.isWork && va.toNat % 8 = 0 && canonical va && spaceOf va ≠ .scratch)) (czAt 0x2C va)
    need (!(s.cx.st.pure && d ≠ 0)) (cz 0x50)
    let _ ← s.reach s.cur (Req.atomic 8 false) va
    let t := bits key 63 32
    if 0x80000000 ≤ t || (t / 0x800000 = 0xFF && t % 0x800000 ≠ 0) then .ok (s.wr 4 d key)
    else s.atomic va { place := .shadow 0, va := va, user := false, ord := 0, wide := true, op := 7, cas := false, v := key.toNat, e := 0, d := d } 0)

/-! ### ATTR and PXOUT -/

def State.attrEffect (s : State) (k : Nat) (d a : BitVec 5) (addr e7 : Word) : Except Stop State := do
  let x := s.ctx k
  let b ← s.scrRead k addr.toNat 6
  let s := s.scrTouch k addr.toNat 48
  let res := fun i => attrLane (pixelSet e7 (lane (x.v a) i)) (words32 12 b)
  let all : Byte := 255
  let y := x.setV d (lanesOf all (x.v d) (fun i => (res i).1.1))
  let y := y.setV (regUp d 1) (lanesOf all (x.v (regUp d 1)) (fun i => (res i).2.1.1))
  let y := y.setV (regUp d 2) (lanesOf all (x.v (regUp d 2)) (fun i => (res i).2.2.1))
  .ok (s.setCtx k (y.orFlags ((List.range 8).foldl (fun f i => f ||| (res i).1.2 ||| (res i).2.1.2 ||| (res i).2.2.2) 0)))

/-- The byte of a pixel of the target in its tile (08 R199). -/
def pixelByte (e7 : Word) (p : Nat × Nat) : Nat := 8 * (16 * (p.2 - fy0 e7) + (p.1 - fx0 e7))

/-- One pixel of 8 bytes written at several places. -/
def State.pixelsWrite (s : State) (k base : Nat) (e7 : Word) (b : List Byte) : List (Nat × Nat) → Except Stop State
  | [] => .ok s
  | p :: t => do
    let s ← s.scrWrite k (base + pixelByte e7 p) 1 b
    s.pixelsWrite k base e7 b t

/-- The lanes in ascending order, with the flags of their conversions. -/
def State.pxLanes (s : State) (k base : Nat) (e7 : Word) (px : Nat → List (Nat × Nat)) (rgba : Nat → List FRes) :
    List Nat → Except Stop State
  | [] => .ok s
  | i :: t => do
    if (px i).isEmpty then s.pxLanes k base e7 px rgba t
    else
      let s ← s.pixelsWrite k base e7 ((rgba i).flatMap (fun c => leBytes 2 c.1)) (px i)
      let x := s.ctx k
      (s.setCtx k (x.orFlags ((rgba i).foldl (fun f c => f ||| c.2) 0))).pxLanes k base e7 px rgba t

/-- The spec names no rounding mode for PXOUT's conversions: nearest-even, or FRM (notes/assumptions/10.md, DESIGN CHOICE). -/
def pxMode (frm : BitVec 2) : Nat := if Config.pxoutFrm then frm.toNat else 0

def State.pxoutEffect (s : State) (k : Nat) (a b : BitVec 5) (tile e7 : Word) (frm : BitVec 2) : Except Stop State :=
  let x := s.ctx k
  let mode := pxMode frm
  do
  s.storeFree k (2 ^ 20)
  s.pxLanes k tile.toNat e7 (fun i => pixelSet e7 (lane (x.v b) i))
    (fun i => (List.range 4).map (fun c => cvtFF fp32 fp16 mode true (lane (x.v (regUp a c)) i))) (List.range 8)

/-! ### Splats: issue -/

def spCap (e6 : Word) : Nat := bits e6 63 48
def spTmp (e6 : Word) : Nat := bits e6 31 16
def spList (e6 : Word) : Nat := bits e6 15 0

/-- The checks on E(6) of 24 Table 24-3. -/
def State.splatAreas (s : State) (e6 : Word) : Bool :=
  let n := 32 * spCap e6
  spCap e6 ≠ 0 && spCap e6 ≤ 1024 && spTmp e6 % 32 = 0 && spList e6 % 32 = 0 &&
    s.inScratch s.curCore (spTmp e6) n && s.inScratch s.curCore (spList e6) n &&
    (spTmp e6 + n ≤ spList e6 || spList e6 + n ≤ spTmp e6)

/-- A splat command of the current context: once the unit has completed it, its result goes to d and the context moves on;
before that `f` checks and queues it, an access to scratch waiting for a WAYS first (03 Table 3-3). -/
def State.splatWord (s : State) (d : Option (BitVec 5)) (f : Except Stop State) : Except Stop State :=
  match s.resumed with
  | some v =>
    .ok (match d with
      | some d => s.forget.wr 4 d (BitVec.ofNat 64 v)
      | none => s.forget.skip 4)
  | none => do
    s.waysFree s.cur 0
    f

/-- A command put behind those of earlier clocks and of lower cores in its clock (08 R185). -/
def splatInsert (c : SplatCmd) : List SplatCmd → List SplatCmd
  | [] => [c]
  | h :: t => if h.clock = c.clock ∧ c.key / 4 < h.key / 4 then c :: h :: t else h :: splatInsert c t

/-- A splat command waits for its context's earlier vector words and the operations it has held (04 R85, Table 4-5), joins the
cluster's queue and keeps the context Blocked until it has completed. -/
def State.splat (s : State) (i : Instr) (x y z : Word) : Except Stop State := do
  await (!s.vbusy s.cur && s.cx.seqr.isNone && s.cx.deferred.isNone) .vector
  s.engineFree s.cur
  let h := cluOf s.curCore
  let u := s.clu h
  if u.splats.any (fun c => c.key = s.cur && c.pc = s.cx.pc) then .ok (s.block .splat)
  else
    let c : SplatCmd := { key := s.cur, pc := s.cx.pc, instr := i, x := x, y := y, z := z, e6 := s.cx.e 6, e7 := s.cx.e 7, clock := s.clock }
    .ok ((s.setClu h { u with splats := splatInsert c u.splats }).block .splat)

def execSpsort (a : BitVec 5) (s : State) : Host.Outcome State Fault Refusal :=
  s.out (s.splatWord none (do
    let n := s.cx.s a
    need (s.splatAreas (s.cx.e 6)) (cz 0x41)
    need (n.toNat ≤ spCap (s.cx.e 6)) (cz 0x41)
    s.splat (.spsort a) n 0 0))

def execSpsortG (d a b : BitVec 5) (s : State) : Host.Outcome State Fault Refusal :=
  s.out (s.splatWord (some d) (do
    let n := s.cx.s b
    let r := s.cx.s a
    let c := s.cx.s d
    need (bits c 62 32 = 0) (cz 0x02)
    need (frameOk (s.cx.e 7)) (cz 0x41)
    need (s.splatAreas (s.cx.e 6)) (cz 0x41)
    need (bits c 31 0 ≤ spCap (s.cx.e 6)) (cz 0x41)
    need (r.toNat % 32 = 0) (czAt 0x20 r)
    need (s.inScratch s.curCore r.toNat (32 * n.toNat)) (czAt 0x21 r)
    s.splat (.spsortG d a b) r n c))

def execSpcomp (d a b : BitVec 5) (s : State) : Host.Outcome State Fault Refusal :=
  s.out (s.splatWord (some d) (do
    let n := s.cx.s a
    let t := s.cx.s b
    need (frameOk (s.cx.e 7)) (cz 0x41)
    need (s.splatAreas (s.cx.e 6)) (cz 0x41)
    need (n.toNat ≤ spCap (s.cx.e 6)) (cz 0x41)
    need (t.toNat % 2048 = 0) (czAt 0x20 t)
    need (s.inScratch s.curCore t.toNat 2048) (czAt 0x21 t)
    s.splat (.spcomp d a b) n t 0))

/-! ### Splats: what the splat unit does -/

/-- The splat records from a. -/
def State.spRecords (s : State) (k a : Nat) : Nat → Except Stop (List (List Byte))
  | 0 => .ok []
  | n + 1 => do
    let r ← s.scrRead k a 4
    let t ← s.spRecords k (a + 32) n
    .ok (r :: t)

/-- Field of a splat record: the 32-bit value at a byte. -/
def spWord (r : List Byte) (o : Nat) : Nat := leNat ((r.drop o).take 4)
def spByte (r : List Byte) (o : Nat) : Nat := leNat ((r.drop o).take 1)

/-- A record meets the tile of E(7) (08 R191). -/
def spInTile (e7 : Word) (r : List Byte) : Bool :=
  let depth := spWord r 28
  let rad : Dy := Dy.ofInt (spByte r 27)
  let axis := fun (c o : Nat) => match dyOf c with
    | some v => (Dy.ofInt o).le (v.add rad) && (v.sub rad).lt (Dy.ofInt (o + 16))
    | none => false
  depth < 0x7F800000 && axis (spWord r 0) (fx0 e7) && axis (spWord r 4) (fy0 e7)

/-- The gather: records copied, their count and the overflow flag. -/
def State.spGather (s : State) (k : Nat) (e6 e7 : Word) (src : Nat) (count : Nat) (ovf : Bool) : Nat → Except Stop (State × Nat × Bool)
  | 0 => .ok (s, count, ovf)
  | n + 1 => do
    let r ← s.scrRead k src 4
    let s := s.scrTouch k src 32
    if spInTile e7 r then
      if count < spCap e6 then do
        let s ← s.scrWrite k (spList e6 + 32 * count) 4 r
        s.spGather k e6 e7 (src + 32) (count + 1) ovf n
      else s.spGather k e6 e7 (src + 32) count true n
    else s.spGather k e6 e7 (src + 32) count ovf n

/-- A record put after those whose digit is not above its own. -/
def recInsert (d : Nat) (r : List Byte) : List (Nat × List Byte) → List (Nat × List Byte)
  | [] => [(d, r)]
  | (e, q) :: t => if d < e then (d, r) :: (e, q) :: t else (e, q) :: recInsert d r t

/-- One stable pass over byte p of DEPTH. -/
def spPass (p : Nat) (l : List (List Byte)) : List (List Byte) :=
  (l.foldl (fun acc r => recInsert (spWord r 28 / 256 ^ p % 256) r acc) []).map Prod.snd

/-- The sort: TMP holds the third pass, LIST the fourth. -/
def State.spSort (s : State) (k : Nat) (e6 : Word) (n : Nat) : Except Stop State := do
  let l ← s.spRecords k (spList e6) n
  let s := s.scrTouch k (spList e6) (32 * n)
  let p3 := spPass 2 (spPass 1 (spPass 0 l))
  let s ← s.scrWrite k (spTmp e6) (4 * n) p3.flatten
  s.scrWrite k (spList e6) (4 * n) (spPass 3 p3).flatten

/-- An FP32 value with the flags gathered so far. -/
structure Px where
  t : Nat
  r : Nat
  g : Nat
  b : Nat
  f : BitVec 5
  deriving DecidableEq, Repr

/-- One splat over one pixel, in the order of 08 R193. -/
def spBlend (xc yc : Nat) (p : Px) (rec : List Byte) : Px :=
  let c16 := fun (o : Nat) => cvtFF fp16 fp32 0 false (leNat ((rec.drop o).take 2))
  let dx := fSub 0 xc (spWord rec 0)
  let dy := fSub 0 yc (spWord rec 4)
  let a1 := fMul 0 (spWord rec 8) dx.1
  let a2 := fMul 0 a1.1 dx.1
  let b1 := fMul 0 (spWord rec 12) dx.1
  let b2 := fMul 0 b1.1 dy.1
  let ab := fAdd 0 a2.1 b2.1
  let c1 := fMul 0 (spWord rec 16) dy.1
  let c2 := fMul 0 c1.1 dy.1
  let q := fAdd 0 ab.1 c2.1
  let op := fDiv 0 (roundDy fp32 0 false false (Dy.ofInt (spByte rec 26))).1 0x437F0000
  let ex := fExp2 (if q.1 < 0x80000000 then q.1 + 0x80000000 else q.1 - 0x80000000)
  let al := fMul 0 op.1 ex.1
  let cut := (fCmp 1 0x3F7F0000 al.1).1
  let alp := if cut then 0x3F7F0000 else al.1
  let f := p.f ||| dx.2 ||| dy.2 ||| a1.2 ||| a2.2 ||| b1.2 ||| b2.2 ||| ab.2 ||| c1.2 ||| c2.2 ||| q.2 ||| op.2 ||| ex.2 ||| al.2
  if (fCmp 2 0x3B800000 alp).1 then
    let w := fMul 0 p.t alp
    let mix := fun (c o : Nat) =>
      let h := c16 o
      let m := fMul 0 w.1 h.1
      let a := fAdd 0 c m.1
      (a.1, h.2 ||| m.2 ||| a.2)
    let r := mix p.r 20
    let g := mix p.g 22
    let b := mix p.b 24
    let om := fSub 0 0x3F800000 alp
    let t := fMul 0 p.t om.1
    { t := t.1, r := r.1, g := g.1, b := b.1, f := f ||| w.2 ||| r.2 ||| g.2 ||| b.2 ||| om.2 ||| t.2 }
  else { p with f := f }

/-- The splats in order while T is at least the threshold, as R193's loop says, also for a negative T under a threshold of +0 or below
(notes/assumptions/120.md). DESIGN CHOICE. -/
def spBlendAll (stop xc yc : Nat) : List (List Byte) → Px → Px
  | [], p => p
  | r :: t, p =>
    let go := fCmp 2 stop p.t
    if go.1 then spBlendAll stop xc yc t (spBlend xc yc { p with f := p.f ||| go.2 } r) else { p with f := p.f ||| go.2 }

/-- A pixel centre as FP32. -/
def centre (x : Nat) : Nat := (roundDy fp32 0 false false { m := 2 * x + 1, e := -1 }).1

/-- The pixels composited one by one: the state and the number stopped. -/
def State.spPixels (s : State) (k tile : Nat) (e7 : Word) (stop : Nat) (recs : List (List Byte)) (count : Nat) :
    List (Nat × Nat) → Except Stop (State × Nat)
  | [] => .ok (s, count)
  | p :: t => do
    let a := tile + pixelByte e7 p
    let b ← s.scrRead k a 1
    let s := s.scrTouch k a 8
    let ch := fun (i : Nat) => cvtFF fp16 fp32 0 false (leNat ((b.drop (2 * i)).take 2))
    let t0 := fSub 0 0x3F800000 (ch 3).1
    let z := spBlendAll stop (centre p.1) (centre p.2) recs
      { t := t0.1, r := (ch 0).1, g := (ch 1).1, b := (ch 2).1, f := (ch 0).2 ||| (ch 1).2 ||| (ch 2).2 ||| (ch 3).2 ||| t0.2 }
    let al := fSub 0 0x3F800000 z.t
    let out := [z.r, z.g, z.b, al.1].map (fun v => cvtFF fp32 fp16 0 false v)
    let s ← s.scrWrite k a 1 (out.flatMap (fun c => leBytes 2 c.1))
    let x := s.ctx k
    let s := s.setCtx k (x.orFlags (out.foldl (fun f c => f ||| c.2) (z.f ||| al.2)))
    s.spPixels k tile e7 stop recs (if (fCmp 1 z.t stop).1 then count + 1 else count) t

/-- The fine pixels of the tile inside the target. -/
def tilePixels (e7 : Word) : List (Nat × Nat) :=
  ((List.range 256).map (fun i => (fx0 e7 + i % 16, fy0 e7 + i / 16))).filter (fun p => p.1 < ftw e7 && p.2 < fth e7)

/-- A splat command performed: the state and its result. Every record is read once, before the first pixel is written, also where
the list meets the tile (notes/assumptions/120.md). DESIGN CHOICE. -/
def State.splatEffect (s : State) (c : SplatCmd) : Except Stop (State × Nat) :=
  match c.instr with
  | .spsort _ => do
    let t ← s.spSort c.key c.e6 c.x.toNat
    .ok (t, 0)
  | .spsortG _ _ _ => do
    let (t, n, o) ← s.spGather c.key c.e6 c.e7 c.x.toNat (bits c.z 31 0) (bit c.z 63) c.y.toNat
    .ok (t, n + (if o then 2 ^ 63 else 0))
  | .spcomp _ _ _ => do
    let recs ← s.spRecords c.key (spList c.e6) c.x.toNat
    let s := s.scrTouch c.key (spList c.e6) (32 * c.x.toNat)
    s.spPixels c.key c.y.toNat c.e7 ((s.ctx c.key).opstop.toNat % 0x100000000) recs 0 (tilePixels c.e7)
  | _ => .ok (s, 0)

/-- The splat unit performs its oldest command; the context may then go on (08 R185). -/
def execSplatCommandPerform (clu : Nat) (s : State) : Host.Outcome State Fault Refusal :=
  let u := s.clu clu
  match u.splats with
  | [] => .next s
  | c :: t =>
    let s0 := s.setClu clu { u with splats := t }
    match s0.splatEffect c with
    | .ok (s1, v) =>
      let x := s1.ctx c.key
      .next (s1.setCtx c.key { x with resume := SMap.set x.resume c.pc.toNat v })
    | .error (.trap z) => .next (if s.vbusy c.key then s else s0.takeTrap c.key c.pc z 0 0)
    | .error .escape => .next (s0.escapeHeat c.key 0x5A)
    | .error .unverifiable => .next (s0.escapeHeat c.key 0x5B)
    | .error (.block _) => .next s

/-! ### FRSEND (08 R200, 23 R383) -/

def frFrame (d : Word) : Nat := bits d 63 32
def frStream (d : Word) : Nat := bits d 26 24

def State.stream (s : State) (die n : Nat) : Stream := ((s.die die).streams[n]?).getD Stream.reset
def State.setStream (s : State) (die n : Nat) (v : Stream) : State :=
  let d := s.die die
  s.setDie die { d with streams := d.streams.set! n v }

/-- The descriptor names an enabled stream and no reserved bit. -/
def State.frDescOk (s : State) (die : Nat) (d : Word) : Bool :=
  bits d 31 27 = 0 && bits d 23 18 = 0 && bit ((s.stream die (frStream d)).reg[0]) 63

def execFrsend (a b : BitVec 5) (s : State) : Host.Outcome State Fault Refusal :=
  s.out (do
    let t := s.cx.s a
    let d := s.cx.s b
    let die := dieOf s.curCore
    need (!s.cx.isWork) (cz 0x2C)
    need (t.toNat % 2048 = 0) (czAt 0x20 t)
    s.waysFree s.cur t
    need (s.inScratch s.curCore t.toNat 2048) (czAt 0x21 t)
    need (s.frDescOk die d) (cz 0x41)
    if s.cx.st.chk || s.resumed = some 1 then .ok (s.forget.skip 4)
    else do
      await (!s.vbusy s.cur && s.cx.seqr.isNone && s.cx.deferred.isNone) .vector
      let c := s.core s.curCore
      let q := s.die die
      s.scrOrdered s.cur t 2048
      await (!c.fqFrozen && s.mayBegin 4 die && q.fq.length < 64 && frFrame d < (s.stream die (frStream d)).closed + 2)
        (.encoder (frStream d) (frFrame d))
      match s.scrRead s.cur t.toNat 256 with
      | .ok data =>
        let s := s.scrTouch s.cur t.toNat 2048
        let f : FqTile := { key := s.cur, part := s.curPart, core := s.curCore, stream := frStream d, frame := frFrame d, ty := bits d 17 9, tx := bits d 8 0, data := data }
        .ok ((s.setDie die { q with fq := q.fq ++ [f], fqNum := q.fqNum + 1 }).skip 4)
      | .error (.trap z) =>
        let s := s.setCore s.curCore { c with fqFrozen := true }
        .ok ((s.postAsync s.cur s.cx.taskNum 9 { z with info := BitVec.ofNat 32 q.fqNum }).block (.encoder (frStream d) (frFrame d)))
      | .error e => .error e)

end Sys2Proof.Machine
end

