-- ==== Sys2Proof/Machine/Gang.lean ====
section
/-! DEFINITION. Gangs (02 R33 to R35, 23 R384, 24 R438). -/

namespace Sys2Proof.Machine

/-- The lowest-numbered Idle context of a core. -/
def State.idleCtx (s : State) (core : Nat) : Option Nat :=
  (List.range 4).find? (fun c => (s.ctx (core * 4 + c)).cs = .idle)

/-- The followers GANG takes: the lowest Idle context of each core at the next n - 1 positions. -/
def State.gangKeys (s : State) (core part : Nat) : Nat → Nat → Option (List Nat)
  | 0, _ => some []
  | n + 1, i =>
    let f := core + i
    if s.validCell (f / 4) && s.partOf f = part then
      match s.idleCtx f with
      | none => none
      | some c => (s.gangKeys core part n (i + 1)).map (fun t => (f * 4 + c) :: t)
    else none

/-- A follower as the gang forms: Held, with the leader's registers, task and status. -/
def Ctx.follow (old leader : Ctx) (pc : Word) (g : GangRole) (d : BitVec 5) : Ctx :=
  ({ old with cs := .held, pc := pc, sreg := leader.sreg, vreg := leader.vreg, mreg := leader.mreg, ereg := leader.ereg,
              st := leader.st, tvec := leader.tvec, wid := leader.wid, widw := leader.widw, tenant := leader.tenant,
              deadl := leader.deadl, keyh := leader.keyh, opstop := leader.opstop, loops := leader.loops,
              task := leader.task.map (fun t => { t with follower := true }), gang := some g } : Ctx).setS d (BitVec.ofNat 64 g.member)

/-- The followers taken one by one. -/
def State.takeFollowers (s : State) (leader : Ctx) (pc : Word) (keys : List Nat) (d : BitVec 5) : List Nat → Nat → State
  | [], _ => s
  | f :: t, i =>
    (s.setCtx f ((s.ctx f).follow leader pc { leader := s.cur, member := i, members := keys, wait := none } d)).takeFollowers leader pc keys d t (i + 1)

def execGang (d : BitVec 5) (n : BitVec 6) (s : State) : Host.Outcome State Fault Refusal :=
  s.out (do
    need (n = 2 || n = 4 || n = 8) (cz 0x02)
    need (s.cx.gang.isNone) (cz 0x02)
    need (!s.cx.isWork) (cz 0x2C)
    need (!s.cx.st.pure) (cz 0x50)
    await (!s.vbusy s.cur && s.cx.seqr.isNone && s.cx.deferred.isNone) .vector
    await s.cx.relq.isEmpty .atomic
    await s.cx.pendR.isEmpty (.regs s.cx.pendR)
    let fail := s.wr 4 d (-1)
    if 8 < s.curCore % 8 + n.toNat then .ok fail
    else match s.gangKeys s.curCore s.curPart (n.toNat - 1) 1 with
    | none => .ok fail
    | some fs =>
      let keys := s.cur :: fs
      let x := s.cx
      let t := s.wr 4 d 0
      let t := t.setCx { t.cx with gang := some { leader := s.cur, member := 0, members := keys, wait := none } }
      .ok (t.takeFollowers { x with loops := t.cx.loops } t.cx.pc keys d fs 1))

def execUngang (s : State) : Host.Outcome State Fault Refusal :=
  s.out (do
    need (s.cx.gang.isSome) (cz 0x02)
    .ok ((s.disband s.cur).skip 4))

end Sys2Proof.Machine
end

