-- ==== Sys2Proof/Machine/VecIssue.lean ====
section
/-! DEFINITION. The vector queue: how a vector-class word issues, and how the vector unit performs the oldest one
(02 R25 to R27, 24 R439, 12 R263). -/

namespace Sys2Proof.Machine

/-! ### Issue -/

/-- A vector-class word that names its core's scratch at issue. -/
def scratchForm : Instr → Bool
  | .raytri .. | .raybox .. | .attr .. | .pxout .. => true
  | _ => false

/-- The checks made at issue, x and y being the word's scalar operands. -/
def State.vecChecks (s : State) (k : Nat) (i : Instr) (x y : Word) : Except Stop Unit := do
  let c := s.ctx k
  need i.wellFormed (cz 0x02)
  await (!(scratchForm i && (s.core (k / 4)).ways.isSome)) (.ways (k / 4))
  match i with
  | .vcvt d a m => need (vcvtOk (c.e 5) d a m) (cz 0x02)
  | .vtab .. => need (vtabOk (c.e 6)) (cz 0x02)
  | .raytri .. => do
    need (y.toNat % 64 = 0) (czAt 0x20 y)
    need (s.inScratch (k / 4) y.toNat 64) (czAt 0x21 y)
  | .raybox .. => do
    need (y.toNat % 8 = 0) (czAt 0x20 y)
    need (s.inScratch (k / 4) y.toNat 24) (czAt 0x21 y)
  | .attr .. => do
    need (frameOk (c.e 7)) (cz 0x41)
    need (y.toNat % 16 = 0) (czAt 0x20 y)
    need (s.inScratch (k / 4) y.toNat 48) (czAt 0x21 y)
  | .pxout .. => do
    need (frameOk (c.e 7)) (cz 0x41)
    need (x.toNat % 2048 = 0) (czAt 0x20 x)
    need (s.inScratch (k / 4) x.toNat 2048) (czAt 0x21 x)
  | .vksend .. => need (!c.isWork) (cz 0x2C)
  | _ => .ok ()

/-- The scalar register a vector word writes. -/
def vecDst (i : Instr) : Option (BitVec 5) := (vecSpec i).bind (fun t => t.2.2)

/-- A register becomes pending; s0 never does. -/
def Ctx.pend (x : Ctx) (d : Option (BitVec 5)) : Ctx := match d with
  | some r => if r = 0 then x else { x with pendR := r :: x.pendR }
  | none => x
/-- A register's write is done. -/
def Ctx.unpend (x : Ctx) (d : Option (BitVec 5)) : Ctx := match d with
  | some r => { x with pendR := x.pendR.erase r }
  | none => x

/-- A vector-class word of context k enters the queue with the values it read (02 R25). -/
def State.vecPush (s : State) (k : Nat) (pc : Word) (i : Instr) (x y : Word) (fromSeq : Bool) : Except Stop State := do
  s.vecChecks k i x y
  let core := s.core (k / 4)
  await (core.vq.length < 8) .vq
  let c := s.ctx k
  let w : VWord := { key := k, pc := pc, instr := i, x := x, y := y, e5 := c.e 5, e6 := c.e 6, e7 := c.e 7,
                     frm := c.st.frm, krb := core.krb0, fromSeq := fromSeq }
  .ok ((s.setCore (k / 4) { core with vq := core.vq ++ [w] }).setCtx k (c.pend (vecDst i)))

/-- The current context issues a vector-class word. -/
def State.vecExec (s : State) (i : Instr) : Host.Outcome State Fault Refusal :=
  s.out (do
    let f := (vecSpec i).getD (none, none, none)
    let t ← s.vecPush s.cur s.cx.pc i (s.cx.so f.1) (s.cx.so f.2.1) false
    .ok (t.skip 4))

def execVaddF32 (d a b : BitVec 5) (k : BitVec 3) (s : State) : Host.Outcome State Fault Refusal := s.vecExec (.vaddF32 d a b k)
def execVsubF32 (d a b : BitVec 5) (k : BitVec 3) (s : State) : Host.Outcome State Fault Refusal := s.vecExec (.vsubF32 d a b k)
def execVmulF32 (d a b : BitVec 5) (k : BitVec 3) (s : State) : Host.Outcome State Fault Refusal := s.vecExec (.vmulF32 d a b k)
def execVfma (d a b : BitVec 5) (k : BitVec 3) (s : State) : Host.Outcome State Fault Refusal := s.vecExec (.vfma d a b k)
def execVminF32 (d a b : BitVec 5) (k : BitVec 3) (s : State) : Host.Outcome State Fault Refusal := s.vecExec (.vminF32 d a b k)
def execVmaxF32 (d a b : BitVec 5) (k : BitVec 3) (s : State) : Host.Outcome State Fault Refusal := s.vecExec (.vmaxF32 d a b k)
def execVabsF32 (d a : BitVec 5) (k : BitVec 3) (s : State) : Host.Outcome State Fault Refusal := s.vecExec (.vabsF32 d a k)
def execVcmpEqF32 (m : BitVec 3) (a b : BitVec 5) (k : BitVec 3) (s : State) : Host.Outcome State Fault Refusal := s.vecExec (.vcmpEqF32 m a b k)
def execVcmpLtF32 (m : BitVec 3) (a b : BitVec 5) (k : BitVec 3) (s : State) : Host.Outcome State Fault Refusal := s.vecExec (.vcmpLtF32 m a b k)
def execVcmpLeF32 (m : BitVec 3) (a b : BitVec 5) (k : BitVec 3) (s : State) : Host.Outcome State Fault Refusal := s.vecExec (.vcmpLeF32 m a b k)
def execVcmpNeF32 (m : BitVec 3) (a b : BitVec 5) (k : BitVec 3) (s : State) : Host.Outcome State Fault Refusal := s.vecExec (.vcmpNeF32 m a b k)
def execVrcp (d a : BitVec 5) (k : BitVec 3) (s : State) : Host.Outcome State Fault Refusal := s.vecExec (.vrcp d a k)
def execVrsq (d a : BitVec 5) (k : BitVec 3) (s : State) : Host.Outcome State Fault Refusal := s.vecExec (.vrsq d a k)
def execVexp2 (d a : BitVec 5) (k : BitVec 3) (s : State) : Host.Outcome State Fault Refusal := s.vecExec (.vexp2 d a k)
def execVlog2 (d a : BitVec 5) (k : BitVec 3) (s : State) : Host.Outcome State Fault Refusal := s.vecExec (.vlog2 d a k)
def execVredAddF32 (d a : BitVec 5) (k : BitVec 3) (s : State) : Host.Outcome State Fault Refusal := s.vecExec (.vredAddF32 d a k)
def execVredMinF32 (d a : BitVec 5) (k : BitVec 3) (s : State) : Host.Outcome State Fault Refusal := s.vecExec (.vredMinF32 d a k)
def execVredMaxF32 (d a : BitVec 5) (k : BitVec 3) (s : State) : Host.Outcome State Fault Refusal := s.vecExec (.vredMaxF32 d a k)
def execVscanAddF32 (d a : BitVec 5) (k : BitVec 3) (s : State) : Host.Outcome State Fault Refusal := s.vecExec (.vscanAddF32 d a k)
def execVscanMinF32 (d a : BitVec 5) (k : BitVec 3) (s : State) : Host.Outcome State Fault Refusal := s.vecExec (.vscanMinF32 d a k)
def execVscanMaxF32 (d a : BitVec 5) (k : BitVec 3) (s : State) : Host.Outcome State Fault Refusal := s.vecExec (.vscanMaxF32 d a k)
def execVtab (d a : BitVec 5) (k : BitVec 3) (s : State) : Host.Outcome State Fault Refusal := s.vecExec (.vtab d a k)
def execVcvt (d a : BitVec 5) (k : BitVec 3) (s : State) : Host.Outcome State Fault Refusal := s.vecExec (.vcvt d a k)
def execVadd (d a b : BitVec 5) (k : BitVec 3) (e : BitVec 2) (s : State) : Host.Outcome State Fault Refusal := s.vecExec (.vadd d a b k e)
def execVsub (d a b : BitVec 5) (k : BitVec 3) (e : BitVec 2) (s : State) : Host.Outcome State Fault Refusal := s.vecExec (.vsub d a b k e)
def execVmul (d a b : BitVec 5) (k : BitVec 3) (e : BitVec 2) (s : State) : Host.Outcome State Fault Refusal := s.vecExec (.vmul d a b k e)
def execVmin (d a b : BitVec 5) (k : BitVec 3) (e : BitVec 2) (s : State) : Host.Outcome State Fault Refusal := s.vecExec (.vmin d a b k e)
def execVmax (d a b : BitVec 5) (k : BitVec 3) (e : BitVec 2) (s : State) : Host.Outcome State Fault Refusal := s.vecExec (.vmax d a b k e)
def execVminU (d a b : BitVec 5) (k : BitVec 3) (e : BitVec 2) (s : State) : Host.Outcome State Fault Refusal := s.vecExec (.vminU d a b k e)
def execVmaxU (d a b : BitVec 5) (k : BitVec 3) (e : BitVec 2) (s : State) : Host.Outcome State Fault Refusal := s.vecExec (.vmaxU d a b k e)
def execVabs (d a : BitVec 5) (k : BitVec 3) (e : BitVec 2) (s : State) : Host.Outcome State Fault Refusal := s.vecExec (.vabs d a k e)
def execVand (d a b : BitVec 5) (k : BitVec 3) (s : State) : Host.Outcome State Fault Refusal := s.vecExec (.vand d a b k)
def execVor (d a b : BitVec 5) (k : BitVec 3) (s : State) : Host.Outcome State Fault Refusal := s.vecExec (.vor d a b k)
def execVxor (d a b : BitVec 5) (k : BitVec 3) (s : State) : Host.Outcome State Fault Refusal := s.vecExec (.vxor d a b k)
def execVshl (d a b : BitVec 5) (k : BitVec 3) (e : BitVec 2) (s : State) : Host.Outcome State Fault Refusal := s.vecExec (.vshl d a b k e)
def execVshr (d a b : BitVec 5) (k : BitVec 3) (e : BitVec 2) (s : State) : Host.Outcome State Fault Refusal := s.vecExec (.vshr d a b k e)
def execVsha (d a b : BitVec 5) (k : BitVec 3) (e : BitVec 2) (s : State) : Host.Outcome State Fault Refusal := s.vecExec (.vsha d a b k e)
def execVpopc (d a : BitVec 5) (k : BitVec 3) (s : State) : Host.Outcome State Fault Refusal := s.vecExec (.vpopc d a k)
def execVcmpEq (m : BitVec 3) (a b : BitVec 5) (k : BitVec 3) (e : BitVec 2) (s : State) : Host.Outcome State Fault Refusal := s.vecExec (.vcmpEq m a b k e)
def execVcmpNe (m : BitVec 3) (a b : BitVec 5) (k : BitVec 3) (e : BitVec 2) (s : State) : Host.Outcome State Fault Refusal := s.vecExec (.vcmpNe m a b k e)
def execVcmpLt (m : BitVec 3) (a b : BitVec 5) (k : BitVec 3) (e : BitVec 2) (s : State) : Host.Outcome State Fault Refusal := s.vecExec (.vcmpLt m a b k e)
def execVcmpLe (m : BitVec 3) (a b : BitVec 5) (k : BitVec 3) (e : BitVec 2) (s : State) : Host.Outcome State Fault Refusal := s.vecExec (.vcmpLe m a b k e)
def execVcmpLtU (m : BitVec 3) (a b : BitVec 5) (k : BitVec 3) (e : BitVec 2) (s : State) : Host.Outcome State Fault Refusal := s.vecExec (.vcmpLtU m a b k e)
def execVcmpLeU (m : BitVec 3) (a b : BitVec 5) (k : BitVec 3) (e : BitVec 2) (s : State) : Host.Outcome State Fault Refusal := s.vecExec (.vcmpLeU m a b k e)
def execVsel (d a b : BitVec 5) (k : BitVec 3) (s : State) : Host.Outcome State Fault Refusal := s.vecExec (.vsel d a b k)
def execVperm (d a b : BitVec 5) (k : BitVec 3) (s : State) : Host.Outcome State Fault Refusal := s.vecExec (.vperm d a b k)
def execVextr (d a b : BitVec 5) (s : State) : Host.Outcome State Fault Refusal := s.vecExec (.vextr d a b)
def execVbcast (d a : BitVec 5) (k : BitVec 3) (s : State) : Host.Outcome State Fault Refusal := s.vecExec (.vbcast d a k)
def execVsort (d a b : BitVec 5) (k : BitVec 3) (s : State) : Host.Outcome State Fault Refusal := s.vecExec (.vsort d a b k)
def execVredAdd (d a : BitVec 5) (k : BitVec 3) (s : State) : Host.Outcome State Fault Refusal := s.vecExec (.vredAdd d a k)
def execVredMin (d a : BitVec 5) (k : BitVec 3) (s : State) : Host.Outcome State Fault Refusal := s.vecExec (.vredMin d a k)
def execVredMax (d a : BitVec 5) (k : BitVec 3) (s : State) : Host.Outcome State Fault Refusal := s.vecExec (.vredMax d a k)
def execVscanAdd (d a : BitVec 5) (k : BitVec 3) (s : State) : Host.Outcome State Fault Refusal := s.vecExec (.vscanAdd d a k)
def execVredOr (d a : BitVec 5) (k : BitVec 3) (s : State) : Host.Outcome State Fault Refusal := s.vecExec (.vredOr d a k)
def execVredAnd (d a : BitVec 5) (k : BitVec 3) (s : State) : Host.Outcome State Fault Refusal := s.vecExec (.vredAnd d a k)
def execVld (d a b : BitVec 5) (k : BitVec 3) (s : State) : Host.Outcome State Fault Refusal := s.vecExec (.vld d a b k)
def execVst (v a b : BitVec 5) (k : BitVec 3) (s : State) : Host.Outcome State Fault Refusal := s.vecExec (.vst v a b k)
def execVldx (d a b : BitVec 5) (k : BitVec 3) (e : BitVec 2) (s : State) : Host.Outcome State Fault Refusal := s.vecExec (.vldx d a b k e)
def execVstx (v a b : BitVec 5) (k : BitVec 3) (e : BitVec 2) (s : State) : Host.Outcome State Fault Refusal := s.vecExec (.vstx v a b k e)
def execRaytri (d a b : BitVec 5) (k : BitVec 3) (s : State) : Host.Outcome State Fault Refusal := s.vecExec (.raytri d a b k)
def execRaybox (d a b : BitVec 5) (k : BitVec 3) (s : State) : Host.Outcome State Fault Refusal := s.vecExec (.raybox d a b k)
def execAttr (d a b : BitVec 5) (s : State) : Host.Outcome State Fault Refusal := s.vecExec (.attr d a b)
def execPxout (d a b : BitVec 5) (s : State) : Host.Outcome State Fault Refusal := s.vecExec (.pxout d a b)
def execVksend (a b : BitVec 5) (k : BitVec 3) (s : State) : Host.Outcome State Fault Refusal := s.vecExec (.vksend a b k)

/-- Every earlier vector-class word of the context has completed, its sequencer's words and their faults included
(02 R26, 24 R446). -/
def State.vecDone (s : State) (k : Nat) : Bool :=
  !s.vbusy k && (s.ctx k).seqr.isNone && (s.ctx k).deferred.isNone

def execVfence (s : State) : Host.Outcome State Fault Refusal :=
  s.out (do
    await (s.vecDone s.cur) .vector
    .ok (s.skip 4))

def execCVfence (s : State) : Host.Outcome State Fault Refusal :=
  s.out (do
    await (s.vecDone s.cur) .vector
    .ok (s.skip 2))

/-! ### VKSEND (10 R219, R223) -/

/-- The rank that "rank invalid" names for a key without an owner; a free value where the registers give no rank. -/
def noOwnerInfo (krb0 : Word) (key free : Nat) : BitVec 32 :=
  if krbBs krb0 = 0 then (Config.freeWord free).setWidth 32 else BitVec.ofNat 32 (krbRbase krb0 + key / krbBs krb0)

/-- An update reaches the core of its owner, and waits there to be applied; from another die it carries a stamp (04 R87). -/
def State.putKey (s : State) (core : Nat) (u : KeyUpdate) : State :=
  let o := s.core core
  let src := dieOf (u.edge.elim (u.sender / 4) (fun c => 4 * c))
  let stamp := if src = dieOf core then none else some (s.nextStamp src)
  (s.setCore core { o with kin := o.kin ++ [{ u with stamp := stamp }] }).stampTo src (dieOf core)

/-- An update leaves the interface of a core for its owner's; a rank in transit holds it there (03 R69). -/
def State.sendKey (s : State) (core part : Nat) (krb0 : Word) (u : KeyUpdate) : Except Stop State :=
  match keyOwner krb0 u.key with
  | none => .error (.trap { code := 0x28, info := noOwnerInfo krb0 u.key s.free, va := 0 })
  | some r =>
    let u := { u with rank := r }
    match s.rankCore core part r 0 with
    | .ok c => .ok ((s.rankFill core part r).putKey (c % 2 ^ 18) u)
    | .error (.block _) =>
      let c := s.core core
      .ok (s.setCore core { c with held := c.held ++ [{ rank := r, off := 0, ctx := u.sender, task := u.task, act := .key u }] })
    | .error e => .error e

/-- Room in a core's interface for the updates of the keys whose owner is in transit (02 R44, 03 R69). -/
def State.keyRoom (s : State) (core part : Nat) (krb0 : Word) (keys : List Nat) : Bool :=
  let c := s.core core
  let wait := keys.filter (fun key => (keyOwner krb0 key).any (fun r => match s.rankCore core part r 0 with
    | .error (.block _) => true
    | _ => false))
  wait.isEmpty || decide (c.unsent.length + c.held.length + wait.length ≤ 8)

/-- A die where an operation that precedes an update of one of the keys has not been applied yet (04 R87). -/
def State.keyHold (s : State) (core part : Nat) (krb0 : Word) (keys : List Nat) : Option Nat :=
  keys.findSome? (fun key => (keyOwner krb0 key).bind (fun r => match s.rankCore core part r 0 with
    | .ok c => if s.mayArrive (dieOf core) (dieOf c) then none else some (dieOf c)
    | .error _ => none))

/-- The interface can take the updates of the keys. -/
def State.keysReady (s : State) (core part : Nat) (krb0 : Word) (keys : List Nat) : Except Stop Unit := do
  await (s.keyRoom core part krb0 keys) .message
  match s.keyHold core part krb0 keys with
  | some d => .error (.block (.hold d))
  | none => .ok ()

/-- The active lanes send in ascending order; a lane without an owner raises its cause and the others are sent. -/
def State.vkLanes (s : State) (w : VWord) (a b : BitVec 5) : List Nat → State
  | [] => s
  | i :: t =>
    let x := s.ctx w.key
    let u : KeyUpdate := { key := lane (x.v a) i, value := BitVec.ofNat 32 (lane (x.v b) i), rank := 0, sender := w.key,
                           task := x.taskNum, edge := none, stamp := none }
    match s.sendKey (w.key / 4) (s.partOf (w.key / 4)) w.krb u with
    | .ok s' => (s'.setCtx w.key ((s'.ctx w.key).addAck false)).vkLanes w a b t
    | .error (.trap c) => ((s.bump 1).postAsync w.key x.taskNum 1 c).vkLanes w a b t
    | .error _ => s.vkLanes w a b t

/-- Room under the module count for every lane of a VKSEND. -/
def State.vkEffect (s : State) (w : VWord) (a b : BitVec 5) (m : BitVec 3) : Except Stop State :=
  let x := s.ctx w.key
  let act := activeLanes (x.m m)
  if x.st.chk then .ok s
  else do
    await (x.modCnt + act.length ≤ 64) .ack
    s.keysReady (w.key / 4) (s.partOf (w.key / 4)) w.krb (act.map (fun i => lane (x.v a) i))
    .ok (s.vkLanes w a b act)

/-! ### Performing the oldest word -/

/-- The effect of a vector-class word; one that touches memory comes after a held .ar atomic. -/
def State.vecDo (s : State) (w : VWord) : Except Stop State := do
  if w.isMem then s.arFree w.key
  match w.instr with
  | .raytri d a _ m => s.rayTriEffect w.key d a m w.y
  | .raybox d a _ m => s.rayBoxEffect w.key d a m w.y
  | .attr d a _ => s.attrEffect w.key d a w.y w.e7
  | .pxout _ a b => s.pxoutEffect w.key a b w.x w.e7 w.frm
  | .vksend a b m => s.vkEffect w a b m
  | _ => s.vecEffect w

/-- A fault found in a vector word or at the sequencer's issue: no later vector word of the context changes state, its
sequencer stops, and the trap waits for the next instruction boundary (12 R263, 23 R414). -/
def State.deferFault (s : State) (k : Nat) (pc : Word) (c : CauseRec) : State :=
  let core := s.core (k / 4)
  let mine := core.vq.filter (fun w => w.key = k)
  let x := s.ctx k
  let x := mine.foldl (fun y w => y.unpend (vecDst w.instr)) x
  (s.setCore (k / 4) { core with vq := core.vq.filter (fun w => w.key ≠ k) }).setCtx k
    { x with seqr := none, deferred := some (pc, c) }

/-- The vector unit performs the oldest word of a core's queue; a WAYS in progress or a held XSEL on its bytes delays it
(03 Table 3-3, 06 R150). -/
def execVectorWordPerform (core : Nat) (s : State) : Host.Outcome State Fault Refusal :=
  let c := s.core core
  match c.vq with
  | [] => .next s
  | w :: t =>
    if (c.ways.isSome && w.isMem) || c.xsels.any (fun h => h.ctx = w.key % 4 && s.touches [] w (BitVec.ofNat 64 h.addr) 64) then .next s
    else
      let s0 := s.setCore core { c with vq := t }
      let done := fun (u : State) => u.setCtx w.key ((u.ctx w.key).unpend (vecDst w.instr))
      match s0.vecDo w with
      | .ok s1 => .next (done s1)
      | .error (.trap z) => .next ((done s0).deferFault w.key w.pc z)
      | .error (.block _) => .next s
      | .error .escape => .next ((done s0).escapeHeat w.key 0x5A)
      | .error .unverifiable => .next ((done s0).escapeHeat w.key 0x5B)

/-- A deferred fault is taken at the context's next instruction boundary, when every earlier vector word of the context
has completed (12 R263); in a gang the leader takes it. -/
def execDeferredTrap (key : Nat) (s : State) : Host.Outcome State Fault Refusal :=
  let x := s.ctx key
  match x.deferred with
  | none => .next s
  | some (pc, c) =>
    let owner := x.trapOwner key
    let ready := fun (st : CState) => match st with
      | .ready => true
      | .blocked _ => true
      | _ => false
    if !s.vbusy key && ready (s.ctx owner.1).cs && (ready x.cs || x.cs = .held) then
      let s := s.setCtx key { x with deferred := none }
      let s := (s.unwait owner.1).disband owner.1
      .next (s.takeTrap owner.1 pc c 1 owner.2)
    else .next s

end Sys2Proof.Machine
end

