-- ==== Sys2Proof/Machine/Matrix.lean ====
section
/-! DEFINITION. The matrix array: major 35 and the cell's mq (09, 05 R133 to R136). -/

namespace Sys2Proof.Machine

/-! ### Shapes (09 R208, R209) -/

/-- What an MMA or MDRAIN names: Tables 9-3 and 9-4, with the slot override of MMA sb applied. -/
structure MShape where
  fuse : Nat
  m : Nat
  n : Nat
  k : Nat
  fa : Nat
  fb : Nat
  ak0 : Nat
  bk0 : Nat
  aSlot : Nat
  bSlot : Nat
  outFmt : Nat
  z : Bool
  h : Nat
  deriving DecidableEq, Repr

def mshape (e0 e1 e2 : Word) (given : Option Word) : MShape :=
  let ab := match given with
    | some w => w
    | none => e1
  { fuse := bits e0 47 46, m := bits e0 45 40 + 1, n := bits e0 39 34 + 1, k := bits e0 33 25, fa := bits e0 24 21,
    fb := bits e0 20 17, ak0 := bits e1 33 25, bk0 := bits e1 24 16, aSlot := bits ab 7 4, bSlot := bits ab 3 0,
    outFmt := bits e2 11 8, z := bit e2 4, h := bits e2 0 0 }

/-- The largest M and N of a fuse mode (09 Table 9-5). -/
def fuseLimit (f : Nat) : Nat × Nat := match f with
  | 0 => (8, 32)
  | 1 => (16, 16)
  | 2 => (32, 8)
  | _ => (8, 8)

/-- Elements in a row of a format (09 R209). -/
def capOf (f : Nat) : Nat := match f with
  | 1 | 2 => 64
  | 3 | 4 | 5 => 128
  | _ => 256

/-- E(0) and E(2) as both forms read them. -/
def shapeOk (e0 e2 : Word) : Bool :=
  let lim := fuseLimit (bits e0 47 46)
  bits e0 45 40 < lim.1 && bits e0 39 34 < lim.2 && bits e0 33 25 ≤ 256 && bits e0 24 21 ≤ 6 && bits e0 20 17 ≤ 6 &&
    bits e0 16 0 = 0 && bits e2 63 12 = 0 && bits e2 7 5 = 0 && bits e2 3 1 = 0

/-- One output element: sub-array, index in its accumulator, A slot and row, B slot and row, output row and column
(09 Table 9-5). -/
structure MCell where
  u : Nat
  idx : Nat
  aOff : Nat
  aRow : Nat
  bOff : Nat
  bRow : Nat
  row : Nat
  col : Nat
  deriving DecidableEq, Repr

def mcell (fuse u i j : Nat) : MCell :=
  match fuse with
  | 0 => { u := j / 8, idx := 8 * i + j % 8, aOff := 0, aRow := i, bOff := j / 8, bRow := j % 8, row := i, col := j }
  | 1 => { u := 2 * (i / 8) + j / 8, idx := 8 * (i % 8) + j % 8, aOff := i / 8, aRow := i % 8, bOff := j / 8, bRow := j % 8, row := i, col := j }
  | 2 => { u := i / 8, idx := 8 * (i % 8) + j, aOff := i / 8, aRow := i % 8, bOff := 0, bRow := j, row := i, col := j }
  | _ => { u := u, idx := 8 * i + j, aOff := u, aRow := i, bOff := u, bRow := j, row := 8 * u + i, col := j }

def mcells (sh : MShape) : List MCell :=
  (List.range (if sh.fuse = 3 then 4 else 1)).flatMap (fun u =>
    (List.range sh.m).flatMap (fun i => (List.range sh.n).map (fun j => mcell sh.fuse u i j)))

/-- The slots an operation uses. -/
def slotsUsed (sh : MShape) : List Nat :=
  ((mcells sh).map (fun c => sh.aSlot + c.aOff) ++ (mcells sh).map (fun c => sh.bSlot + c.bOff)).eraseDups

/-- The checks of MMA on E(0) to E(2). -/
def mmaOk (e0 e1 e2 : Word) (sh : MShape) : Bool :=
  shapeOk e0 e2 && bits e1 63 34 = 0 && bits e1 15 8 = 0 && sh.ak0 ≤ 255 && sh.bk0 ≤ 255 &&
    sh.ak0 + sh.k ≤ capOf sh.fa && sh.bk0 + sh.k ≤ capOf sh.fb && (slotsUsed sh).all (fun o => o ≤ 15)

/-- Bytes of an MDRAIN output format. -/
def drainBytes (f : Nat) : Nat := match f with
  | 1 | 2 => 2
  | 3 | 4 => 1
  | 7 => 4
  | _ => 0

/-! ### Claims (09 R205, R210) -/

/-- The slots of a mask. -/
def maskSlots (w : Word) : List Nat := (List.range 16).filter (fun i => bit w i)
def slotMask (l : List Nat) : Word := l.foldl (fun a i => a ||| BitVec.ofNat 64 (2 ^ i)) 0

/-- The slots a context holds, and those any context does. -/
def Cell.held (u : Cell) (k : Nat) : List Nat := (u.claims.filter (fun c => c.2.1 = k)).map Prod.fst
def Cell.taken (u : Cell) : List Nat := u.claims.map Prod.fst

/-! ### Issue -/

/-- The fields of a matrix word: a, b and d. -/
def matSpec : Instr → Option (Option (BitVec 5) × Option (BitVec 5) × Option (BitVec 5))
  | .mclaim d a => some (some a, none, some d)
  | .mrel a => some (some a, none, none)
  | .mload a b _ => some (some a, some b, none)
  | .mma b => some (none, some b, none)
  | .mmaR a b => some (some a, some b, none)
  | .mdrain a _ b => some (some a, some b, none)
  | .mzero a => some (some a, none, none)
  | .mgrant d a b => some (some a, some b, some d)
  | .mstat d a _ => some (some a, none, some d)
  | _ => none

/-- The slot override of MMA sb: none when the field is s0. -/
def mmaOver (b : BitVec 5) (y : Word) : Option Word := if b = 0 then none else some y

/-- The operation a word of context k puts on a queue. -/
def State.mqOp (s : State) (k : Nat) (pc : Word) (i : Instr) (x y : Word) (num : Nat) (remote : Option Nat) : MqOp :=
  let c := s.ctx k
  { instr := i, key := k, task := c.taskNum, pc := pc, x := x, y := y, e0 := c.e 0, e1 := c.e 1, e2 := c.e 2,
    e3 := c.e 3, priv := c.st.priv, num := num, remote := remote, kAt := none }

/-- An operation of context k joins its cell's mq, or the context waits (09 R207). -/
def State.mqPush (s : State) (k : Nat) (pc : Word) (i : Instr) (x y : Word) : Except Stop State := do
  let u := s.cell (k / 16)
  await (u.mq.length < 16) .mq
  .ok (s.setCell (k / 16) { u with mq := u.mq ++ [s.mqOp k pc i x y u.mqNum none], mqNum := u.mqNum + 1 })

/-- The addresses MDRAIN writes lie in scratch. -/
def State.drainInScratch (s : State) (core : Nat) (sh : MShape) (x y : Word) : Bool :=
  let w := drainBytes sh.outFmt
  (mcells sh).all (fun c => s.inScratch core (x + BitVec.ofNat 64 c.row * y + BitVec.ofNat 64 (c.col * w)).toNat w)

/-- The capability word of a grant (09 Table 9-7); the reserved rights read as zero. -/
def Grant.word (g : Grant) (cell : Nat) : Word :=
  BitVec.ofNat 16 g.nonce ++ BitVec.ofNat 16 g.slots ++ BitVec.ofNat 16 cell ++ BitVec.ofNat 4 g.rights ++ (0 : BitVec 4) ++
    BitVec.ofNat 8 g.accs

/-- A matrix word of context k issues with the values of its scalar fields; one that reads or writes scratch, and MMA.r,
waits for the context's earlier vector memory words (04 R92). -/
def State.matIssue (s : State) (k : Nat) (pc : Word) (i : Instr) (x y : Word) : Except Stop State := do
  let c := s.ctx k
  let cell := k / 16
  let u := s.cell cell
  match i with
  | .mclaim d _ => do
    need (bits x 63 16 = 0) (cz 0x02)
    let want := maskSlots x
    let clash := want.filter (fun o => u.claims.any (fun e => e.1 = o && e.2.1 ≠ k))
    if clash.isEmpty then
      .ok ((s.setCell cell { u with claims := want.foldl (fun m o => SMap.set m o (k, none)) u.claims }).setCtx k (c.setS d 0))
    else .ok (s.setCtx k (c.setS d (slotMask clash)))
  | .mrel _ => do
    need (bits x 63 16 = 0) (cz 0x02)
    s.mqPush k pc i x y
  | .mload _ _ f => do
    need (f.toNat ≤ 6) (cz 0x02)
    need (bits y 63 4 = 0) (cz 0x02)
    need (x.toNat % 128 = 0) (czAt 0x20 x)
    need (spaceOf x ≠ .rank) (cz 0x02)
    need ((u.held k).contains (bits y 3 0)) (cz 0x12)
    need (!(c.isWork && spaceOf x ≠ .scratch)) (czAt 0x2C x)
    s.engineFree k
    s.mqPush k pc i x y
  | .mma b => do
    let sh := mshape (c.e 0) (c.e 1) (c.e 2) (mmaOver b y)
    need (mmaOk (c.e 0) (c.e 1) (c.e 2) sh) (cz 0x10)
    need ((slotsUsed sh).all (fun o => (u.held k).contains o)) (cz 0x12)
    s.mqPush k pc i x y
  | .mmaR _ b => do
    let sh := mshape (c.e 0) (c.e 1) (c.e 2) (mmaOver b y)
    need (mmaOk (c.e 0) (c.e 1) (c.e 2) sh) (cz 0x10)
    need ((c.e 3).toNat % 8 = 0) (czAt 0x20 (c.e 3))
    need (s.validCell (bits x 31 16)) { code := 0x2B, info := BitVec.ofNat 32 (bits x 31 16), va := 0 }
    need (!c.isWork) (cz 0x2C)
    if c.st.chk then .ok s
    else do
      s.engineFree k
      let t := bits x 31 16
      let v := s.cell t
      await (s.mayArrive (dieOf (k / 4)) (t / 8192)) (.hold (t / 8192))
      .ok ((s.setCell t { v with mmaIn := v.mmaIn ++ [s.mqOp k pc i x y 0 (some (s.partOf (k / 4)))] }).stampTo (dieOf (k / 4)) (t / 8192))
  | .mdrain _ _ _ => do
    let sh := mshape (c.e 0) (c.e 1) (c.e 2) none
    let w := drainBytes sh.outFmt
    need (shapeOk (c.e 0) (c.e 2) && w ≠ 0) (cz 0x10)
    need (x.toNat % w = 0) (czAt 0x20 x)
    need (y.toNat % w = 0) (czAt 0x20 y)
    need ((c.e 3).toNat % 8 = 0) (czAt 0x20 (c.e 3))
    s.waysFree k 0
    need (s.drainInScratch (k / 4) sh x y) (czAt 0x21 x)
    need (!(c.isWork && c.e 3 ≠ 0)) (czAt 0x2C (c.e 3))
    s.engineFree k
    s.mqPush k pc i x y
  | .mzero _ => do
    need (bits x 63 8 = 0) (cz 0x02)
    s.mqPush k pc i x y
  | .mgrant d _ _ => do
    need ((maskSlots x).all (fun o => (u.held k).contains o)) (cz 0x12)
    need (bits x 63 16 = 0 && bits y 63 12 = 0) (cz 0x02)
    if c.st.chk || 8 ≤ u.grants.length then .ok (s.setCtx k (c.setS d (-1)))
    else
      let g : Grant := { nonce := (Config.freeWord s.free).toNat % 0x10000, slots := bits x 15 0, rights := bits y 9 8,
                         accs := bits y 7 0, key := k, part := s.partOf (k / 4) }
      .ok (((s.bump 1).setCell cell { u with grants := u.grants ++ [g] }).setCtx k (c.setS d (g.word cell)))
  | .mstat d _ w => do
    let mine := u.mq.filter (fun o => o.key = k && o.remote.isNone)
    await (w = 0 || mine.isEmpty) .mqDone
    let v : Word := match x.toNat with
      | 0 => (slotMask u.taken <<< 16) ||| slotMask (u.held k)
      | 1 => BitVec.ofNat 64 mine.length
      | 2 => BitVec.ofNat 64 ((if u.mqFrozen then 256 else 0) + u.mq.length)
      | _ => 0
    .ok (s.setCtx k (c.setS d v))
  | _ => .ok s

/-- The current context issues a matrix word. -/
def State.matExec (s : State) (i : Instr) : Host.Outcome State Fault Refusal :=
  s.out (do
    let f := (matSpec i).getD (none, none, none)
    let t ← s.matIssue s.cur s.cx.pc i (s.cx.so f.1) (s.cx.so f.2.1)
    .ok (t.skip 4))

def execMclaim (d a : BitVec 5) (s : State) : Host.Outcome State Fault Refusal := s.matExec (.mclaim d a)
def execMrel (a : BitVec 5) (s : State) : Host.Outcome State Fault Refusal := s.matExec (.mrel a)
def execMload (a b : BitVec 5) (f : BitVec 4) (s : State) : Host.Outcome State Fault Refusal := s.matExec (.mload a b f)
def execMma (b : BitVec 5) (s : State) : Host.Outcome State Fault Refusal := s.matExec (.mma b)
def execMmaR (a b : BitVec 5) (s : State) : Host.Outcome State Fault Refusal := s.matExec (.mmaR a b)
def execMdrain (a : BitVec 5) (sat : BitVec 1) (b : BitVec 5) (s : State) : Host.Outcome State Fault Refusal := s.matExec (.mdrain a sat b)
def execMzero (a : BitVec 5) (s : State) : Host.Outcome State Fault Refusal := s.matExec (.mzero a)
def execMgrant (d a b : BitVec 5) (s : State) : Host.Outcome State Fault Refusal := s.matExec (.mgrant d a b)
def execMstat (d a : BitVec 5) (w : BitVec 1) (s : State) : Host.Outcome State Fault Refusal := s.matExec (.mstat d a w)

/-! ### Performing: operand lines -/

/-- The tag and sideband of a line of a slot. -/
def Cell.line (u : Cell) (slot row : Nat) : Nat × Word := SMap.get u.slotTag (0, 0) (slot * 8 + row)

/-- A line written with its tag and sideband; fresh codes are stored. -/
def Cell.putLine (u : Cell) (slot row : Nat) (b : List Byte) (tag : Nat × Word) : Cell :=
  let a := slot * 1024 + row * 128
  { u with slotMem := Mem.write u.slotMem a b, slotTag := SMap.set u.slotTag (slot * 8 + row) tag, opEcc := u.opEcc.written a b.length }

/-- The format a line is read in, or none for "operand format mismatch" (09 R212). -/
def Cell.lineFmt (u : Cell) (slot row fx k0 k : Nat) : Option Nat :=
  let tag := (u.line slot row).1
  let f := if fx = 0 then tag else fx
  if (tag ≠ 0 && fx ≠ 0 && tag ≠ fx) || f = 0 || 7 ≤ f || capOf f < k0 + k then none else some f

/-- Element k of a row read in format f (09 R204, 05 R121). -/
def Cell.element (u : Cell) (slot row f k : Nat) : FVal :=
  let a := slot * 1024 + row * 128
  match f with
  | 6 =>
    let code := leNat (Mem.bytes u.slotMem (a + k / 2) 1) / 16 ^ (k % 2) % 16
    let t := u.line slot row
    let scale := if t.1 = 0 then 0 else bits t.2 (8 * (k / 32) + 7) (8 * (k / 32))
    (codeVal scale code).getD (.nan false 0x400000 true)
  | 5 =>
    let z := signedOf 8 (leNat (Mem.bytes u.slotMem (a + k) 1))
    .fin (decide (z < 0)) { m := z, e := 0 }
  | _ => match fmtOf f with
    | some g => (g.val (leNat (Mem.bytes u.slotMem (a + k * (g.width / 8)) (g.width / 8)))).widen g
    | none => .fin false { m := 0, e := 0 }

/-- The products of a pair of rows added to an element pair in ascending k (05 R135). -/
def Cell.dot (u : Cell) (ra rb : Nat → FVal) (p : Nat × Nat × BitVec 5) : Nat → Nat → Nat × Nat × BitVec 5
  | 0, _ => p
  | n + 1, k =>
    let q := prodVal (ra k) (rb k)
    let r := accAdd p.1 p.2.1 q.1
    u.dot ra rb (r.1, r.2.1, p.2.2 ||| q.2 ||| r.2.2) n (k + 1)

/-- The accumulator key of an element: acc(2u + H) (09 R208). -/
def accKey (h : Nat) (c : MCell) : Nat := (2 * c.u + h) * 64 + c.idx

/-- An MMA's n products from k on, on the slots and accumulators of a cell: the cell and the flags (09 R212). Z zeroes the elements
before the first. -/
def Cell.mma (u : Cell) (sh : MShape) (k n : Nat) : Cell × BitVec 5 :=
  (mcells sh).foldl (fun acc c =>
    let sa := sh.aSlot + c.aOff
    let sb := sh.bSlot + c.bOff
    let fa := (u.lineFmt sa c.aRow sh.fa sh.ak0 sh.k).getD 0
    let fb := (u.lineFmt sb c.bRow sh.fb sh.bk0 sh.k).getD 0
    let key := accKey sh.h c
    let old := if sh.z && k = 0 then (0, 0) else SMap.get u.acc (0, 0) key
    let r := u.dot (fun k => u.element sa c.aRow fa (sh.ak0 + k)) (fun k => u.element sb c.bRow fb (sh.bk0 + k))
      (old.1.toNat, old.2.toNat, 0) n k
    ({ acc.1 with acc := SMap.set acc.1.acc key (BitVec.ofNat 32 r.1, BitVec.ofNat 32 r.2.1) }, acc.2 ||| r.2.2)) (u, 0)

/-- Products for each element in a clock, by a format (09 R213). -/
def fmtRate (f : Nat) : Nat := if f ≤ 2 then 1 else if f ≤ 5 then 2 else 4
/-- The k values of a K-step: the widest line decides. -/
def Cell.kStep (u : Cell) (sh : MShape) : Nat :=
  (mcells sh).foldl (fun q c =>
    min q (min (fmtRate ((u.lineFmt (sh.aSlot + c.aOff) c.aRow sh.fa sh.ak0 sh.k).getD 0))
      (fmtRate ((u.lineFmt (sh.bSlot + c.bOff) c.bRow sh.fb sh.bk0 sh.k).getD 0)))) 4

/-- The lines that an MMA reads: single errors are corrected and counted, and retention ends (03 R80, R81). -/
def Cell.mmaTouch (u : Cell) (sh : MShape) : Cell :=
  if sh.k = 0 || (u.opEcc.single.isEmpty && !u.opEcc.ret) then u
  else { u with opEcc := (mcells sh).foldl (fun e c =>
    (e.touch ((sh.aSlot + c.aOff) * 1024 + c.aRow * 128) 128).touch ((sh.bSlot + c.bOff) * 1024 + c.bRow * 128) 128) u.opEcc }

/-- The checks before the first product: every line's format, and its stored words. -/
def Cell.mmaCheck (u : Cell) (sh : MShape) : Except CauseRec Unit :=
  if sh.k = 0 then .ok ()
  else
    let bad := (mcells sh).any (fun c =>
      u.opEcc.failing ((sh.aSlot + c.aOff) * 1024 + c.aRow * 128) 128 || u.opEcc.failing ((sh.bSlot + c.bOff) * 1024 + c.bRow * 128) 128)
    let fmt := (mcells sh).all (fun c =>
      (u.lineFmt (sh.aSlot + c.aOff) c.aRow sh.fa sh.ak0 sh.k).isSome && (u.lineFmt (sh.bSlot + c.bOff) c.bRow sh.fb sh.bk0 sh.k).isSome)
    if bad then .error (cz 0x27) else if fmt then .ok () else .error (cz 0x11)

/-! ### Performing: the operations -/

/-- Flags go to the issuing context while its task still runs (09 R212, R217). -/
def State.mqFlags (s : State) (op : MqOp) (f : BitVec 5) : State :=
  s.asOwner (op.remote.getD (s.partOf (op.key / 4))) (fun t =>
    let x := t.ctx op.key
    if x.taskNum = op.task then t.setCtx op.key (x.orFlags f) else t)

/-- The tag and sideband a read of a place carries. -/
def State.placeTag (s : State) (k : Nat) (p : Place) : Nat × Word :=
  match p with
  | .phys pa key _ _ _ => match s.lineTagAt (k / 4) key pa with
    | .ok t => t
    | .error _ => (0, 0)
  | .shadow a => if a < 0x10000 then (0, 0) else (s.retSlot k).elim (0, 0) (fun r => r.2.2.tag a)
  | _ => (0, 0)

/-- The n bytes an engine reads for an operation, with their tag. -/
def State.mqRead (s : State) (op : MqOp) (n : Nat) (va : Word) : Except Stop (List Byte × (Nat × Word)) := do
  let p ← s.placeOf op.key (s.cmdChk op.key op.task) (op.priv = 0) (Req.load n) va
  let b ← s.readPlace op.key p n va
  .ok (b, s.placeTag op.key p)

/-- MLOAD, line by line; at a fault the lines already written stay (09 R211). -/
def State.mload (s : State) (cell : Nat) (op : MqOp) (fmt slot : Nat) : Nat → Nat → State × Option Stop
  | 0, _ => (s, none)
  | n + 1, r =>
    let fetch : Except Stop (List Byte × (Nat × Word)) := do
      let (b, t) ← s.mqRead op 128 (op.x + BitVec.ofNat 64 (128 * r))
      if fmt = 6 then do
        let (sb, _) ← s.mqRead op 8 (op.x + BitVec.ofNat 64 (0x400 + 8 * r))
        .ok (b, (6, BitVec.ofNat 64 (leNat sb)))
      else .ok (b, if fmt = 0 then t else (fmt, t.2))
    match fetch with
    | .error e => (s, some e)
    | .ok (b, t) =>
      let va := op.x + BitVec.ofNat 64 (128 * r)
      let s := match s.placeOf op.key (s.cmdChk op.key op.task) (op.priv = 0) (Req.load 128) va with
        | .ok p => s.afterRead (op.key / 4) p 128 va
        | .error _ => s
      (s.setCell cell ((s.cell cell).putLine slot r b t)).mload cell op fmt slot n (r + 1)

/-- The elements of an MDRAIN written in ascending rows. -/
def State.drainWrite (s : State) (op : MqOp) (u : Cell) (sh : MShape) (g : Fmt) (sat : Bool) : List MCell → Except Stop (State × BitVec 5)
  | [] => .ok (s, 0)
  | c :: t => do
    let w := drainBytes sh.outFmt
    let p := SMap.get u.acc (0, 0) (accKey sh.h c)
    let r := drainVal g sat p.1.toNat p.2.toNat
    let va := op.x + BitVec.ofNat 64 c.row * op.y + BitVec.ofNat 64 (c.col * w)
    let q ← s.placeOf op.key (s.cmdChk op.key op.task) false (Req.store w) va
    let s ← s.writePlace op.key q (leBytes w r.1) va
    let (s, f) ← s.drainWrite op u sh g sat t
    .ok (s, r.2 ||| f)

/-- MDRAIN: E(3) is checked first, the elements are written, then the post is made (09 R214). -/
def State.mdrain (s : State) (cell : Nat) (op : MqOp) (sat : Bool) : Except Stop State := do
  let sh := mshape op.e0 op.e1 op.e2 none
  let chk := s.cmdChk op.key op.task
  let part := s.partOf (op.key / 4)
  if op.e3 ≠ 0 && !chk then
    match s.counterPa (op.key / 4) part (op.priv = 0) true op.e3 with
    | .error c => .error (.trap c)
    | .ok _ => .ok ()
  let g := (fmtOf sh.outFmt).getD fp32
  let (s, f) ← s.drainWrite op (s.cell cell) sh g sat (mcells sh)
  let s := s.mqFlags op f
  if op.e3 ≠ 0 && !chk then
    s.post (op.key / 4) part (op.priv = 0) op.e3 1
  else .ok s

/-- The oldest operation of a cell's mq changed. -/
def Cell.mqHead (u : Cell) (f : MqOp → MqOp) : Cell := match u.mq with
  | [] => u
  | o :: t => { u with mq := f o :: t }

/-- The next K-step of the MMA of a local or remote command on a cell (09 R213); its checks come before the first, and its flags go
to the sender after the last. -/
def State.mma (s : State) (cell : Nat) (op : MqOp) (b : BitVec 5) : Except Stop State := do
  let sh := mshape op.e0 op.e1 op.e2 (mmaOver b op.y)
  let u := s.cell cell
  if op.kAt.isNone then (u.mmaCheck sh).mapError Stop.trap
  let (k, f) := op.kAt.getD (0, 0)
  let n := min (sh.k - k) (u.kStep sh)
  let r := (if op.kAt.isNone then u.mmaTouch sh else u).mma sh k n
  if k + n < sh.k then .ok (s.setCell cell (r.1.mqHead (fun o => { o with kAt := some (k + n, f ||| r.2) })))
  else .ok ((s.setCell cell (r.1.mqHead (fun o => { o with kAt := none }))).mqFlags op (f ||| r.2))

/-- The oldest operation of a cell stands between two K-steps. -/
def Cell.midMma (u : Cell) : Bool := u.mq.head?.any (fun o => o.kAt.isSome)

/-- The oldest operation of a cell leaves its mq. -/
def State.mqPop (s : State) (cell : Nat) : State :=
  let u := s.cell cell
  s.setCell cell ({ u with mq := u.mq.drop 1 } : Cell).sweep

/-- An operation's effect: the state, with what stops it. -/
def State.mqEffect (s : State) (cell : Nat) (op : MqOp) : State × Option Stop :=
  let lift := fun (r : Except Stop State) => match r with
    | .ok t => (t, none)
    | .error e => (s, some e)
  let u := s.cell cell
  match op.instr with
  | .mrel _ =>
    let mine := (maskSlots op.x).filter (fun o => (u.held op.key).contains o)
    (s.setCell cell { u with claims := u.claims.filter (fun c => !(mine.contains c.1)),
                             grants := u.grants.filter (fun g => !(mine.any (fun o => g.slots / 2 ^ o % 2 = 1))) }, none)
  | .mload _ _ f => s.mload cell op f.toNat (bits op.y 3 0) 8 0
  | .mma b => lift (s.mma cell op b)
  | .mdrain _ sat _ => lift (s.mdrain cell op (sat = 1))
  | .mzero _ =>
    (s.setCell cell { u with acc := u.acc.filter (fun e => !(bit op.x (e.1 / 64))) }, none)
  | _ => (s, none)

/-- A remote MMA: E(3) is checked before any product, and posted after the last (09 R217). -/
def State.mqRemote (s : State) (cell : Nat) (op : MqOp) (part : Nat) (b : BitVec 5) : State × Option Stop :=
  let core := cell * 4
  let pre := if op.e3 = 0 || op.kAt.isSome then none else match s.counterPa core part (op.priv = 0) true op.e3 with
    | .error c => some c
    | .ok _ => none
  match pre with
  | some c => (s.postTo part core op.key op.task 10 c, none)
  | none =>
    match s.mma cell op b with
    | .error e => (s, some e)
    | .ok t =>
      if op.e3 = 0 || (t.cell cell).midMma then (t, none)
      else match t.post core part (op.priv = 0) op.e3 1 with
        | .ok t' => (t', none)
        | .error (.trap c) => (t.postTo part core op.key op.task 10 c, none)
        | .error e => (s, some e)

/-- An engine fault of the mq: it freezes and its sender takes the cause (12 R266); a check heat ends by it. -/
def State.mqFault (s : State) (cell : Nat) (op : MqOp) (c : CauseRec) : State :=
  if s.cmdChk op.key op.task && op.remote.isNone then s.endHeat op.key none
  else
    let u := s.cell cell
    (s.setCell cell { u with mqFrozen := true }).postTo (op.remote.getD (s.partOf (op.key / 4))) (if op.remote.isSome then cell * 4 else op.key / 4) op.key op.task
      (if op.remote.isSome then 10 else 6) { c with info := BitVec.ofNat 32 op.num }

/-- The cell's mq performs its oldest operation (09 R207), an MMA by K-steps; while its partition is switched out it stands (12
Table 12-5). -/
def execMqOperationPerform (cell : Nat) (s : State) : Host.Outcome State Fault Refusal :=
  let u := s.cell cell
  match u.mq with
  | [] => .next s
  | op :: _ =>
    if u.mqFrozen || !s.mayBegin 1 cell || s.parking (cell * 4) || (op.remote.isNone && (s.core (op.key / 4)).ways.any (fun w => w.mq ≤ op.num)) then .next s
    else
      let r := match op.remote, op.instr with
        | some part, .mmaR _ b => s.mqRemote cell op part b
        | _, _ => s.mqEffect cell op
      match r with
      | (t, none) => .next (if (t.cell cell).midMma then t else t.mqPop cell)
      | (t, some (.trap c)) => .next (t.mqFault cell op c)
      | (_, some (.block _)) => .next s
      | (t, some .escape) => .next (t.escapeHeat op.key 0x5A)
      | (t, some .unverifiable) => .next (t.escapeHeat op.key 0x5B)

/-! ### Remote commands (09 R217) -/

/-- The partition's cell is shared and serves another partition now (12 R258). -/
def State.parkedOn (s : State) (part cell : Nat) : Bool :=
  (s.part part).share.isSome && (s.part part).cells.contains cell && decide ((s.cell cell).part ≠ some part)

/-- A live grant of the cell that a command may use. -/
def Cell.grantFor (u : Cell) (cell : Nat) (op : MqOp) (part : Nat) (sh : MShape) : Bool :=
  let subs := ((mcells sh).map (fun c => 2 * c.u)).eraseDups
  u.grants.any (fun g =>
    bits op.x 63 48 = g.nonce && bits op.x 47 32 = g.slots && bits op.x 31 16 = cell && bits op.x 13 12 = g.rights &&
    bits op.x 7 0 = g.accs && g.part = part && g.rights % 2 = 1 && (!sh.z || g.rights / 2 % 2 = 1) &&
    (sh.k = 0 || (slotsUsed sh).all (fun o => g.slots / 2 ^ o % 2 = 1)) &&
    subs.all (fun a => g.accs / 2 ^ a % 2 = 1 && g.accs / 2 ^ (a + 1) % 2 = 1))

/-- A remote command at its cell: accepted under a live grant, none while it waits for a place in the mq, else refused. -/
def State.remoteTake (s : State) (cell : Nat) (op : MqOp) : Option State :=
  let u := s.cell cell
  let part := op.remote.getD 64
  let b := match op.instr with
    | .mmaR _ b => b
    | _ => 0
  if u.grantFor cell op part (mshape op.e0 op.e1 op.e2 (mmaOver b op.y)) then
    if u.mq.length < 16 then some (s.setCell cell { u with mq := u.mq ++ [{ op with num := u.mqNum }], mqNum := u.mqNum + 1 })
    else none
  else some (s.postTo part (cell * 4) op.key op.task 10 (cz 0x53))

/-- The oldest remote command at a cell's interface is held for a parked partition, waits for a place in the mq, is
accepted, or is refused. -/
def execRemoteMmaArrival (cell : Nat) (s : State) : Host.Outcome State Fault Refusal :=
  let u := s.cell cell
  match u.mmaIn with
  | [] => .next s
  | op :: t =>
    let part := op.remote.getD 64
    let held := SMap.get u.holding [] part
    if s.parkedOn part cell || !held.isEmpty then
      .next (if 4096 ≤ held.length then s
        else s.setCell cell { u with mmaIn := t, holding := SMap.set u.holding part (held ++ [.remote op]) })
    else
      .next (((s.setCell cell { u with mmaIn := t }).remoteTake cell op).getD s)

end Sys2Proof.Machine
end

