-- ==== Sys2Proof/Machine/Copy.lean ====
section
/-! DEFINITION. The copy channels and staged buffers: major 36 (22 R363 to R369, 24 R418 to R420, 20 R335 to R337,
04 R101, R102, R109). -/

namespace Sys2Proof.Machine

/-! ### Fields of a command -/

def cpLen (e1 : Word) : Nat := bits e1 47 0
def cpDir (e1 : Word) : Nat := bits e1 63 62

/-- The forms: 0 CPY, 1 CPYT, 2 CPYG. Bytes of an element; CPY has none. -/
def CopyCmd.elem (c : CopyCmd) : Nat := 2 ^ bits c.e[5] 63 61

/-- The byte count of a command (22 R364). -/
def CopyCmd.total (c : CopyCmd) : Nat :=
  if c.form = 1 then (bits c.e[6] 15 8 + 1) * (bits c.e[6] 7 0 + 1) * c.elem else cpLen c.e[1]

def Core.chan (c : Core) (n : Nat) : Channel := (c.ch[n]?).getD Channel.reset
def Core.setChan (c : Core) (n : Nat) (h : Channel) : Core := { c with ch := c.ch.set! n h }

/-! ### Issue -/

/-- An address in the rank windows, within their ranges. -/
def rankForm (va : Word) : Bool := va.toNat % 2 ^ 56 < 0x800000000 && va.toNat % 0x8000 < 0x6000

/-- The checks of 22 Table 22-9 made at issue; those of one address in the order of 15 R317. -/
def copyChecks (form : Nat) (e : Vector Word 8) (dst src : Word) : Except Stop Unit := do
  let e1 := e[1]
  let sz := bits e[5] 63 61
  need (bits e1 61 48 = 0 && cpDir e1 ≠ 3) (cz 0x02)
  need (form ≠ 2 || (sz ≠ 7 && bits e[5] 60 56 = 0 && cpLen e1 % 2 ^ sz = 0)) (cz 0x02)
  need (form ≠ 1 || (sz ≤ 3 && bits e[5] 60 48 = 0 && !(1 < bits e[5] 47 24 && cpLen e1 < bits e[5] 23 0 * 2 ^ sz))) (cz 0x02)
  need (e[2].toNat % 8 = 0) (czAt 0x20 e[2])
  need (e[2] = 0 || canonical e[2]) (czAt 0x2D e[2])
  need (e[2] = 0 || spaceOf e[2] = .scratch || spaceOf e[2] = .rank) (cz 0x02)
  need (e[4].toNat % 8 = 0) (czAt 0x20 e[4])
  need (form ≠ 2 || src.toNat % 4 = 0) (czAt 0x20 src)
  need (form = 0 || dst.toNat % 2 ^ sz = 0) (czAt 0x20 dst)
  need (form ≠ 2 || bits e[5] 55 0 % 2 ^ sz = 0) (czAt 0x20 (BitVec.ofNat 64 (bits e[5] 55 0)))
  need (form ≠ 1 || src.toNat % 2 ^ sz = 0) (czAt 0x20 src)
  need (form ≠ 1 || cpLen e1 % 2 ^ sz = 0) (czAt 0x20 (BitVec.ofNat 64 (cpLen e1)))
  need (e[2] = 0 || spaceOf e[2] ≠ .rank || rankForm e[2])
    (rankCause e[2])

/-- A copy form of the current context: one command in channel c, its identifier in d (22 R363).
It issues once the context's earlier vector memory words are performed (04 R92). -/
def State.copyIssue (s : State) (form : Nat) (d a b : BitVec 5) (c : BitVec 2) : Except Stop State := do
  let x := s.cx
  need (!x.isWork) (cz 0x2C)
  copyChecks form x.ereg (x.s a) (x.s b)
  s.engineFree s.cur
  let core := s.core s.curCore
  let h := core.chan c.toNat
  await (h.cmds.length < 8) (.channel c.toNat)
  let exch := x.isExch && !s.ownScratch s.curCore (x.s a)
  let cmd : CopyCmd := { id := h.next, form := form, dst := x.s a, src := x.s b, e := x.ereg, key := s.cur, task := x.taskNum,
                         priv := x.st.priv, exch := exch, done := 0, ends := 0, phase := 0 }
  let core := core.setChan c.toNat { h with cmds := h.cmds ++ [cmd], next := h.next + 1 }
  let core := { core with exchBytes := core.exchBytes + (if exch then cmd.total else 0) }
  .ok ((s.setCore s.curCore core).wr 4 d (BitVec.ofNat 64 cmd.id))

def execCpy (d a b : BitVec 5) (c : BitVec 2) (s : State) : Host.Outcome State Fault Refusal := s.out (s.copyIssue 0 d a b c)
def execCpyt (d a b : BitVec 5) (c : BitVec 2) (s : State) : Host.Outcome State Fault Refusal := s.out (s.copyIssue 1 d a b c)
def execCpyg (d a b : BitVec 5) (c : BitVec 2) (s : State) : Host.Outcome State Fault Refusal := s.out (s.copyIssue 2 d a b c)

/-! ### Places of an engine's bytes -/

/-- The place of an address, and the bytes from it on that stand one behind the other there: to the end of a page or of a way. -/
def State.copySide (s : State) (cmd : CopyCmd) (q : Req) (va : Word) : Except Stop (Place × Nat) := do
  let p ← s.placeOf cmd.key (s.cmdChk cmd.key cmd.task) (cmd.priv = 0) q va
  match spaceOf va with
  | .translated =>
    if s.cmdChk cmd.key cmd.task then .ok (p, 4096 - va.toNat % 4096)
    else match s.translate (cmd.key / 4) (s.partOf (cmd.key / 4)) va.toNat with
      | .ok (_, lg) => .ok (p, 2 ^ lg - va.toNat % 2 ^ lg)
      | .error c => .error (.trap (czAt c va))
  | _ => .ok (p, 4096 - va.toNat % 4096)

/-- The page of an address: its base and size. Where no page is mapped it counts as the smallest (notes/assumptions/11.md,
DEDUCED); scratch and rank windows have none. -/
def State.pageOf (s : State) (cmd : CopyCmd) (va : Word) : Nat × Nat :=
  if spaceOf va ≠ .translated || s.cmdChk cmd.key cmd.task then (0, 2 ^ 64)
  else
    let lg := match s.translate (cmd.key / 4) (s.partOf (cmd.key / 4)) va.toNat with
      | .ok (_, lg) => lg
      | .error _ => 16
    (va.toNat / 2 ^ lg * 2 ^ lg, 2 ^ lg)
/-- The bytes from an address to the end of its page. -/
def State.pageLeft (s : State) (cmd : CopyCmd) (va : Word) : Nat := (s.pageOf cmd va).1 + (s.pageOf cmd va).2 - va.toNat

/-- Places as numbers in one space, to see whether two ranges meet. -/
def Place.flat : Place → Nat × Nat
  | .array c off => (c + 1, off)
  | .phys pa _ _ _ _ => (0, pa)
  | .shadow a => (2 ^ 20, a)
  | .completion c => (2 ^ 21, c)

/-- The spans of the n bytes at an address, from its offset off on. -/
def State.spansOf (s : State) (cmd : CopyCmd) (va : Word) (total : Nat) : Nat → Nat → List (Nat × Nat × Nat)
  | 0, _ => []
  | n + 1, off =>
    let left := total - off
    let a := va + BitVec.ofNat 64 off
    if left = 0 then []
    else match s.copySide cmd (Req.load 1) a with
      | .ok (p, m) =>
        let len := min left (min m (4096 - a.toNat % 4096))
        (p.flat.1, p.flat.2, len) :: s.spansOf cmd va total n (off + len)
      | .error _ => s.spansOf cmd va total n (off + (4096 - a.toNat % 4096))

/-- Destination bytes that the source range meets are not fixed (22 R365). -/
def freeOverlap (spans : List (Nat × Nat × Nat)) (sp : Nat) (free : Nat) : Nat → List Byte → List Byte
  | _, [] => []
  | a, b :: t =>
    (if spans.any (fun r => r.1 = sp && r.2.1 ≤ a && a < r.2.1 + r.2.2) then Config.freeByte free else b) ::
      freeOverlap spans sp (free + 1) (a + 1) t

/-! ### Reading a payload -/

/-- What a read of a payload has touched: places, addresses and sizes. -/
abbrev Reads := List (Place × Word × Nat)

/-- The address of the element of a tensor or gathered copy at offset off, none for a filler, with the index it was named by. -/
def State.elemAddr (s : State) (cmd : CopyCmd) (off : Nat) : Except Stop (Option Word × Reads) :=
  let e := cmd.elem
  if cmd.form = 1 then
    let tc := bits cmd.e[6] 7 0 + 1
    let i := off / e
    let r := signedOf 24 (bits cmd.e[6] 63 40) + (i / tc : Nat)
    let c := signedOf 24 (bits cmd.e[6] 39 16) + (i % tc : Nat)
    .ok (if 0 ≤ r ∧ r < bits cmd.e[5] 47 24 ∧ 0 ≤ c ∧ c < bits cmd.e[5] 23 0 then
      some (cmd.src + BitVec.ofNat 64 (r.toNat * cpLen cmd.e[1] + c.toNat * e)) else none, [])
  else do
    let va := cmd.src + BitVec.ofNat 64 (4 * (off / e))
    let (p, _) ← s.copySide cmd (Req.load 4) va
    let b ← s.readPlace cmd.key p 4 va
    .ok (some (BitVec.ofNat 64 (bits cmd.e[5] 55 0 + leNat b * e)), [(p, va, 4)])

/-- The bytes at offset off of a payload: of a CPY at most n, as far as they stand one behind the other; else one element. -/
def State.copyRead (s : State) (cmd : CopyCmd) (off n : Nat) : Except Stop (List Byte × Reads) :=
  if cmd.form = 0 then do
    let va := cmd.src + BitVec.ofNat 64 off
    let (p, m) ← s.copySide cmd (Req.load 1) va
    let b ← s.readPlace cmd.key p (min n m) va
    .ok (b, [(p, va, min n m)])
  else do
    let (a, l) ← s.elemAddr cmd off
    match a with
    | none => .ok (leBytes cmd.elem cmd.e[7].toNat, l)
    | some va =>
      let (p, _) ← s.copySide cmd (Req.load cmd.elem) va
      let b ← s.readPlace cmd.key p cmd.elem va
      .ok (b, l ++ [(p, va, cmd.elem)])

/-- The n bytes of a payload from offset off on. -/
def State.copyBytes (s : State) (cmd : CopyCmd) : Nat → Nat → Nat → Except Stop (List Byte × Reads)
  | 0, _, _ => .ok ([], [])
  | f + 1, off, n =>
    if n = 0 then .ok ([], [])
    else do
      let (b, l) ← s.copyRead cmd off n
      let (t, m) ← s.copyBytes cmd f (off + max b.length 1) (n - max b.length 1)
      .ok (b ++ t, l ++ m)

/-! ### Pieces (04 R109) -/

/-- The pages that the element at offset off is read from: its own and that of its index; none for a filler. -/
def State.elemPage (s : State) (cmd : CopyCmd) (off : Nat) : Option ((Nat × Nat) × (Nat × Nat)) :=
  let index := if cmd.form = 1 then (0, 0) else s.pageOf cmd (cmd.src + BitVec.ofNat 64 (4 * (off / cmd.elem)))
  match s.elemAddr cmd off with
  | .ok (none, _) => none
  | .ok (some va, _) => some (s.pageOf cmd va, index)
  | .error _ => some ((2 ^ 64, off), index)

/-- The bytes of elements from offset off on, within room, up to the first that is read from other pages than those before it. -/
def State.elemsTo (s : State) (cmd : CopyCmd) (page : Option ((Nat × Nat) × (Nat × Nat))) (off room : Nat) : Nat → Nat
  | 0 => 0
  | n + 1 =>
    let pg := s.elemPage cmd off
    if room < cmd.elem || (page.isSome && pg.isSome && page ≠ pg) then 0
    else cmd.elem + s.elemsTo cmd (if pg.isSome then pg else page) (off + cmd.elem) (room - cmd.elem) n

/-- The length of the piece at offset off: to the next page boundary of either side. -/
def State.pieceLen (s : State) (cmd : CopyCmd) (off : Nat) : Nat :=
  let room := min (cmd.total - off) (s.pageLeft cmd (cmd.dst + BitVec.ofNat 64 off))
  if cmd.form = 0 then min room (s.pageLeft cmd (cmd.src + BitVec.ofNat 64 off))
  else s.elemsTo cmd none off room (room / cmd.elem)

/-- A write of n bytes to a place meets no cause at its home. -/
def State.mayWrite (s : State) (p : Place) (n : Nat) (va : Word) : Except Stop Unit :=
  match p with
  | .array c off => need (!(s.core c).ecc.failingPart off n) (czAt 0x27 va)
  | .phys pa key _ _ _ => do
    need (!s.memFailingPart pa n) (czAt 0x27 va)
    match s.fillBad key pa n with
    | some c => .error (.trap (czAt c va))
    | none => .ok ()
  | .completion _ => .error (.trap (czAt 0x29 va))
  | .shadow _ => .ok ()

/-- The destination of n bytes from offset off on can be written. -/
def State.dstCheck (s : State) (cmd : CopyCmd) : Nat → Nat → Nat → Except Stop Unit
  | 0, _, _ => .ok ()
  | f + 1, off, n =>
    if n = 0 then .ok ()
    else do
      let va := cmd.dst + BitVec.ofNat 64 off
      let (p, m) ← s.copySide cmd (Req.store (if cmd.form = 0 then 1 else cmd.elem)) va
      s.mayWrite p (min n m) va
      s.dstCheck cmd f (off + max (min n m) 1) (n - max (min n m) 1)

/-- A piece is checked whole before any byte of it is written. -/
def State.pieceCheck (s : State) (cmd : CopyCmd) (off n : Nat) : Except Stop Unit := do
  let _ ← s.copyBytes cmd n off n
  s.dstCheck cmd n off n

/-! ### Tags, packets and progress -/

/-- The tags of the lines that n bytes at physical address dpa write whole from whole lines: offset, tag, sideband (03 R75,
R78). -/
def State.copyTags (s : State) (k : Nat) (dst : Place) (n : Nat) (src : Reads) : List (Nat × Nat × Word) :=
  match dst, src with
  | .phys dpa _ _ _ _, (.phys spa key ctr unc hb, _, _) :: _ =>
    if spa % 128 ≠ dpa % 128 then []
    else (List.range (n / 128 + 1)).filterMap (fun j =>
      let o := (128 - dpa % 128) % 128 + 128 * j
      if o + 128 ≤ n then some (o, s.placeTag k (.phys (spa + o) key ctr unc hb)) else none)
  | _, _ => []

/-- Lines take the tags that a copy carries. -/
def State.putTags (s : State) (dst : Place) (l : List (Nat × Nat × Word)) : State :=
  match dst with
  | .phys pa key _ _ false =>
    l.foldl (fun s e =>
      let a := pa + e.1
      let n := (SMap.find (s.clu (homeClu a)).near (a / 128)).getD { tag := 0, sb := 0, keyid := key, valid := 15, dirty := 15 }
      s.nearAlloc a { n with tag := e.2.1, sb := e.2.2 }) s
  | _ => s

/-- The direction of a copy's packets: the one it names, else the ring's choice (06 R153). -/
def copyDir (e1 : Word) (src dst : Nat) : Nat := match cpDir e1 with
  | 1 => 0
  | 2 => 1
  | _ => ringDir src dst

/-- Flits - 1 of a stamped write of n bytes (20 R336). -/
def stampLen (n : Nat) : Nat := if n ≤ 16 then 0 else (n - 16 + 63) / 64

/-- The home of a place, as a coordinate, and its physical address. -/
def Place.home (p : Place) (core : Nat) : Nat × Nat := match p with
  | .array c _ => (c, 0)
  | .phys pa _ _ _ _ => (homeClu pa * 512, pa)
  | _ => (core, 0)

/-- A place as a packet names it: of scratch, by the scratch address, which its core resolves when it writes (03 Table 3-3). -/
def Place.named (p : Place) (va : Word) : Place := match p with
  | .array c _ => .array c (va.toNat % 0x8000)
  | q => q

/-- A packet of a channel goes to the home of a place on another die, stamped with the die's count (04 R87). -/
def State.copyPacket (s : State) (core ch : Nat) (p : Place) (len cls : Nat) (dir : Option Word) (pl : Payload) : State :=
  let src := dieOf core
  let v := s.nextStamp src
  let s := s.setDie src { s.die src with vclk := v }
  let h := p.home core
  let pk := s.packet core h.1 len cls pl
  let pk := { pk with dir := dir.elim pk.dir (fun e1 => copyDir e1 src pk.dst), stamp := some v, pa := h.2 }
  let c := s.core core
  let q := c.chan ch
  (s.setCore core (c.setChan ch { q with inFlight := q.inFlight + 1 })).sendPacket pk

/-- An engine fault of a channel: it freezes at the command, and its sender takes the cause (12 R266, 22 R368). -/
def State.copyFault (s : State) (core ch : Nat) (cmd : CopyCmd) (c : CauseRec) : State :=
  if s.cmdChk cmd.key cmd.task then s.endHeat cmd.key none
  else
    let u := s.core core
    let h := u.chan ch
    (s.setCore core (u.setChan ch { h with frozen := true })).postAsync cmd.key cmd.task (2 + ch) (engineCause c cmd.id)

/-- Payload bytes of the exchange class that their target has acknowledged (06 R151). -/
def Core.exchDone (c : Core) (cmd : CopyCmd) (n : Nat) : Core := if cmd.exch then { c with exchBytes := c.exchBytes - n } else c

/-- The head command changed. -/
def Channel.head (h : Channel) (f : CopyCmd → CopyCmd) : Channel := match h.cmds with
  | [] => h
  | c :: t => { h with cmds := f c :: t }
def State.cmdSet (s : State) (core ch : Nat) (f : CopyCmd → CopyCmd) : State :=
  s.setCore core ((s.core core).setChan ch (((s.core core).chan ch).head f))

/-- Packets of a core that await their reply: its interface holds room for each (06 R144). -/
def Core.awaiting (c : Core) : Nat := c.ch.foldl (fun a h => a + h.inFlight) 0
/-- The interface has room for one more reply. -/
def State.replyFree (s : State) (core : Nat) : Bool := decide ((s.core core).awaiting < 1 + Config.replyRoom)

/-- A parked partition's cell can hold one more packet of a payload, those on their way to it counted (12 R258). -/
def State.holdRoom (s : State) (part : Nat) (p : Place) : Bool := match p with
  | .array c _ =>
    let due := (s.moving.filter (fun x => match x.payload with
      | .copyWrite (.array d _) .. => d / 4 = c / 4
      | _ => false)).length
    decide ((SMap.get (s.cell (c / 4)).holding [] part).length + due < 4096)
  | _ => true

/-! ### The payload, granule by granule -/

/-- Elements written one by one, each before the next is read (22 R366, R367). -/
def State.copyElems (s : State) (cmd : CopyCmd) (off : Nat) : Nat → Except Stop State
  | 0 => .ok s
  | n + 1 => do
    let (b, l) ← s.copyRead cmd off cmd.elem
    let va := cmd.dst + BitVec.ofNat 64 off
    let (p, _) ← s.copySide cmd (Req.store cmd.elem) va
    let s := l.foldl (fun t r => t.afterRead (cmd.key / 4) r.1 r.2.2 r.2.1) s
    let s ← s.writePlace cmd.key p b va
    s.copyElems cmd (off + cmd.elem) n

/-- Reads that meet m bytes of a place. -/
def Reads.meet (l : Reads) (p : Place) (m : Nat) : Bool := l.any (fun r => r.1.meets p r.2.2 m)

/-- The bytes of elements for one packet to dst, at most n: an element that reads what the packet writes has to wait for it. -/
def State.elemsFree (s : State) (cmd : CopyCmd) (dst : Place) : Nat → Nat → Nat → Nat
  | 0, _, _ => 0
  | f + 1, at', n =>
    if n < at' + cmd.elem then 0
    else match s.copyRead cmd (cmd.done + at') cmd.elem with
      | .ok (_, l) => if at' ≠ 0 && l.meet dst at' then 0 else cmd.elem + s.elemsFree cmd dst f (at' + cmd.elem) n
      | .error _ => cmd.elem

/-- The next granule of a payload. A piece begins once those before it are performed, and is checked whole (04 R109). For
another die a granule is a packet of one 256-byte block (20 R336); while the core's partition is being switched out it ends at
the next 4 KiB boundary of its destination (12 Table 12-5). -/
def State.copyPiece (s : State) (core ch : Nat) (cmd : CopyCmd) : Except Stop State := do
  let h := (s.core core).chan ch
  let ends ← if cmd.done < cmd.ends then .ok cmd.ends
    else do
      await (h.inFlight = 0) (.channel ch)
      let n := s.pieceLen cmd cmd.done
      s.pieceCheck cmd cmd.done n
      .ok (cmd.done + n)
  let dva := cmd.dst + BitVec.ofNat 64 cmd.done
  let (dp, dn) ← s.copySide cmd (Req.store (if cmd.form = 0 then 1 else cmd.elem)) dva
  let far := dp.die core ≠ dieOf core
  await (!far || (s.replyFree core && s.holdRoom (s.partOf core) dp)) (.channel ch)
  let n := min (ends - cmd.done) dn
  let n := match dp with
    | .phys pa _ _ _ _ => min n (0x4000 - pa % 0x4000)
    | _ => n
  let n := if s.parking core then min n (4096 - dva.toNat % 4096) else n
  let n := if far then min n (256 - dva.toNat % 256) else n
  let next := fun (t : State) (n : Nat) => t.cmdSet core ch (fun c => { c with done := c.done + n, ends := ends })
  if far then do
    let n := if cmd.form = 0 then n else s.elemsFree cmd dp n 0 n
    let (b, l) ← s.copyBytes cmd n cmd.done n
    let spans := s.spansOf cmd cmd.dst cmd.done (cmd.done / 4096 + 2) 0
    let meets := fun (r : Place × Word × Nat) => spans.any (fun q => q.1 = r.1.flat.1 && q.2.1 < r.1.flat.2 + r.2.2 && r.1.flat.2 < q.2.1 + q.2.2)
    await (cmd.form = 0 || h.inFlight = 0 || !l.any meets) (.channel ch)
    let from' := if cmd.form = 0 then s.spansOf cmd cmd.src cmd.total (cmd.total / 4096 + 2) 0 else []
    let b := freeOverlap from' dp.flat.1 s.free dp.flat.2 b
    let s := l.foldl (fun t r => t.afterRead core r.1 r.2.2 r.2.1) (s.bump n)
    let tags := if cmd.form = 0 then s.copyTags cmd.key dp n l else []
    let part := s.partOf core
    .ok (next (s.copyPacket core ch dp (stampLen n) (if cmd.exch then 3 else 0) (some cmd.e[1]) (.copyWrite (dp.named dva) b tags core ch cmd.done part)) n)
  else if cmd.form = 0 then do
    let (b, l) ← s.copyBytes cmd n cmd.done n
    let b := freeOverlap (s.spansOf cmd cmd.src cmd.total (cmd.total / 4096 + 2) 0) dp.flat.1 s.free dp.flat.2 b
    let s := l.foldl (fun t r => t.afterRead core r.1 r.2.2 r.2.1) (s.bump n)
    let tags := s.copyTags cmd.key dp n l
    let s ← s.writePlace cmd.key dp b dva
    let s := next (s.putTags dp tags) n
    .ok (s.setCore core ((s.core core).exchDone cmd n))
  else do
    let s ← s.copyElems cmd cmd.done (n / cmd.elem)
    let s := next s n
    .ok (s.setCore core ((s.core core).exchDone cmd n))

/-! ### The end of a command (22 R364) -/

/-- The baton: one access after the last payload byte (04 R102); to another die it is a packet. -/
def State.baton (s : State) (core ch : Nat) (cmd : CopyCmd) : Except Stop State :=
  if cmd.e[2] = 0 then .ok s
  else do
    let va := cmd.e[2]
    let p ← s.placeOf cmd.key (s.cmdChk cmd.key cmd.task) false (Req.store 8) va
    let b := leBytes 8 cmd.e[3].toNat
    if p.die core = dieOf core then s.writePlace cmd.key p b va
    else do
      await (s.replyFree core && s.holdRoom (s.partOf core) p) (.channel ch)
      .ok (s.copyPacket core ch p 0 0 none (.copyWrite (p.named va) b [] core ch cmd.total (s.partOf core)))

/-- The post of the byte count to E(4); to a counter on another die it is a packet, which takes the ring's own direction (20
R335, R337). -/
def State.copyPost (s : State) (core ch : Nat) (cmd : CopyCmd) : Except Stop State :=
  if cmd.e[4] = 0 || s.cmdChk cmd.key cmd.task then .ok s
  else do
    let p ← (s.counterPa core (s.partOf core) (cmd.priv = 0) true cmd.e[4]).mapError Stop.trap
    if p.die core = dieOf core then do
      let (_, t) ← s.counterAdd core p cmd.total cmd.e[4]
      .ok t
    else do
      await (s.replyFree core) (.channel ch)
      .ok (s.copyPacket core ch p 0 0 none (.post p cmd.total core ch))

/-- The completion register advances past the command. -/
def State.copyDone (s : State) (core ch : Nat) (cmd : CopyCmd) : State :=
  let c := s.core core
  let h := c.chan ch
  (s.setCore core (c.setChan ch { h with cmds := h.cmds.drop 1, compl := cmd.id + 1 })).fireCompletion core

/-- The end of a command: the baton, the post, and the completion register, each performed before the next. -/
def State.copyEnd (s : State) (core ch : Nat) (cmd : CopyCmd) : Except Stop State :=
  match cmd.phase with
  | 0 => do
    let s ← s.baton core ch cmd
    .ok (s.cmdSet core ch (fun c => { c with phase := 1 }))
  | 1 => do
    let s ← s.copyPost core ch cmd
    .ok (s.cmdSet core ch (fun c => { c with phase := 2 }))
  | _ => .ok (s.copyDone core ch cmd)

/-- The core of a mailbox of the partition, none for one that is forwarded; and whether the address is a mailbox (22 R363, 02 R44). -/
def State.mailCore (s : State) (part : Nat) (va : Word) : Option Nat := ((s.part part).dir.find? (fun e => e.1 = va)).map (fun e => e.2.1)
def State.isMailbox (s : State) (part : Nat) (va : Word) : Bool :=
  let p := s.part part
  spaceOf va = .translated && (p.dir.any (fun e => e.1 = va) || p.fwd.any (fun e => e.1 = va))

/-- A copy to a mailbox delivers its 64 bytes as a header, in a packet where the mailbox's core lies on another die (20 R335,
R336); the channel waits until it is accepted or refused. -/
def State.copyMail (s : State) (core ch : Nat) (cmd : CopyCmd) : Except Stop State := do
  need (cmd.total = 64) (cz 0x30)
  await ((s.core core).unsent.length + (s.core core).held.length < 8) .message
  let (b, l) ← s.copyBytes cmd 64 0 64
  let s := l.foldl (fun t r => t.afterRead core r.1 r.2.2 r.2.1) s
  let m : Message := { mbox := cmd.dst, start := 0, hdr := leWords 8 b, part := s.partOf core, kind := 1, sender := core * 4 + ch, task := cmd.task }
  let s := s.cmdSet core ch (fun c => { c with done := 64, ends := 64 })
  match s.mailCore (s.partOf core) cmd.dst with
  | some c =>
    if dieOf c ≠ dieOf core then do
      await (s.replyFree core) (.channel ch)
      .ok (s.copyPacket core ch (.array c 0) (stampLen 64) (if cmd.exch then 3 else 0) (some cmd.e[1]) (.launch m (s.partOf core)))
    else
      let h := (s.core core).chan ch
      .ok (s.setCore core (({ s.core core with unsent := (s.core core).unsent ++ [m] } : Core).setChan ch { h with inFlight := h.inFlight + 1 }))
  | none =>
    let h := (s.core core).chan ch
    .ok (s.setCore core (({ s.core core with unsent := (s.core core).unsent ++ [m] } : Core).setChan ch { h with inFlight := h.inFlight + 1 }))

/-- E(4) is translated and checked when the command starts (22 R368). -/
def State.copyPostCheck (s : State) (core : Nat) (cmd : CopyCmd) : Except Stop Unit :=
  if cmd.done ≠ 0 || cmd.e[4] = 0 || s.cmdChk cmd.key cmd.task then .ok ()
  else match s.counterPa core (s.partOf core) (cmd.priv = 0) true cmd.e[4] with
    | .ok _ => .ok ()
    | .error c => .error (.trap c)

/-- One step of a channel's oldest command: its next granule, or the next part of its end once every byte is acknowledged. -/
def State.copyStep (s : State) (core ch : Nat) (cmd : CopyCmd) : Except Stop State := do
  s.copyPostCheck core cmd
  if cmd.done < cmd.total then
    if s.isMailbox (s.partOf core) cmd.dst && !s.cmdChk cmd.key cmd.task then s.copyMail core ch cmd else s.copyPiece core ch cmd
  else if ((s.core core).chan ch).inFlight ≠ 0 then .error (.block (.channel ch))
  else if cmd.total = 0 && s.isMailbox (s.partOf core) cmd.dst then .error (.trap (cz 0x30))
  else s.copyEnd core ch cmd

/-- A WAYS in progress holds the commands queued after it (03 Table 3-3). -/
def Core.waysHold (c : Core) (ch : Nat) (cmd : CopyCmd) : Bool := c.ways.any (fun w => decide ((w.chans[ch]?).getD 0 ≤ cmd.id))

/-- While its partition is switched out a copy stops at a 4 KiB boundary of its destination (12 Table 12-5). -/
def execCopyPerform (core ch : Nat) (s : State) : Host.Outcome State Fault Refusal :=
  let c := s.core core
  let h := c.chan ch
  match h.cmds with
  | [] => .next s
  | cmd :: _ =>
    if h.frozen || !s.mayBegin 0 (core * 4 + ch) || c.waysHold ch cmd || (s.parking core && (cmd.dst.toNat + cmd.done) % 4096 = 0) || (s.parking core && cmd.done = 0) then .next s
    else match s.copyStep core ch cmd with
      | .ok t => .next t
      | .error (.trap z) => .next (s.copyFault core ch cmd z)
      | .error (.block _) => .next s
      | .error .escape => .next (s.escapeHeat cmd.key 0x5A)
      | .error .unverifiable => .next (s.escapeHeat cmd.key 0x5B)

/-! ### Staged buffers (24 R418 to R420) -/

/-- A descriptor, read whole. -/
structure Staged where
  base : Nat
  depth : Nat
  sz : Nat
  unit : Nat
  lands : Nat
  free : Nat
  deriving DecidableEq, Repr

/-- The descriptor of a staged buffer at va, with the checks of 24 R420. -/
def State.staged (s : State) (va : Word) : Except Stop Staged := do
  need (va.toNat % 64 = 0) (czAt 0x20 va)
  need (!s.cx.isWork) (czAt 0x2C va)
  if s.cx.st.chk then .error .escape
  let p ← match spaceOf va with
    | .translated => s.transPlace s.curCore s.curPart (s.cx.st.priv = 0) (Req.load 64) va
    | .scratch => .error (.trap (czAt 0x21 va))
    | .rank => .error (.trap (rankCause va))
    | .completion => .error (.trap (czAt 0x29 va))
    | _ => .error (.trap (czAt 0x2D va))
  let b ← s.readPlace s.cur p 64 va
  let w := fun (i : Nat) => ((leWords 8 b)[i]?).getD 0
  let d : Staged := { base := bits (w 0) 55 0, depth := bits (w 1) 63 48 + 1, sz := bits (w 1) 5 0, unit := (w 2).toNat,
                      lands := bits (w 3) 55 0, free := bits (w 4) 55 0 }
  need (bits (w 0) 63 56 = 0 && bits (w 1) 47 6 = 0 && bits (w 3) 63 56 = 0 && bits (w 4) 63 56 = 0 &&
    w 5 = 0 && w 6 = 0 && w 7 = 0 && 5 ≤ d.sz && d.sz ≤ 20 && d.unit ≠ 0 && d.unit ≤ 2 ^ 32 && d.base % 2 ^ d.sz = 0) (cz 0x02)
  need (d.lands % 8 = 0) (czAt 0x20 (BitVec.ofNat 64 d.lands))
  need (d.free % 8 = 0) (czAt 0x20 (BitVec.ofNat 64 d.free))
  .ok d

def execSeqw (d a b : BitVec 5) (s : State) : Host.Outcome State Fault Refusal :=
  s.out (do
    let t ← s.staged (s.cx.s a)
    let n := (s.cx.s b).toNat
    let k := n % t.depth
    let land : Word := BitVec.ofNat 64 (t.lands + 8 * k)
    let p ← s.counterAt false land
    let _ ← s.counterAt false (BitVec.ofNat 64 t.free)
    let target := (n / t.depth + 1) * t.unit
    need (target ≤ 2 ^ 64 - 1) (cz 0x02)
    s.fenced 6
    let (v, s) ← s.counterRead p land
    await (target ≤ v) (.counter land target)
    .ok (s.wr 4 d (BitVec.ofNat 64 (t.base + k * 2 ^ t.sz))))

def execSeqrel (a b : BitVec 5) (s : State) : Host.Outcome State Fault Refusal :=
  s.out (do
    let t ← s.staged (s.cx.s a)
    let n := (s.cx.s b).toNat
    let free : Word := BitVec.ofNat 64 t.free
    let _ ← s.counterAt false (BitVec.ofNat 64 (t.lands + 8 * (n % t.depth)))
    let p ← s.counterAt true free
    s.fenced 6
    let (v, s) ← s.counterRead p free
    await (n ≤ v) (.counter free n)
    if v = n then do
      let (_, u) ← s.counterAdd s.curCore p 1 free
      .ok (u.skip 4)
    else .ok (s.skip 4))

end Sys2Proof.Machine
end

