-- ==== Sys2Proof/Machine/Seq.lean ====
section
/-! DEFINITION. The repetition buffer and its sequencer (02 R30 to R32, 23 R413, R414). -/

namespace Sys2Proof.Machine

/-! ### REPB -/

/-- The word at va as it is captured: a 32-bit word of majors 32 to 35 (02 R30). -/
def State.captureWord (s : State) (k : Nat) (va : Word) : Except CauseRec (BitVec 32) :=
  match s.fetchHalf k va with
  | .error c => .error c
  | .ok lo =>
    if !bit lo 0 then .error (cz 0x05)
    else match s.fetchHalf k (va + 2) with
      | .error c => .error c
      | .ok hi =>
        let w : BitVec 32 := hi ++ lo
        if 32 ≤ bits w 6 1 && bits w 6 1 ≤ 35 then .ok w else .error (cz 0x05)

/-- The n words from va with their addresses; none may stand at the LAST of an active LOOP level (23 R391). -/
def State.capture (s : State) (k : Nat) (va : Word) : Nat → Except CauseRec (List (Word × BitVec 32))
  | 0 => .ok []
  | n + 1 =>
    match s.captureWord k va with
    | .error c => .error c
    | .ok w =>
      if (s.ctx k).loops.any (fun l => l.last = va) then .error (cz 0x05)
      else match s.capture k (va + 4) n with
        | .error c => .error c
        | .ok t => .ok ((va, w) :: t)

/-- The instruction of a captured word that passes the checks of decoding. -/
def capturedInstr (w : BitVec 32) : Option Instr :=
  match decodeTableWord 32 w.toNat with
  | some i => if i.wellFormed then some i else none
  | none => none

/-- Past n captured words: a REPB at the LAST of the innermost level advances the level (23 R391). -/
def Ctx.advanceOver (x : Ctx) (n : Nat) : Ctx :=
  match x.loops with
  | l :: _ => if l.last = x.pc then
      (let y := x.advance 4
       if y.loops.length < x.loops.length then { y with pc := x.pc + BitVec.ofNat 64 (4 + 4 * n) } else y)
    else { x with pc := x.pc + BitVec.ofNat 64 (4 + 4 * n) }
  | [] => { x with pc := x.pc + BitVec.ofNat 64 (4 + 4 * n) }

/-- A REPB whose body is illegal, or whose captured words fail their decoding, leaves the buffer empty; a fetch fault
changes nothing (02 R30, 12 R262). -/
def execRepb (n : BitVec 6) (s : State) : Host.Outcome State Fault Refusal :=
  let x := s.cx
  if x.seqr.isSome then .next (s.block .sequencer)
  else
    let empty := s.setCx { x with rep := [] }
    if n = 0 || 16 < n.toNat then empty.out (.error (.trap (cz 0x05)))
    else match s.capture s.cur (x.pc + 4) n.toNat with
      | .error c => (if c.code = 0x05 then empty else s).out (.error (.trap c))
      | .ok l =>
        if l.all (fun p => (capturedInstr p.2).isSome) then .next (s.setCx ({ x with rep := l }.advanceOver n.toNat))
        else empty.out (.error (.trap (cz 0x02)))

/-! ### REPGO -/

def execRepgo (a : BitVec 5) (s : State) : Host.Outcome State Fault Refusal :=
  s.out (do
    let x := s.cx
    let e0 := x.e 0
    let n := (x.s a).toNat
    let wb := bits e0 63 59
    let ws := bits e0 58 54 + 1
    need (!x.rep.isEmpty) (cz 0x05)
    need (wb + ws ≤ 32 && n ≤ 65535) (cz 0x05)
    await (x.seqr.isNone) .sequencer
    if n = 0 then .ok (s.skip 4)
    else
      let q : Sequencer := { own := false, count := n, iter := 0, idx := 0, wb := wb, ws := ws, stp := bits e0 53 49 }
      .ok ((s.setCx { x with seqr := some q }).skip 4))

/-! ### The sequencer's issue -/

/-- A vector field under the window of REPGO. -/
def Sequencer.rename (q : Sequencer) (r : BitVec 5) : BitVec 5 :=
  if q.wb ≤ r.toNat ∧ r.toNat < q.wb + q.ws then BitVec.ofNat 5 (q.wb + (r.toNat - q.wb + q.iter * q.stp) % q.ws) else r

/-- After a word: the next of the body, the next iteration, or the end. -/
def Sequencer.next (q : Sequencer) (len : Nat) : Option Sequencer :=
  if q.idx + 1 < len then some { q with own := true, idx := q.idx + 1 }
  else if q.iter + 1 < q.count then some { q with own := true, iter := q.iter + 1, idx := 0 } else none

/-- A scalar read field of the sequencer: s28 to s31 pop q4 to q7, which must be the context's and hold an entry. -/
def State.seqRead (s : State) (k : Nat) (f : Option (BitVec 5)) : Option (Word × State) :=
  match f with
  | none => some (0, s)
  | some r =>
    if r.toNat < 28 then some ((s.ctx k).s r, s)
    else
      let c := s.core (k / 4)
      let i := r.toNat - 24
      if (c.qclaim[i]?).join = some (k % 4) then
        match (c.q[i]?).getD [] with
        | [] => none
        | v :: t =>
          some (v, s.setCore (k / 4) { c with q := c.q.set! i t, qclaim := if t.isEmpty then c.qclaim.set! i none else c.qclaim })
      else none

/-- The registers of a sequencer's word that must not be pending: its read fields below s28 and its destination. -/
def seqRegs (fs : List (Option (BitVec 5))) (d : Option (BitVec 5)) : List (BitVec 5) :=
  (fs.filterMap id).filter (fun r => r.toNat < 28) ++ (d.map (fun r => [r])).getD []

/-- The issue of one word of the sequencer of context k, already renamed; none while it waits. -/
def State.seqWord (s : State) (k : Nat) (pc : Word) (i : Instr) : Option (Except Stop State) :=
  let pend := (s.ctx k).pendR
  match i with
  | .vfence => if s.vbusy k || (s.ctx k).deferred.isSome then none else some (.ok s)
  | _ =>
    let vec := vecSpec i
    match (match vec with
      | some f => some f
      | none => matSpec i) with
    | none => some (.error (.trap (cz 0x02)))
    | some (fa, fb, fd) =>
      if (seqRegs [fa, fb] fd).any (fun r => pend.contains r) then none
      else
        (s.seqRead k fa).bind (fun p => (p.2.seqRead k fb).bind (fun q =>
          some (if vec.isSome then q.2.vecPush k pc i p.1 q.1 true else q.2.matIssue k pc i p.1 q.1)))

/-- The states in which a context's sequencer goes on. -/
def CState.seqLive : CState → Bool
  | .ready => true
  | .blocked _ => true
  | .held => true
  | _ => false

/-- The sequencer of a context has something to do in this turn. -/
def State.seqReady (s : State) (k : Nat) : Bool :=
  let x := s.ctx k
  match x.seqr with
  | none => false
  | some q => match x.rep[q.idx]? with
    | none => true
    | some (pc, w) => x.cs.seqLive && (match capturedInstr w with
      | none => true
      | some i => match s.seqWord k pc (renameV q.rename i) with
        | none => false
        | some (.error (.block _)) => false
        | some _ => true)

/-- The sequencer of a context issues its next word (02 R31): a fault is deferred to the word's capture address. -/
def execRepetitionSequencerIssue (key : Nat) (s : State) : Host.Outcome State Fault Refusal :=
  let x := s.ctx key
  match x.seqr with
  | none => .next s
  | some q =>
    match x.rep[q.idx]? with
    | none => .next (s.setCtx key { x with seqr := none })
    | some (pc, w) =>
      if !x.cs.seqLive then .next s
      else match capturedInstr w with
        | none => .next (s.setCtx key { x with seqr := none, deferred := some (pc, cz 0x02) })
        | some i =>
          match s.seqWord key pc (renameV q.rename i) with
          | none => .next s
          | some (.ok t) => .next (t.setCtx key { (t.ctx key) with seqr := q.next x.rep.length })
          | some (.error (.trap c)) => .next (s.setCtx key { x with seqr := none, deferred := some (pc, c) })
          | some (.error (.block _)) => .next s
          | some (.error .escape) => .next (s.escapeHeat key 0x5A)
          | some (.error .unverifiable) => .next (s.escapeHeat key 0x5B)

end Sys2Proof.Machine
end

