-- ==== Sys2Proof/Machine/Edge.lean ====
section
/-! DEFINITION. Edge programs: major 39 but VKSEND's issue, and the cell's edge sequencer (10, 22 R373, 23 R387, 19 R333). -/

namespace Sys2Proof.Machine

/-! ### KRBIN and the receive-and-accumulate unit -/

def krbOp (w : Word) : Nat := bits w 63 60
def krbVbase (w : Word) : Nat := bits w 31 16

/-- The checks of KRBIN (10 R221). -/
def krbOk (k0 k1 : Word) : Bool :=
  bits k0 11 0 = 0 && bits k1 59 32 = 0 && krbNr k0 ≠ 0 && 64 ≤ krbBs k0 && krbBs k0 ≤ 2560 && krbBs k0 % 64 = 0 &&
    krbOp k1 ≤ 9 && krbVbase k1 % 4 = 0 && krbBbase k1 % 8 = 0

def execKrbin (a b : BitVec 5) (s : State) : Host.Outcome State Fault Refusal :=
  s.out (do
    need (krbOk (s.cx.s a) (s.cx.s b)) (cz 0x02)
    if s.cx.st.chk then .ok (s.skip 4)
    else do
      let c := s.core s.curCore
      await c.kin.isEmpty .keys
      .ok ((s.setCore s.curCore { c with krb0 := s.cx.s a, krb1 := s.cx.s b }).skip 4))

/-- A bin after a candidate: the count saturates (10 R223, 19 R333). -/
def binStep (op old cand : Nat) : Nat :=
  combine op (old % 2 ^ 32) cand % 2 ^ 32 + min (old / 2 ^ 32 + 1) (2 ^ 32 - 1) * 2 ^ 32

/-- Addresses of a key's value word and bin. -/
def valueAddr (k0 k1 : Word) (key : Nat) : Nat := krbVbase k1 + 4 * (key % krbBs k0)

/-- n bytes of a core's scratch within its extent, for a unit that has no context. -/
def State.unitRead (s : State) (core a n : Nat) : Except CauseRec (List Byte) :=
  if !s.inScratch core a n then .error (czAt 0x21 (BitVec.ofNat 64 a))
  else if (s.core core).ecc.failing (scratchIdx (s.core core).waym a) n then .error (czAt 0x27 (BitVec.ofNat 64 a))
  else .ok (s.scratchBytes core a n)

def State.unitWrite (s : State) (core a : Nat) (b : List Byte) : Except CauseRec State :=
  if !s.inScratch core a b.length then .error (czAt 0x21 (BitVec.ofNat 64 a))
  else if (s.core core).ecc.failingPart (scratchIdx (s.core core).waym a) b.length then .error (czAt 0x27 (BitVec.ofNat 64 a))
  else .ok (s.putScratchW core a b)

/-- The same as a step of a sequencer, whose stop may also be a wait. -/
def State.seqUnit (s : State) (core a n : Nat) : Except Stop Nat := ((s.unitRead core a n).mapError Stop.trap).map leNat
def State.seqPut (s : State) (core a n v : Nat) : Except Stop State := (s.unitWrite core a (leBytes n v)).mapError Stop.trap

/-! ### Posts and aborts of a program -/

def EdgeProg.stats (p : EdgeProg) : Nat := bits p.e[5] 55 0
def EdgeProg.g (p : EdgeProg) : Nat := bits p.e[7] 63 48

/-- A counter of the statistics area rises by n. -/
def State.edgeAdd (s : State) (p : EdgeProg) (off n : Nat) : Except Stop State :=
  s.post p.core (s.partOf p.core) (p.priv = 0) (BitVec.ofNat 64 (p.stats + off)) n

/-- A counter of the statistics area. -/
def State.edgeCount (s : State) (p : EdgeProg) (off : Nat) : Except Stop Nat := do
  let va : Word := BitVec.ofNat 64 (p.stats + off)
  let q ← (s.counterPa p.core (s.partOf p.core) (p.priv = 0) false va).mapError Stop.trap
  let b ← s.readPlace p.key q 8 va
  .ok (leNat b)

/-- A post whose fault has nothing left to stop. -/
def State.edgePost (s : State) (p : EdgeProg) (off : Nat) : Except Stop State := match s.edgeAdd p off 1 with
  | .error (.trap _) => .ok s
  | r => r

/-- The sequencer's program leaves gq with an END. -/
def State.edgeStop (s : State) (cell : Nat) (fin : BitVec 2) : State :=
  let u := s.cell cell
  s.setCell cell { u with gq := u.gq.drop 1, edge := none, esw := { u.esw with run := false, fin := fin } }

/-- A fault aborts the program: gq freezes, ABORT and DONE rise by 1, and the issuing context takes the
cause, with INFO as an engine fault has it (10 R234, 12 Table 12-8). None while a post must wait. -/
def State.edgeAbort (s : State) (cell : Nat) (p : EdgeProg) (c : CauseRec) : Option State :=
  match (do
    let t ← s.edgePost p 8
    t.edgePost p 0) with
  | .error _ => none
  | .ok s =>
    let s := s.edgeStop cell 3
    let u := s.cell cell
    some ((s.setCell cell { u with gqFrozen := true }).postAsync p.key p.task 8 (engineCause c p.num))

/-- The sender of an update learns of a cause; none while the abort of its program must wait. -/
def State.keyReport (s : State) (u : KeyUpdate) (c : CauseRec) : Option State :=
  match u.edge with
  | none => some (s.postAsync u.sender u.task 1 c)
  | some cell =>
    match (s.cell cell).edge with
    | some r => if c.code = 0x28 then some (s.postAsync u.sender u.task 8 c) else s.edgeAbort cell r.prog c
    | none => some s

/-- The owner's unit applies its oldest update to a bin, in one access (10 R223, R224); updates that arrived after a
WAYS are held until it completes. -/
def execKeyUpdateApply (core : Nat) (s : State) : Host.Outcome State Fault Refusal :=
  let c := s.core core
  match c.kin with
  | [] => .next s
  | u :: t =>
    if c.ways.any (fun w => w.kin = 0) then .next s
    else
      let s0 := s.setCore core { c with kin := t, ways := c.ways.map (fun w => { w with kin := w.kin - 1 }) }
      if krbNr c.krb0 = 0 || krbBs c.krb0 = 0 then
        .next ((s0.keyReport u { code := 0x28, info := BitVec.ofNat 32 u.rank, va := 0 }).getD s)
      else
        let a := binAddr c.krb0 c.krb1 u.key
        match s0.unitRead core a 8 with
        | .error z => .next ((s0.keyReport u z).getD s)
        | .ok b => match (s0.unitTouch core a 8).unitWrite core a (leBytes 8 (binStep (krbOp c.krb1) (leNat b) u.value.toNat)) with
          | .ok s1 => .next s1
          | .error z => .next ((s0.keyReport u z).getD s)

/-! ### EDGE and EMODE -/

/-- The checks of a descriptor at issue (10 R226). -/
def edgeOk (e : Vector Word 8) (krb0 : Word) (cells : Nat) : Bool :=
  bits e[0] 63 56 = 0 && bits e[1] 63 56 = 0 && e[0].toNat % 64 = 0 && e[1].toNat % 64 = 0 &&
  bits e[2] 63 56 = 0 && bits e[3] 63 56 = 0 && e[2].toNat % 8 = 0 && e[3].toNat % 8 = 0 &&
  bits e[4] 63 60 = 0 && bits e[4] 55 0 % 4 = 0 && bits e[5] 63 56 = 0 && e[5].toNat % 64 = 0 &&
  bits e[7] 44 44 = 0 && bits e[7] 31 0 = 0 && bits e[7] 63 48 ≠ 0 && bits e[7] 63 48 ≤ cells && bits e[7] 43 32 ≠ 0 &&
  krbNr krb0 ≠ 0 && krbBs krb0 ≠ 0

def execEdge (s : State) : Host.Outcome State Fault Refusal :=
  s.out (do
    let x := s.cx
    let c := s.core s.curCore
    let p := s.part s.curPart
    need (edgeOk x.ereg c.krb0 p.cells.length) (cz 0x42)
    need (!x.isWork) (cz 0x2C)
    need (!(p.det && krbOp c.krb1 = 9 && !(bit (x.e 7) 45 && bits (x.e 6) 47 32 = 0))) (cz 0x44)
    if x.st.chk then .ok (s.skip 4)
    else do
      s.engineFree s.cur
      let u := s.cell s.curCell
      let g : EdgeProg := { key := s.cur, task := x.taskNum, pc := x.pc, core := s.curCore, krb0 := c.krb0, krb1 := c.krb1,
                            e := x.ereg, s := x.sreg, priv := x.st.priv, num := u.gqNum }
      let s := if p.det then s.setCore s.curCore { c with edges := c.edges ++ [{ done := BitVec.ofNat 64 g.stats, g := g.g, user := g.priv = 0 }] } else s
      .ok ((s.setCell s.curCell { u with gq := u.gq ++ [g], gqNum := u.gqNum + 1 }).skip 4))

/-- EDGESW as it reads (10 Table 10-6). -/
def EdgeSw.word (e : EdgeSw) : Word :=
  BitVec.ofNat 32 e.level ++ (0 : BitVec 24) ++ boolBit e.run ++ e.fin ++ e.force ++ e.pend ++ boolBit e.mode

def execEmode (d a : BitVec 5) (s : State) : Host.Outcome State Fault Refusal :=
  s.out (do
    let r := s.cx.s a
    let u := s.cell s.curCell
    need (bits r 63 2 = 0) (cz 0x02)
    let nine := (s.part s.curPart).det && u.edge.any (fun g => krbOp g.prog.krb1 = 9)
    need (!(nine && r = 1)) (cz 0x44)
    let t := if r ≠ 0 && u.esw.run then s.setCell s.curCell { u with esw := { u.esw with pend := r.setWidth 2 } } else s
    .ok (t.wr 4 d u.esw.word))

/-! ### Reading the graph -/

/-- n bytes of translated memory, scratch of the issuing core or a rank window, within a page, for a program (03 R67,
R465, 10 R218). -/
def State.edgeRead (s : State) (p : EdgeProg) (a n : Nat) : Except Stop (List Byte) := do
  let va : Word := BitVec.ofNat 64 a
  let q ← s.placeOf p.key false (p.priv = 0) (Req.load n) va
  s.readPlace p.key q n va

def State.edgeWord (s : State) (p : EdgeProg) (a : Nat) : Except Stop Nat := (s.edgeRead p a 4).map leNat

/-- An index block, in translated memory (10 R218): NV, NE, OFFS, IDS, EW; none where a field breaks its form. -/
def State.edgeBlock (s : State) (p : EdgeProg) (a : Nat) : Except Stop (Option (Nat × Nat × Nat × Nat × Nat)) := do
  let va : Word := BitVec.ofNat 64 a
  need (spaceOf va ≠ .scratch) (czAt 0x21 va)
  need (spaceOf va ≠ .rank) (rankCause va)
  let b ← s.edgeRead p a 64
  let w := fun (i : Nat) => leNat ((b.drop (8 * i)).take 8)
  let ok := w 0 % 2 ^ 32 ≠ 0 && w 1 % 4 = 0 && w 2 % 4 = 0 && w 3 % 4 = 0 && w 4 = 0 && w 5 = 0 && w 6 = 0 && w 7 = 0
  .ok (if ok then some (w 0 % 2 ^ 32, w 0 / 2 ^ 32, w 1, w 2, w 3) else none)

/-- The offsets from the i-th on do not decrease from l and end at NE. -/
def State.offsetsOk (s : State) (p : EdgeProg) (offs ne : Nat) : Nat → Nat → Nat → Except Stop Bool
  | 0, _, l => .ok (decide (l = ne))
  | n + 1, i, l => do
    let v ← s.edgeWord p (offs + 4 * i)
    if l ≤ v && v ≤ ne then s.offsetsOk p offs ne n (i + 1) v else .ok false

/-- Every identifier is below NV. -/
def State.idsOk (s : State) (p : EdgeProg) (ids nv : Nat) : Nat → Nat → Except Stop Bool
  | 0, _ => .ok true
  | n + 1, i => do
    let v ← s.edgeWord p (ids + 4 * i)
    if v < nv then s.idsOk p ids nv n (i + 1) else .ok false

/-- One block of the graph checked against R218. -/
def State.blockOk (s : State) (p : EdgeProg) (b : Nat × Nat × Nat × Nat × Nat) : Except Stop Bool := do
  let o0 ← s.edgeWord p b.2.2.1
  if o0 ≠ 0 then .ok false
  else
    let up ← s.offsetsOk p b.2.2.1 b.2.1 b.1 1 0
    if up then s.idsOk p b.2.2.2.1 b.1 b.2.1 0 else .ok false

/-! ### The body (10 R228) -/

/-- A word of the routine, fetched as an instruction is; a body in scratch is refused with "scratch out of range" (03
R465). -/
def State.edgeFetch (s : State) (p : EdgeProg) (a : Nat) : Except Stop (BitVec 32) :=
  let va : Word := BitVec.ofNat 64 a
  match spaceOf va with
  | .translated =>
    let part := s.partOf p.core
    match s.translate p.core part a with
    | .error c => .error (.trap (czAt c va))
    | .ok (e, lg) =>
      if pteOwner e ≠ part then .error (.trap (czAt 0x25 va))
      else if !pteX e || (p.priv = 0 && !pteU e) then .error (.trap (czAt 0x24 va))
      else
        let pa := pteAddr e + a % 2 ^ lg
        if !s.backed pa then .error (.trap (czAt 0x26 va))
        else if s.memFailing pa 4 then .error (.trap (czAt 0x27 va))
        else .ok (BitVec.ofNat 32 (leNat (s.physBytes (pteKey e) pa 4)))
  | .scratch => .error (.trap (czAt 0x21 va))
  | .rank => .error (.trap (rankCause va))
  | .completion => .error (.trap (czAt 0x29 va))
  | _ => .error (.trap (czAt 0x2D va))

def State.edgeBody (s : State) (p : EdgeProg) (a : Nat) : Nat → Except Stop (List (BitVec 32))
  | 0 => .ok []
  | n + 1 => do
    let w ← s.edgeFetch p a
    let t ← s.edgeBody p (a + 4) n
    .ok (w :: t)

/-- The mask register a VCMP writes. -/
def maskDst : Instr → Nat
  | .vcmpEqF32 m .. | .vcmpLtF32 m .. | .vcmpLeF32 m .. | .vcmpNeF32 m .. | .vcmpEq m .. | .vcmpNe m .. | .vcmpLt m ..
  | .vcmpLe m .. | .vcmpLtU m .. | .vcmpLeU m .. => m.toNat
  | _ => 0

/-- A word the body may hold. -/
def bodyWordOk (w : BitVec 32) : Bool :=
  (bits w 6 1 = 32 || bits w 6 1 = 33) &&
  match capturedInstr w with
  | none => false
  | some i =>
    (match i with
      | .vtab .. | .vcvt .. => false
      | _ => true) &&
    (vecSpec i).isSome && (vecDst i).isNone && renameV (fun r => r &&& 7) i = i && bits w 24 22 ≤ 2 && maskDst i ≤ 2

/-- A body run in the window: flags are discarded, rounding is nearest-even, scalars are those of EDGE's issue. -/
def runBody (sreg : Vector Word 32) : List (BitVec 32) → Ctx → Ctx
  | [], x => x
  | w :: t, x =>
    match capturedInstr w with
    | none => runBody sreg t x
    | some i =>
      let f := (vecSpec i).getD (none, none, none)
      let val := fun (r : Option (BitVec 5)) => match r with
        | some r => if r = 0 then (0 : Word) else sreg[r.toNat]'(r.isLt)
        | none => 0
      runBody sreg t ((x.vecPure i (val f.1) (val f.2.1) 0 0).getD x)

/-! ### Starting a program -/

def State.edgeCheck (s : State) (p : EdgeProg) : Except Stop EdgeRun := do
  let out ← s.edgeBlock p p.e[0].toNat
  let into ← s.edgeBlock p p.e[1].toNat
  match out, into with
  | some o, some i =>
    need (o.1 = i.1 && o.2.1 = i.2.1) (cz 0x43)
    let okOut ← s.blockOk p o
    let okIn ← s.blockOk p i
    need (okOut && okIn) (cz 0x43)
    let body ← s.edgeBody p (bits p.e[4] 55 0) (bits p.e[4] 59 56 + 1)
    need (body.all bodyWordOk) (cz 0x42)
    .ok { prog := p, nv := o.1, ne := o.2.1, offs := BitVec.ofNat 64 o.2.2.1, ids := BitVec.ofNat 64 o.2.2.2.1,
          ew := BitVec.ofNat 64 o.2.2.2.2, coffs := BitVec.ofNat 64 i.2.2.1, cids := BitVec.ofNat 64 i.2.2.2.1,
          cew := BitVec.ofNat 64 i.2.2.2.2, body := body, vreg := Vector.replicate 8 (Vector.replicate 8 0),
          m := #v[255, 0, 0], vtx := 0, edge := 0, phase := 0 }
  | _, _ => .error (.trap (cz 0x43))

/-- A step of a cell's sequencer: a wait leaves all as it was, a fault aborts the program. -/
def State.edgeDo (s : State) (cell : Nat) (p : EdgeProg) (r : Except Stop State) : State :=
  match r with
  | .ok t => t
  | .error (.trap c) => (s.edgeAbort cell p c).getD s
  | .error _ => s

/-- The edge sequencer takes the oldest program of gq (10 R226). One queued after a WAYS of its core issued is held until that
completes (03 Table 3-3), and none starts while the partition is switched out (12 R256). -/
def execEdgeProgramStart (cell : Nat) (s : State) : Host.Outcome State Fault Refusal :=
  let u := s.cell cell
  match u.gq, u.edge with
  | p :: _, none =>
    if u.gqFrozen || !s.mayBegin 3 cell || s.parking (cell * 4) || (s.core p.core).ways.any (fun w => w.gq ≤ p.num) then .next s
    else
      let sw : EdgeSw := { level := 0, run := true, fin := 0, force := 0, pend := 0, mode := bit p.e[7] 45 }
      match s.edgeCheck p with
      | .ok r => .next (s.setCell cell { u with edge := some r, esw := sw })
      | .error (.trap c) => .next (((s.setCell cell { u with esw := sw }).edgeAbort cell p c).getD s)
      | .error _ => .next s
  | _, _ => .next s

/-! ### Vertices and edges -/

/-- The core of this cell that owns a vertex: the coordinate of its rank's entry, be it in transit or not (10 R226). -/
def State.ownerHere (s : State) (cell : Nat) (r : EdgeRun) (v : Nat) : Option Nat :=
  (keyOwner r.prog.krb0 v).bind (fun rank =>
    let e := s.rankSeen r.prog.core (s.partOf r.prog.core) rank
    if bit e 63 && decide (bits e 17 0 / 4 = cell) then some (bits e 17 0) else none)

/-- The current and the next frontier at a level (10 R226). -/
def frontiers (p : EdgeProg) (level : Nat) : Nat × Nat :=
  if level % 2 = 0 then (p.e[2].toNat, p.e[3].toNat) else (p.e[3].toNat, p.e[2].toNat)

/-- The bit of a vertex in a bitmap. -/
def State.bitAt (s : State) (p : EdgeProg) (base v : Nat) : Except Stop Bool :=
  (s.edgeRead p (base + v / 8) 1).map (fun b => decide (leNat b / 2 ^ (v % 8) % 2 = 1))

/-- The value word of a vertex, read through its owner's rank window (10 R230), which ends at 0x6000 (03 R67): a rank in transit
holds the access, and another core's WAYS too (03 R69, Table 3-3). -/
def State.vertexValue (s : State) (p : EdgeProg) (v : Nat) : Except Stop Nat := do
  match keyOwner p.krb0 v with
  | none => .error (.trap { code := 0x28, info := noOwnerInfo p.krb0 v s.free, va := 0 })
  | some rank =>
    let c ← s.rankCore p.core (s.partOf p.core) rank 0
    need (valueAddr p.krb0 p.krb1 v + 4 ≤ 0x6000) { code := 0x28, info := BitVec.ofNat 32 rank, va := 0 }
    await (c = p.core || (s.core c).ways.isNone) (.ways c)
    s.seqUnit c (valueAddr p.krb0 p.krb1 v) 4

/-- What reads of value words, and of bins, leave in the arrays of their owners (03 R80). -/
def State.vertexTouch (s : State) (p : EdgeProg) (addr : Word → Word → Nat → Nat) (n : Nat) (l : List Nat) : State :=
  l.foldl (fun t v => match keyOwner p.krb0 v with
    | some rank => t.unitTouch (bits (s.rankSeen p.core (s.partOf p.core) rank) 17 0) (addr p.krb0 p.krb1 v) n
    | none => t) s

/-- An edge of a batch: source, edge word, destination. -/
structure BatchEdge where
  src : Nat
  word : Nat
  dst : Nat
  value : Nat
  deriving DecidableEq, Repr

/-- The window before a batch: the lanes without an edge hold values the spec does not give. -/
def EdgeRun.window (r : EdgeRun) (level free : Nat) (b : List BatchEdge) : Ctx :=
  let put := fun (off : Nat) (f : BatchEdge → Nat) =>
    (Vector.ofFn (fun i : Fin 8 => match b[i.val]? with
      | some e => BitVec.ofNat 32 (f e)
      | none => (Config.freeWord (free + off + i.val)).setWidth 32) : VReg)
  let x : Ctx := { Ctx.reset with
    vreg := Vector.ofFn (fun i : Fin 32 => if h : i.val < 8 then r.vreg[i.val]'h else Vector.replicate 8 0),
    mreg := Vector.ofFn (fun i : Fin 8 => if h : i.val < 3 then r.m[i.val]'h else 0) }
  let x := ((x.setV 0 (put 0 (fun e => e.value))).setV 1 (put 8 (fun e => e.word))).setV 2 (put 16 (fun e => e.dst))
  ((x.setV 3 (put 24 (fun e => e.src))).setV 5 (put 32 (fun _ => level))).setM 1 (BitVec.ofNat 8 (2 ^ b.length - 1))

/-- The window kept after a batch. -/
def EdgeRun.keep (r : EdgeRun) (x : Ctx) : EdgeRun :=
  { r with vreg := Vector.ofFn (fun i : Fin 8 => x.vreg[i.val]'(by omega)), m := #v[x.mreg[0], x.mreg[1], x.mreg[2]] }

/-- The candidates of a batch: lanes that had an edge and are still set in m1. -/
def liveLanes (x : Ctx) (n : Nat) : List Nat := (activeLanes (x.m 1)).filter (fun i => i < n)

/-! ### Push (10 R229) -/

/-- Up to n out-edges of a vertex from entry i. -/
def State.outEdges (s : State) (r : EdgeRun) (v value : Nat) : Nat → Nat → Except Stop (List BatchEdge)
  | 0, _ => .ok []
  | n + 1, i => do
    let d ← s.edgeWord r.prog (r.ids.toNat + 4 * i)
    let w ← s.edgeWord r.prog (r.ew.toNat + 4 * i)
    let t ← s.outEdges r v value n (i + 1)
    .ok ({ src := v, word := w, dst := d, value := value } :: t)

/-- The sequencer's VKSEND v2, v4, m1. -/
def State.edgeSend (s : State) (cell : Nat) (p : EdgeProg) (x : Ctx) : List Nat → State
  | [] => s
  | i :: t =>
    let u : KeyUpdate := { key := lane (x.v 2) i, value := BitVec.ofNat 32 (lane (x.v 4) i), rank := 0, sender := p.key,
                           task := p.task, edge := some cell, stamp := none }
    match s.sendKey p.core (s.partOf p.core) p.krb0 u with
    | .ok s' => s'.edgeSend cell p x t
    | .error (.trap c) => ((s.bump 1).postAsync p.key p.task 8 c).edgeSend cell p x t
    | .error _ => s.edgeSend cell p x t

/-- The next owned vertex of the frontier from v on, with fuel n. -/
def State.nextActive (s : State) (cell : Nat) (r : EdgeRun) (base : Nat) : Nat → Nat → Except Stop Nat
  | 0, v => .ok v
  | n + 1, v =>
    if (s.ownerHere cell r v).isNone then s.nextActive cell r base n (v + 1)
    else do
      let b ← s.bitAt r.prog base v
      if b then .ok v else s.nextActive cell r base n (v + 1)

/-- The program of a cell goes on as q. -/
def State.edgeKeep (s : State) (cell : Nat) (q : EdgeRun) : State := s.setCell cell { (s.cell cell) with edge := some q }

/-- A push batch: up to eight out-edges of the next active owned vertex, the body, and the sends. The batch waits for
places in the issuing core's interface where owners are in transit (02 R44, 03 R69). -/
def State.pushBatch (s : State) (cell : Nat) (r : EdgeRun) (level : Nat) : Except Stop State := do
  let p := r.prog
  let v ← s.nextActive cell r (frontiers p level).1 (r.nv - r.vtx) r.vtx
  if r.nv ≤ v then .ok (s.edgeKeep cell { r with vtx := r.nv, edge := 0 })
  else
    let e0 := if v = r.vtx then r.edge else 0
    let lo ← s.edgeWord p (r.offs.toNat + 4 * v)
    let hi ← s.edgeWord p (r.offs.toNat + 4 * (v + 1))
    let own := (s.ownerHere cell r v).getD 0
    let val ← s.seqUnit own (valueAddr p.krb0 p.krb1 v) 4
    let n := min 8 (hi - (lo + e0))
    if n = 0 then .ok (s.edgeKeep cell { r with vtx := v + 1, edge := 0 })
    else
      let b ← s.outEdges r v val n (lo + e0)
      let x := runBody p.s r.body (r.window level s.free b)
      s.keysReady p.core (s.partOf p.core) p.krb0 ((liveLanes x n).map (fun i => lane (x.v 2) i))
      let t := ((s.bump 40).vertexTouch p valueAddr 4 [v]).edgeSend cell p x (liveLanes x n)
      let q := r.keep x
      .ok (t.edgeKeep cell (if hi ≤ lo + e0 + n then { q with vtx := v + 1, edge := 0 } else { q with vtx := v, edge := e0 + n }))

/-! ### Pull (10 R230) -/

/-- Up to n in-edges of w from entry i, before entry hi, whose source is in the frontier; and where the scan stopped. -/
def State.inEdges (s : State) (r : EdgeRun) (base w hi : Nat) : Nat → Nat → Nat → Except Stop (List BatchEdge × Nat)
  | 0, _, i => .ok ([], i)
  | f + 1, n, i =>
    if n = 0 || hi ≤ i then .ok ([], i)
    else do
      let src ← s.edgeWord r.prog (r.cids.toNat + 4 * i)
      let on ← s.bitAt r.prog base src
      if on then
        let val ← s.vertexValue r.prog src
        let ew ← s.edgeWord r.prog (r.cew.toNat + 4 * i)
        let (t, j) ← s.inEdges r base w hi f (n - 1) (i + 1)
        .ok ({ src := src, word := ew, dst := w, value := val } :: t, j)
      else s.inEdges r base w hi f n (i + 1)

/-- The settle test (10 R230). -/
def settled (op : Nat) (srel : Bool) (setl level x : Nat) : Bool :=
  let t := if srel then (setl + level) % 2 ^ 32 else setl
  match op with
  | 0 => Nat.land x t = t
  | 2 => x ≤ t
  | 4 => signedOf 32 x ≤ signedOf 32 t
  | 6 =>
    let tf := if srel then (match fp32.val setl with
      | .fin _ v => (roundDy fp32 0 false false (v.add (Dy.ofInt level))).1
      | _ => setl) else setl
    (fCmp 2 x tf).1
  | _ => false

/-- w is settled: the test on its value combined with its bin. -/
def State.isSettled (s : State) (core : Nat) (r : EdgeRun) (level w value : Nat) : Except Stop Bool := do
  let bin ← s.seqUnit core (binAddr r.prog.krb0 r.prog.krb1 w) 8
  let op := krbOp r.prog.krb1
  .ok (settled op (bit r.prog.e[7] 47) (bits r.prog.e[6] 31 0) level (combine op value (bin % 2 ^ 32)))

/-- Candidates combined into w's bin in ascending lanes, until w is settled: the state and whether it is. -/
def State.pullCombine (s : State) (core : Nat) (r : EdgeRun) (level w value : Nat) (x : Ctx) : List Nat → Except Stop (State × Bool)
  | [] => .ok (s, false)
  | i :: t => do
    let a := binAddr r.prog.krb0 r.prog.krb1 w
    let bin ← s.seqUnit core a 8
    let s ← (s.unitTouch core a 8).seqPut core a 8 (binStep (krbOp r.prog.krb1) bin (lane (x.v 4) i))
    let fin ← s.isSettled core r level w value
    if fin then .ok (s, true) else s.pullCombine core r level w value x t

/-- The next owned destination that pull scans, with fuel n. -/
def State.nextPull (s : State) (cell : Nat) (r : EdgeRun) : Nat → Nat → Except Stop Nat
  | 0, v => .ok v
  | n + 1, v =>
    match s.ownerHere cell r v with
    | none => s.nextPull cell r n (v + 1)
    | some own =>
      if !bit r.prog.e[7] 46 then .ok v
      else do
        let x ← s.seqUnit own (valueAddr r.prog.krb0 r.prog.krb1 v) 4
        if x = combineId (krbOp r.prog.krb1) || (v = r.vtx && r.edge ≠ 0) then .ok v else s.nextPull cell r n (v + 1)

/-- A pull batch: up to eight in-edges of the next owned destination whose scan has not ended; a destination that is
settled already takes none. -/
def State.pullBatch (s : State) (cell : Nat) (r : EdgeRun) (level : Nat) : Except Stop State := do
  let p := r.prog
  let w ← s.nextPull cell r (r.nv - r.vtx) r.vtx
  if r.nv ≤ w then .ok (s.edgeKeep cell { r with vtx := r.nv, edge := 0 })
  else
    let e0 := if w = r.vtx then r.edge else 0
    let own := (s.ownerHere cell r w).getD 0
    let lo ← s.edgeWord p (r.coffs.toNat + 4 * w)
    let hi ← s.edgeWord p (r.coffs.toNat + 4 * (w + 1))
    let val ← s.seqUnit own (valueAddr p.krb0 p.krb1 w) 4
    let early ← s.isSettled own r level w val
    if early then .ok (s.edgeKeep cell { r with vtx := w + 1, edge := 0 })
    else
      let (b, j) ← s.inEdges r (frontiers p level).1 w hi (hi - lo + 1) 8 (lo + e0)
      if b.isEmpty then .ok (s.edgeKeep cell { r with vtx := w + 1, edge := 0 })
      else
        let x := runBody p.s r.body (r.window level s.free b)
        let t := ((s.bump 40).vertexTouch p valueAddr 4 (w :: b.map (fun e => e.src))).vertexTouch p binAddr 8 [w]
        let (t, now) ← t.pullCombine own r level w val x (liveLanes x b.length)
        let q := r.keep x
        .ok (t.edgeKeep cell (if now || hi ≤ j then { q with vtx := w + 1, edge := 0 } else { q with vtx := w, edge := j - lo }))

/-- A batch of the running program in the mode given: push is 0, pull is 1. A program parks between batches (12 Table 12-5). -/
def State.edgeBatch (s : State) (cell : Nat) (mode : Bool) : State :=
  let u := s.cell cell
  match u.edge with
  | none => s
  | some r =>
    if u.gqFrozen || r.phase ≠ 0 || r.nv ≤ r.vtx || u.esw.mode ≠ mode || s.parking (cell * 4) then s
    else s.edgeDo cell r.prog (if mode then s.pullBatch cell r u.esw.level else s.pushBatch cell r u.esw.level)

def execEdgePushBatch (cell : Nat) (s : State) : Host.Outcome State Fault Refusal := .next (s.edgeBatch cell false)
def execEdgePullBatch (cell : Nat) (s : State) : Host.Outcome State Fault Refusal := .next (s.edgeBatch cell true)

/-! ### The end of a level (10 R231, R232) -/

/-- Updates the sequencer of a cell has sent and no bin has taken yet: at an owner's unit, in an interface, or held for a
rank in transit. -/
def State.edgeKeysOut (s : State) (cell : Nat) : Bool :=
  let mine := fun (u : KeyUpdate) => decide (u.edge = some cell)
  s.cores.any (fun c => c.2.kin.any mine || c.2.held.any (fun m => match m.act with
    | .key u => mine u
    | _ => false)) ||
    s.parts.any (fun p => p.2.transit.any (fun h => match h.2 with
      | .key _ u => mine u
      | _ => false)) ||
    s.cells.any (fun u => u.2.holding.any (fun q => q.2.any (fun h => match h with
      | .key _ u => mine u
      | _ => false)))

/-- The bins of the owned vertices from v on applied: the state, the bits of next set, NV and NE. -/
def State.applyBins (s : State) (cell : Nat) (r : EdgeRun) : Nat → Nat → List Nat → Nat → Nat → Except Stop (State × List Nat × Nat × Nat)
  | 0, _, next, nf, mf => .ok (s, next, nf, mf)
  | n + 1, w, next, nf, mf =>
    match s.ownerHere cell r w with
    | none => s.applyBins cell r n (w + 1) next nf mf
    | some core => do
      let p := r.prog
      let op := krbOp p.krb1
      let ba := binAddr p.krb0 p.krb1 w
      let bin ← s.seqUnit core ba 8
      let s := s.unitTouch core ba 8
      if bin / 2 ^ 32 = 0 then s.applyBins cell r n (w + 1) next nf mf
      else
        let val ← s.seqUnit core (valueAddr p.krb0 p.krb1 w) 4
        let s := s.unitTouch core (valueAddr p.krb0 p.krb1 w) 4
        let new := combine op val (bin % 2 ^ 32) % 2 ^ 32
        let s ← s.seqPut core ba 8 (combineId op)
        if new = val then s.applyBins cell r n (w + 1) next nf mf
        else
          let s ← s.seqPut core (valueAddr p.krb0 p.krb1 w) 4 new
          let lo ← s.edgeWord p (r.offs.toNat + 4 * w)
          let hi ← s.edgeWord p (r.offs.toNat + 4 * (w + 1))
          s.applyBins cell r n (w + 1) (w :: next) (nf + 1) (mf + (hi - lo))

/-- The words of next that hold owned vertices, written whole. -/
def State.writeNext (s : State) (cell : Nat) (r : EdgeRun) (base : Nat) (next : List Nat) : Nat → Nat → Except Stop State
  | 0, _ => .ok s
  | n + 1, i =>
    if (s.ownerHere cell r (64 * i)).isNone then s.writeNext cell r base next n (i + 1)
    else do
      let w := (next.filter (fun v => v / 64 = i)).foldl (fun a v => a + 2 ^ (v % 64)) 0
      let va : Word := BitVec.ofNat 64 (base + 8 * i)
      let q ← s.placeOf r.prog.key false (r.prog.priv = 0) (Req.store 8) va
      let t ← s.writePlace r.prog.key q (leBytes 8 w) va
      t.writeNext cell r base next n (i + 1)

/-- The counters of a level's record. -/
def levelCtr (level off : Nat) : Nat := 0x40 + 64 * level + off

/-- Several posts in order. -/
def State.edgeAdds (s : State) (p : EdgeProg) : List (Nat × Nat) → Except Stop State
  | [] => .ok s
  | (o, n) :: t => do
    let s ← s.edgeAdd p o n
    s.edgeAdds p t

/-- SENT has been awaited: bins are applied, next is written and the totals are added. -/
def State.levelApply (s : State) (cell : Nat) (r : EdgeRun) (sw : EdgeSw) : Except Stop State := do
  let (s, next, nf, mf) ← s.applyBins cell r r.nv 0 [] 0 0
  let s ← s.writeNext cell r (frontiers r.prog sw.level).2 next ((r.nv + 63) / 64) 0
  let req := match sw.pend.toNat with
    | 1 => [(levelCtr sw.level 0x20, 1)]
    | 2 => [(levelCtr sw.level 0x28, 1)]
    | 3 => [(levelCtr sw.level 0x30, 1)]
    | _ => []
  let s ← s.edgeAdds r.prog ([(levelCtr sw.level 0x10, nf), (levelCtr sw.level 0x18, mf)] ++ req ++ [(levelCtr sw.level 8, 1)])
  let u := s.cell cell
  .ok (s.setCell cell { u with edge := some { r with phase := 2 }, esw := { u.esw with pend := 0 } })

/-- The force and mode of the next level (10 R231). -/
def nextMode (r : EdgeRun) (sw : EdgeSw) (nv ne push pull auto : Nat) : BitVec 2 × Bool :=
  let f : BitVec 2 := if 0 < pull then 2 else if 0 < push then 1 else if 0 < auto then 0 else sw.force
  if f = 2 then (f, true) else if f = 1 then (f, false)
  else if !sw.mode && bits r.prog.e[6] 63 48 * r.ne < ne * 65536 then (f, true)
  else if sw.mode && nv * 65536 < bits r.prog.e[6] 47 32 * r.nv then (f, false)
  else (f, sw.mode)

/-- ARRIVE has been awaited: the program ends, or the next level's mode is chosen. -/
def State.levelNext (s : State) (cell : Nat) (r : EdgeRun) (sw : EdgeSw) : Except Stop State := do
  let c := fun (o : Nat) => s.edgeCount r.prog (levelCtr sw.level o)
  let nv ← c 0x10
  let ne ← c 0x18
  let push ← c 0x20
  let pull ← c 0x28
  let auto ← c 0x30
  if nv = 0 || sw.level + 1 = bits r.prog.e[7] 43 32 then
    let t ← s.edgeAdd r.prog 0 1
    .ok (t.edgeStop cell (if nv = 0 then 1 else 2))
  else
    let m := nextMode r sw nv ne push pull auto
    let u := s.cell cell
    .ok (s.setCell cell { u with edge := some { r with phase := 0, vtx := 0, edge := 0 },
                                 esw := { u.esw with level := sw.level + 1, force := m.1, mode := m.2 } })

/-- A wait of the level's end: none while it goes on, else whether another sequencer has aborted. -/
def State.edgeWait (s : State) (r : EdgeRun) (off : Nat) : Except Stop (Option Bool) := do
  let n ← s.edgeCount r.prog off
  let a ← s.edgeCount r.prog 8
  .ok (if 1 ≤ a then some true else if r.prog.g ≤ n then some false else none)

/-- A step of a level's end. -/
def State.levelEnd (s : State) (cell : Nat) (r : EdgeRun) (sw : EdgeSw) : Except Stop State := do
  match r.phase with
  | 0 =>
    if r.vtx < r.nv || s.edgeKeysOut cell then .ok s
    else
      let t ← s.edgeAdd r.prog (levelCtr sw.level 0) 1
      .ok (t.edgeKeep cell { r with phase := 1 })
  | 1 =>
    match ← s.edgeWait r (levelCtr sw.level 0) with
    | none => .ok s
    | some true => (s.edgePost r.prog 0).map (fun t => t.edgeStop cell 3)
    | some false => s.levelApply cell r sw
  | _ =>
    match ← s.edgeWait r (levelCtr sw.level 8) with
    | none => .ok s
    | some true => (s.edgePost r.prog 0).map (fun t => t.edgeStop cell 3)
    | some false => s.levelNext cell r sw

def execEdgeLevelEnd (cell : Nat) (s : State) : Host.Outcome State Fault Refusal :=
  let u := s.cell cell
  match u.edge with
  | none => .next s
  | some r => if u.gqFrozen || s.parking (cell * 4) then .next s else .next (s.edgeDo cell r.prog (s.levelEnd cell r u.esw))

end Sys2Proof.Machine
end

