-- ==== Sys2Proof/Machine/Exchange.lean ====
section
/-! DEFINITION. The scheduled exchange: major 40 (06 R140, R146 to R150). -/

namespace Sys2Proof.Machine

/-- The core clock of exchange cycle 0 of a core's die; cycles have none while no exchange phase runs. -/
def State.exchE (s : State) (core : Nat) : Option Nat := (s.die (dieOf core)).exE

/-- The checks of 06 R149 up to the scratch range. -/
def State.exchChecks (s : State) (a b : Word) (l : BitVec 5) : Except Stop Unit := do
  let pos := stopPos s.curCore l.toNat
  need (s.cx.isExch && (s.exchE s.curCore).isSome && bits b 63 12 = 0 && pos.any (fun p => (p + b.toNat) % 2 = 0)) (cz 0x54)
  need (a.toNat % 64 = 0) (czAt 0x20 a)
  s.waysFree s.cur a
  need (s.inScratch s.curCore a.toNat 64) (czAt 0x21 a)

/-- The clock in which the current context issues: in a gang, 2i clocks after the leader (02 R34, 23 R384). -/
def State.issueClock (s : State) : Nat := s.clock + 2 * s.cx.gang.elim 0 (fun g => g.member)

/-- The issue clock is no later than E + floor(n/2) - lead. -/
def State.inTime (s : State) (n lead : Nat) : Bool := decide (s.issueClock + lead ≤ (s.exchE s.curCore).getD 0 + n / 2)

def execXmit (a b : BitVec 5) (l : BitVec 5) (s : State) : Host.Outcome State Fault Refusal :=
  s.out (do
    let src := s.cx.s a
    let n := (s.cx.s b).toNat
    if s.cx.st.chk then .ok (s.skip 4)
    else do
      s.exchChecks src (s.cx.s b) l
      need (s.inTime n 4) (cz 0x55)
      s.scrOrdered s.cur src 64
      let c := s.core s.curCore
      await (c.xmits.length < 8) (.exchange false)
      let data ← s.scrRead s.cur src.toNat 8
      let h : Held := { loop := l.toNat, cycle := n, data := data, addr := src.toNat, d := 0, ctx := s.cur % 4 }
      .ok ((s.setCore s.curCore { c with xmits := c.xmits ++ [h] }).skip 4))

def execXsel (d a b : BitVec 5) (l : BitVec 5) (s : State) : Host.Outcome State Fault Refusal :=
  s.out (do
    let dst := s.cx.s a
    let n := (s.cx.s b).toNat
    if s.cx.st.chk then .error .escape
    else do
      s.exchChecks dst (s.cx.s b) l
      need (s.inTime n 2) (cz 0x55)
      let c := s.core s.curCore
      need (!(c.xsels.any (fun h => h.loop = l.toNat && h.cycle = n))) (cz 0x56)
      await (c.xsels.length < 8) (.exchange true)
      s.scrOrdered s.cur dst 64
      let h : Held := { loop := l.toNat, cycle := n, data := [], addr := dst.toNat, d := d, ctx := s.cur % 4 }
      let s := s.setCore s.curCore { c with xsels := c.xsels ++ [h] }
      .ok ((s.setCx (s.cx.pend (some d))).skip 4))

/-- The held operation with the smallest cycle. -/
def earliest : List Held → Option Held
  | [] => none
  | h :: t => match earliest t with
    | none => some h
    | some g => if g.cycle < h.cycle then some g else some h

/-- No XMIT of the die that p selects is still held. -/
def State.noXmit (s : State) (die : Nat) (p : Nat → Held → Bool) : Bool :=
  s.cores.all (fun kc => dieOf kc.1 ≠ die || !(kc.2.xmits.any (p kc.1)))

/-- A flit of the loop that stands at a position in a cycle, its own last cycle not counted (06 R147). -/
def flitAt (l : List LoopFlit) (loop pos n : Nat) : Option LoopFlit :=
  l.find? (fun f => f.loop = loop && decide (f.cycle ≤ n) && decide (n < f.cycle + 16) && (f.pos + (n - f.cycle)) % 16 = pos)

/-- The flit that passes a stop in a cycle: one placed 1 to 16 cycles before. -/
def flitPassing (l : List LoopFlit) (loop pos n : Nat) : Option LoopFlit :=
  l.find? (fun f => f.loop = loop && decide (f.cycle < n) && decide (n ≤ f.cycle + 16) && (f.pos + (n - f.cycle)) % 16 = pos)

/-- In its cycle a held XMIT places its flit, or its context takes "exchange collision" (06 R150): XMITs of earlier
cycles on the loop, and those of the same stop and cycle at lower coordinates, come first. Of two XMITs that one core holds for
one loop and cycle the first issued places its flit (notes/assumptions/95.md). DESIGN CHOICE. -/
def execXmitPlacement (core : Nat) (s : State) : Host.Outcome State Fault Refusal :=
  let c := s.core core
  let die := dieOf core
  match earliest c.xmits, s.exchE core with
  | some h, some e =>
    match stopPos core h.loop with
    | none => .next (s.setCore core { c with xmits := c.xmits.erase h })
    | some pos =>
      let first := s.noXmit die (fun k g => g.loop = h.loop &&
        (decide (g.cycle < h.cycle) || (g.cycle = h.cycle && decide (k < core) && stopPos k h.loop = some pos)))
      if s.clock < e + h.cycle / 2 || !first then .next s
      else
        let s := s.setCore core { c with xmits := c.xmits.erase h }
        let d := s.die die
        match flitAt d.flits h.loop pos h.cycle with
        | some _ =>
          let k := core * 4 + h.ctx
          .next (s.postAsync k (s.ctx k).taskNum 1 (cz 0x56))
        | none => .next (s.setDie die { d with flits := { loop := h.loop, pos := pos, cycle := h.cycle, data := h.data } :: d.flits })
  | _, _ => .next s

/-- In its cycle a held XSEL takes the passing flit and writes it to scratch (06 R150). -/
def execXselCapture (core : Nat) (s : State) : Host.Outcome State Fault Refusal :=
  let c := s.core core
  let die := dieOf core
  match earliest c.xsels, s.exchE core with
  | some h, some e =>
    match stopPos core h.loop with
    | none => .next (s.setCore core { c with xsels := c.xsels.erase h })
    | some pos =>
      if s.clock < e + (h.cycle + 1) / 2 + 3 || !s.noXmit die (fun _ g => g.loop = h.loop && decide (g.cycle < h.cycle)) then .next s
      else
        let k := core * 4 + h.ctx
        let s := s.setCore core { c with xsels := c.xsels.erase h }
        let done := fun (t : State) (v : Word) => t.setCtx k (((t.ctx k).setS h.d v).unpend (some h.d))
        match flitPassing (s.die die).flits h.loop pos h.cycle with
        | none => .next (done s 0)
        | some f => .next (done (s.putScratchW core h.addr f.data) 1)
  | _, _ => .next s

end Sys2Proof.Machine
end

