-- ==== Sys2Proof/Machine/Carousel.lean ====
section
/-! DEFINITION. The carousel: major 37 and the events of its source, relays and catch units (07 R164 to R183, 22 R360,
18 R328). -/

namespace Sys2Proof.Machine

/-! ### Entries -/

def e4Tk (e4 : Word) : Nat := bits e4 63 62
def e4Repeat (e4 : Word) : Bool := bit e4 61
def e4Cpost (e4 : Word) : Bool := bit e4 60
def e4Any (e4 : Word) : Bool := bit e4 59
def e4Hitb (e4 : Word) : Nat := bits e4 47 35
def e4Addr (e4 : Word) : Nat := bits e4 15 0
/-- Beats a basket holds. -/
def e4Beats (e4 : Word) : Nat := 16 * 2 ^ bits e4 17 16
def Sub.cand (b : Sub) (i : Nat) : Nat := bits b.e6 15 6 * 64 + 64 * i
def Sub.hit (b : Sub) (i : Nat) : Nat := e4Hitb b.e4 * 8 + 8 * i
/-- The numbers of the set bits of a mask, ascending. -/
def maskBits (m : List Byte) : List Nat := (List.range (8 * m.length)).filter (fun i => (m.getD (i / 8) 0).getLsbD (i % 8))

/-- The status word (07 Table 7-8). -/
def Sub.word (b : Sub) : Word :=
  boolBit b.valid ++ b.st ++ boolBit (e4Repeat b.e4) ++ boolBit b.ovr ++ boolBit b.busy ++ boolBit b.gone ++ boolBit b.mal ++
    BitVec.ofNat 12 b.seg ++ BitVec.ofNat 14 b.dlv ++ BitVec.ofNat 30 b.passes

/-- In the clock after its pass was served an entry waits again, or is freed (07 R171, 18 R328). -/
def Sub.settle (clock : Nat) (b : Sub) : Sub :=
  if b.valid && b.st = 2 && decide (b.fin < clock) then (if e4Repeat b.e4 then { b with st := 0 } else { b with valid := false }) else b

def State.settleSubs (s : State) (core : Nat) : State :=
  let c := s.core core
  if c.subs.isEmpty then s else s.setCore core { c with subs := c.subs.map (fun e => (e.1, e.2.settle s.clock)) }

/-- The entry of an index, when it is valid. -/
def Core.sub (c : Core) (e : Nat) : Option Sub := (SMap.find c.subs e).filter (fun b => b.valid)
def State.setSub (s : State) (core e : Nat) (b : Sub) : State :=
  let c := s.core core
  s.setCore core { c with subs := SMap.set c.subs e b }

/-- A pass of the entry has ended, or the entry is free: every CARWAIT that waits for it has its status word (07 R172). -/
def State.carDone (s : State) (core e : Nat) (w : Word) : State :=
  { s with ctxs := s.ctxs.map (fun kc => if kc.1 / 4 = core then
      (kc.1, { kc.2 with resume := kc.2.resume.map (fun r => if r.2 = carMark + e then (r.1, 2 * carMark + w.toNat) else r) }) else kc) }

/-- The entry is freed. -/
def State.freeSub (s : State) (core e : Nat) (gone : Bool) : State :=
  match (s.core core).sub e with
  | none => s
  | some b =>
    let b := { b with valid := false, gone := b.gone || gone }
    (s.setSub core e b).carDone core e b.word

/-! ### Definitions (07 R165, R166) -/

def Carousel.nseg (c : Carousel) : Nat := c.cdef.elim 0 (fun d => d.table.length)
/-- KIND, LEN, NODES and PRIMS of a segment. -/
def Carousel.head (c : Carousel) (seg : Nat) : Nat × Nat × Nat × Nat := c.cdef.elim (0, 0, 0, 0) (fun d => d.heads.getD seg (0, 0, 0, 0))
def Carousel.len (c : Carousel) (seg : Nat) : Nat := (c.head seg).2.1

/-- The dies that hold cells of a partition, the source's first. -/
def Part.dies (p : Part) : List Nat := ((List.range 8).filter (fun d => p.cells.any (fun c => c / 8192 = d)))

/-- Carousels that the engine of a die sources or relays, beside those of one partition. -/
def State.engineLoad (s : State) (die part : Nat) : Nat :=
  (s.parts.filter (fun p => p.1 ≠ part && p.2.car.cdef.isSome && p.2.dies.contains die)).length

/-- The header beat of segment i: KIND, LEN, NODES and PRIMS, or none when it is malformed (07 Table 7-1, R165). NODES above 256 is
malformed for every kind; the status names the fit for triangles alone (notes/assumptions/111.md). DESIGN CHOICE. -/
def segHead (i : Nat) (b : List Byte) : Option (Nat × Nat × Nat × Nat) :=
  let f := fun (o n : Nat) => leNat ((b.drop o).take n)
  let kind := f 2 1
  let len := f 4 2 % 8192
  let nodes := f 6 2 % 512
  let prims := f 8 4 % 2 ^ 20
  if f 0 2 = i && kind ≤ 3 && f 3 1 = 0 && f 4 2 < 8192 && nodes ≤ 256 && f 6 2 < 512 && f 8 4 < 2 ^ 20 && f 12 4 = 0 && f 40 88 = 0 &&
    (kind ≠ 0 || (nodes + 1) / 2 * 128 + prims * 64 ≤ (len + 1) * 128) then some (kind, len, nodes, prims) else none

/-- The segments of a table from entry i on: their headers, or the status that refuses them. -/
def State.carHeads (s : State) (part : Nat) (i : Nat) : List Word → Except Stop (Except Nat (List (Nat × Nat × Nat × Nat)))
  | [] => .ok (.ok [])
  | a :: t => do
    if a.toNat % 128 ≠ 0 || spaceOf a ≠ .translated then .ok (.error (2 + i))
    else do
      let b ← (s.partRead part a 128).mapError Stop.trap
      match segHead i b with
      | none => .ok (.error (2 + i))
      | some h => do
        match ← s.carHeads part (i + 1) t with
        | .error e => .ok (.error e)
        | .ok l => .ok (.ok (h :: l))

def halfs : Nat → List Byte → List Nat
  | 0, _ => []
  | n + 1, b => leNat (b.take 2) :: halfs n (b.drop 2)

/-- 64 bytes that the current context reads at va, 8 at a time. -/
def State.ctxRead (s : State) (va : Word) : Nat → Except Stop (List Byte)
  | 0 => .ok []
  | n + 1 => do
    let p ← s.placeOf s.cur s.cx.st.chk (s.cx.st.priv = 0) (Req.load 8) va
    let b ← s.readPlace s.cur p 8 va
    let t ← s.ctxRead (va + 8) n
    .ok (b ++ t)

/-- The definition that a descriptor gives, or the status that refuses it (07 R165). Of several statuses that apply, and of a status
and a fault, the one met first in the order descriptor, segments, order list, engines is returned (notes/assumptions/111.md).
DESIGN CHOICE. -/
def State.carRead (s : State) (va : Word) : Except Stop (Except Word CarDef) := do
  let part := s.curPart
  let b ← s.ctxRead va 8
  let w := fun (i : Nat) => (leWords 8 b).getD i 0
  let table := w 0
  let order := w 1
  let g := bits (w 2) 63 48
  let nord := bits (w 2) 31 16
  let nseg := bits (w 2) 15 0
  let lapctr := w 3
  let ctrOk := lapctr = 0 || (match s.counterPa s.curCore part false true lapctr with
    | .ok _ => true
    | .error _ => false)
  if g = 0 || nord = 0 || 4096 < nord || nseg = 0 || 4096 < nseg ||
    table.toNat % 8 ≠ 0 || order.toNat % 2 ≠ 0 || spaceOf table ≠ .translated || spaceOf order ≠ .translated || !ctrOk then .ok (.error 1)
  else do
    let tb ← (s.partRead part table (8 * nseg)).mapError Stop.trap
    let segs := leWords nseg tb
    match ← s.carHeads part 0 segs with
    | .error e => .ok (.error (BitVec.ofNat 64 e))
    | .ok heads => do
      let ob ← (s.partRead part order (2 * nord)).mapError Stop.trap
      let ids := halfs nord ob
      if ids.any (fun x => nseg ≤ x) || ids.eraseDups.length ≠ nord then .ok (.error (-1))
      else if (s.part part).dies.any (fun d => 8 ≤ s.engineLoad d part) then .ok (.error (-2))
      else .ok (.ok { table := segs, order := ids, g := g, lapctr := lapctr, heads := heads })

/-- What reading a descriptor and what it names leaves in the slices. -/
def State.carTouch (s : State) (va : Word) (d : CarDef) : State :=
  match s.ctxRead va 8 with
  | .error _ => s
  | .ok b =>
    let part := s.curPart
    let w := fun (i : Nat) => (leWords 8 b).getD i 0
    d.table.foldl (fun t a => t.partTouch part a 128)
      ((s.partTouch part (w 0) (8 * d.table.length)).partTouch part (w 1) (2 * d.order.length))

/-- The entries of a core for segments at or above n end with GONE set. -/
def State.goneSubs (s : State) (n : Nat) (core : Nat) : State :=
  let s := s.settleSubs core
  ((s.core core).subs.filter (fun e => e.2.valid && decide (n ≤ e.2.seg))).foldl (fun t e => t.freeSub core e.1 true) s

/-- A definition takes over (07 R165): its first lap begins after a gap. The lap count goes on, also over a stop, and a
stop leaves every entry registered (notes/assumptions/86.md). The promotion window goes on over it, so it reaches back into passes
of the old definition (notes/assumptions/112.md). DESIGN CHOICE. -/
def State.carTake (s : State) (part : Nat) (d : Option CarDef) : State :=
  let p := s.part part
  let c := p.car
  let n := d.elim 0 (fun d => d.table.length)
  let s := s.setPart part { p with car := { c with
    cdef := d, next := none, promos := [], grants := [], skipped := [], noticed := [], reinst := [], reinstNext := [],
    skipReq := c.skipReq.filter (fun r => decide (r.1 < n)), skipNext := c.skipNext.filter (fun r => decide (r < n)), inGap := true, cur := none } }
  if d.isNone then s
  else s.asOwner part (fun s =>
    ((p.cells.filter (fun c => s.ownsCell part c)).flatMap (fun c => [4 * c, 4 * c + 1, 4 * c + 2, 4 * c + 3])).foldl (fun t core => t.goneSubs n core) s)

/-- The current partition's carousel changed. -/
def State.setCar (s : State) (part : Nat) (c : Carousel) : State := s.setPart part { s.part part with car := c }

/-- Writes 0 to d in a check heat, in which no carousel form is performed (22 R360). -/
def State.carSkip (s : State) (d : BitVec 5) : State := s.wr 4 d 0

def execCardef (d a : BitVec 5) (s : State) : Host.Outcome State Fault Refusal :=
  s.out (do
    let x := s.cx
    let va := x.s a
    need (x.st.priv = 1) (cz 0x03)
    need (!x.isWork) (cz 0x2C)
    need (va.toNat % 64 = 0) (czAt 0x20 va)
    if x.st.chk then .ok (s.carSkip d)
    else do
      s.engineFree s.cur
      let part := s.curPart
      let c := (s.part part).car
      if va = 0 then .ok ((if c.cdef.isNone then s else s.setCar part { c with next := some none }).wr 4 d 0)
      else do
        need (canonical va) (czAt 0x2D va)
        match ← s.carRead va with
        | .error e => .ok (s.wr 4 d e)
        | .ok def' =>
          let s := s.carTouch va def'
          let c := (s.part part).car
          if c.cdef.isSome then .ok ((s.setCar part { c with next := some (some def') }).wr 4 d 0)
          else .ok (((s.setCar part { c with ready := s.clock + 1 }).carTake part (some def')).wr 4 d 0))

/-! ### Subscriptions (07 R169, R170) -/

/-- The targets that a segment's kind allows (07 Table 7-7). -/
def tkAllowed (kind tk : Nat) : Bool :=
  tk = 0 || tk = 2 || (tk = 1 && (kind = 2 || kind = 3)) || (tk = 3 && kind = 0)

/-- The target's form is valid (07 Table 7-6, status -3). Of a traverse target's records, hit words and buffers the slot of
the highest set mask bit, and so every used slot below it, must lie in scratch (notes/assumptions/87.md). DESIGN CHOICE. -/
def State.targetOk (s : State) (core : Nat) (kind g : Nat) (b : Sub) : Bool :=
  let a := e4Addr b.e4
  let hi := (maskBits b.mask).getLastD 0
  bits b.e4 58 48 = 0 && bits b.e4 34 18 = 0 && tkAllowed kind (e4Tk b.e4) &&
  (match e4Tk b.e4 with
    | 0 => a % 128 = 0 && s.inScratch core a (128 * e4Beats b.e4) && decide (8 ≤ g)
    | 1 => true
    | 2 => a % 64 = 0 && s.inScratch core a 64
    | _ => a % 32 = 0 && s.inScratch core (a + 32 * hi) 32 &&
        (if e4Any b.e4 then s.inScratch core (b.cand hi) 64 else s.inScratch core (b.hit hi) 8))

/-- The slots a target names are claimed by a context of the core. -/
def Cell.claimedBy (u : Cell) (core : Nat) (mask : Nat) : Bool :=
  (maskSlots (BitVec.ofNat 64 mask)).all (fun o => u.claims.any (fun c => c.1 = o && c.2.1 / 4 = core))

/-- CARSUB. Of several statuses that apply the first of the table is returned (notes/assumptions/88.md). DESIGN CHOICE. An
entry for a segment that this lap or the next one skips sends a notice, also one registered while the segment passes
(07 R177, Table 7-10). -/
def execCarsub (d a b : BitVec 5) (s : State) : Host.Outcome State Fault Refusal :=
  s.out (do
    let x := s.cx
    let va := x.s b
    need (!(x.isWork && e4Tk (x.e 4) = 2)) (cz 0x2C)
    need (va.toNat % 32 = 0) (czAt 0x20 va)
    s.waysFree s.cur 0
    need (s.inScratch s.curCore va.toNat 32) (czAt 0x21 va)
    if x.st.chk then .ok (s.carSkip d)
    else do
      s.engineFree s.cur
      let mask ← s.scrRead s.cur va.toNat 4
      let s := s.settleSubs s.curCore
      let part := s.curPart
      let car := (s.part part).car
      let u := s.cell s.curCell
      let seg := bits (x.s a) 11 0
      let h := car.head seg
      let passing := (match u.passing with
        | some p => decide (p.head.seg = seg)
        | none => false) || u.hdrAt = some (seg, s.clock)
      let n : Sub := { valid := true, reg := s.clock, fin := 0, seg := seg, mask := mask, e4 := x.e 4, e5 := x.e 5, e6 := x.e 6,
                       st := if passing then 3 else 0, ovr := false, busy := false, gone := false, mal := false, dlv := 0, rel := 0,
                       passes := 0, posted := 0, key := s.cur, task := x.taskNum, user := x.st.priv = 0 }
      match (List.range 64).find? (fun e => ((s.core s.curCore).sub e).isNone) with
      | none => .ok (s.wr 4 d (-1))
      | some e =>
        if car.nseg ≤ seg then .ok (s.wr 4 d (-2))
        else if !s.targetOk s.curCore h.1 (car.cdef.elim 0 (fun c => c.g)) n then .ok (s.wr 4 d (-3))
        else if maskBits mask = [] then .ok (s.wr 4 d (-4))
        else if e4Tk n.e4 = 1 && (!u.claimedBy s.curCore (e4Addr n.e4) ||
            decide ((maskSlots (BitVec.ofNat 64 (e4Addr n.e4))).length < (h.2.1 + 8) / 8)) then .ok (s.wr 4 d (-5))
        else
          let s := s.setSub s.curCore e n
          let s := if u.rollAt = some s.clock then
              s.setCell s.curCell { u with roll := SMap.set u.roll seg (SMap.get u.roll 0 seg + (maskBits mask).length) } else s
          let s := if (car.skipped.contains seg || car.grants.contains seg) && !car.noticed.contains seg then
              s.setCar part { car with noticed := car.noticed ++ [seg] } else s
          .ok (s.wr 4 d (BitVec.ofNat 64 e)))

/-- CARDROP returns the status word as it stood before the entry was freed, with V = 1 (notes/assumptions/112.md). DESIGN CHOICE. -/
def execCardrop (d a : BitVec 5) (s : State) : Host.Outcome State Fault Refusal :=
  s.out (
    if s.cx.st.chk then .ok (s.carSkip d)
    else
      let s := s.settleSubs s.curCore
      let e := bits (s.cx.s a) 5 0
      match (s.core s.curCore).sub e with
      | none => .ok (s.wr 4 d 0)
      | some b => .ok ((s.freeSub s.curCore e false).wr 4 d b.word))

/-- CARSKIP. A request recorded after the clock of a cut that is not settled waits for the cut that follows (07 R177). -/
def execCarskip (d a : BitVec 5) (s : State) : Host.Outcome State Fault Refusal :=
  s.out (do
    need (!s.cx.isWork) (cz 0x2C)
    if s.cx.st.chk then .ok (s.carSkip d)
    else
      let c := (s.part s.curPart).car
      let seg := bits (s.cx.s a) 11 0
      if c.nseg ≤ seg then .ok (s.wr 4 d 1)
      else if !c.settled && c.cutAt.any (fun t => t < s.clock) then
        .ok ((s.setCar s.curPart { c with skipNext := if c.skipNext.contains seg then c.skipNext else c.skipNext ++ [seg] }).wr 4 d 0)
      else if (SMap.find c.skipReq seg).isSome then .ok (s.wr 4 d 0)
      else .ok ((s.setCar s.curPart { c with skipReq := SMap.set c.skipReq seg s.clock }).wr 4 d 0))

/-- A request put behind those of earlier clocks and of lower cores in its clock (07 R178). -/
def promInsert (r : Nat × Nat × Nat) : List (Nat × Nat × Nat) → List (Nat × Nat × Nat)
  | [] => [r]
  | h :: t => if h.1 = r.1 ∧ r.2.1 < h.2.1 then r :: h :: t else h :: promInsert r t

/-- CARPROM. Of several statuses that apply the order is 1, 3, 0 for a merge, 2 (notes/assumptions/112.md). DESIGN CHOICE. -/
def execCarprom (d a : BitVec 5) (s : State) : Host.Outcome State Fault Refusal :=
  s.out (do
    need (!s.cx.isWork) (cz 0x2C)
    if s.cx.st.chk then .ok (s.carSkip d)
    else
      let p := s.part s.curPart
      let c := p.car
      let seg := bits (s.cx.s a) 11 0
      if c.nseg ≤ seg then .ok (s.wr 4 d 1)
      else if p.promx = 0 then .ok (s.wr 4 d 3)
      else if c.promos.any (fun r => r.2.2 = seg) then .ok (s.wr 4 d 0)
      else if 64 ≤ c.promos.length then .ok (s.wr 4 d 2)
      else .ok ((s.setCar s.curPart { c with promos := promInsert (s.clock, s.curCore, seg) c.promos }).wr 4 d 0))

/-- CARWAIT (07 R172, 18 R328). -/
def execCarwait (d a b : BitVec 5) (s : State) : Host.Outcome State Fault Refusal :=
  s.out (
    if s.cx.st.chk then .ok (s.carSkip d)
    else
      let done := match s.resumed with
        | some v => decide (2 * carMark ≤ v)
        | none => false
      if done then .ok (s.forget.wr 4 d (BitVec.ofNat 64 (s.resumed.getD 0)))
      else
        let s := s.settleSubs s.curCore
        let r := s.cx.s a
        let n := bits (s.cx.s b) 13 0
        let e := bits r 5 0
        match (s.core s.curCore).sub e with
        | none => .ok (s.forget.wr 4 d (-1))
        | some q =>
          if bits r 63 6 ≠ 0 then .ok (s.forget.wr 4 d (-1))
          else
            let q := { q with rel := max q.rel n }
            let s := s.setSub s.curCore e q
            let want := min (n + 8) ((s.part s.curPart).car.len q.seg + 1)
            if q.st = 2 || (q.st = 1 && decide (want ≤ q.dlv)) then .ok (s.forget.wr 4 d q.word)
            else .ok (s.blockWith (carMark + e) (.carousel e want)))

/-- The pass now passing a cell (07 R175). -/
def Passing.word (p : Passing) : Word :=
  BitVec.ofNat 16 p.head.slot ++ boolBit p.head.promoted ++ boolBit p.head.reinstated ++ BitVec.ofNat 14 p.arrived ++ (0 : BitVec 20) ++
    BitVec.ofNat 12 p.head.seg

def execCarpos (d a b : BitVec 5) (s : State) : Host.Outcome State Fault Refusal :=
  s.out (
    if s.cx.st.chk then .ok (s.carSkip d)
    else
      let s := s.settleSubs s.curCore
      let c := (s.part s.curPart).car
      let r := s.cx.s a
      let seg := bits r 11 0
      .ok (s.wr 4 d (match (s.cx.s b).toNat with
        | 0 => BitVec.ofNat 64 c.lap
        | 1 => ((s.cell s.curCell).shown.map Passing.word).getD (-1)
        | 2 => ((SMap.find (s.core s.curCore).subs (bits r 5 0)).map Sub.word).getD 0
        | 3 => BitVec.ofNat 64 (SMap.get c.roll 0 seg)
        | 4 => BitVec.ofNat 64 ((if c.skipped.contains seg then 2 else 0) + (if (SMap.find c.skipReq seg).isSome || c.skipNext.contains seg then 1 else 0))
        | _ => 0)))

/-! ### The source engine (07 R166, R167, R177, R178) -/

/-- Promoted passes in the window that reaches back to the n-th most recent base pass. -/
def promsIn : Nat → List Nat → Nat
  | _, [] => 0
  | n, k :: t => if k = 0 then (if n ≤ 1 then 0 else promsIn (n - 1) t) else (if k = 1 then 1 else 0) + promsIn n t

/-- The passes of a window that the rule can still ask about: an ORDER has at most 4,096 base passes (07 R165). -/
def windowKeep : Nat → List Nat → List Nat
  | _, [] => []
  | n, k :: t => if k = 0 then (if n ≤ 1 then [k] else k :: windowKeep (n - 1) t) else k :: windowKeep n t

/-- The head of the promotion queue may be granted. -/
def Carousel.grant (c : Carousel) (promx : Nat) : Bool :=
  !c.promos.isEmpty && decide ((if c.base = 0 then c.lapPromos else promsIn c.base c.window) < promx)

/-- The catch units of a partition start the roll call of a cut. -/
def State.rollReset (s : State) (part : Nat) : State :=
  (s.part part).cells.foldl (fun t c => t.setCell c { t.cell c with roll := [], rollAt := none }) s

/-- The set mask bits of the entries of a core for each segment (07 R176). -/
def rollAdd (m : SMap Nat) (b : Sub) : SMap Nat :=
  if b.valid && (e4Repeat b.e4 || b.st ≠ 2) then SMap.set m b.seg (SMap.get m 0 b.seg + (maskBits b.mask).length) else m
def State.rollCell (s : State) (cell : Nat) : State :=
  let m := (List.range 4).foldl (fun m i => (s.core (4 * cell + i)).subs.foldl (fun m e => rollAdd m e.2) m) []
  s.setCell cell { s.cell cell with roll := m, rollAt := some s.clock }

/-- A lap begins: its base passes are ORDER without the segments skipped; an empty lap's cut is its first clock. -/
def State.lapStart (s : State) (part : Nat) : State :=
  let c := (s.part part).car
  let left := (c.cdef.elim [] (fun d => d.order)).filter (fun x => !c.skipped.contains x)
  let c := { c with left := left, base := left.length, slot := 0, lapPromos := 0, inGap := false, settled := false,
                    cutAt := if left.isEmpty then some s.clock else none }
  let s := s.setCar part c
  if left.isEmpty then (s.part part).cells.foldl (fun t x => t.rollCell x) s else s

/-- The next pass at a boundary: a reinstated one, a granted promotion, the next base pass, or none when the lap has no
more. -/
def State.nextPass (s : State) (part : Nat) : State :=
  let p := s.part part
  let c := p.car
  let go := fun (seg kind : Nat) (c : Carousel) =>
    s.setCar part { c with cur := some { seg := seg, promoted := kind = 1, reinstated := kind = 2 }, sent := 0, faulted := false,
                           window := windowKeep 4096 (kind :: c.window) }
  match c.reinst with
  | r :: t => go r 2 { c with reinst := t }
  | [] =>
    let prom := if c.grant p.promx && (c.slot ≠ 0 || c.base = 0) && (!c.left.isEmpty || c.base = 0) then c.promos.head? else none
    match prom with
    | some r => go r.2.2 1 { c with promos := c.promos.drop 1, lapPromos := c.lapPromos + 1 }
    | none =>
      match c.left with
      | seg :: t =>
        let s' := go seg 0 { c with left := t, cutAt := if t.isEmpty then some s.clock else none }
        if t.isEmpty then s'.rollReset part else s'
      | [] => s

/-- A payload beat as memory holds it now: bytes, tag and sideband, and what its read leaves; none with the cause when that
faults (07 R165). -/
def State.beatRead (s : State) (part : Nat) (va : Word) : Except CauseRec (State × List Byte × (Nat × Word)) :=
  match s.partPlace part false va with
  | .error c => .error c
  | .ok (pa, key, hb) =>
    if s.memFailing pa 128 then .error (czAt 0x27 va)
    else match s.lineTag key pa with
      | .error c => .error (czAt c va)
      | .ok t => .ok (s.homeTouch key pa 128 hb false, s.physBytes key pa 128, t)

/-- The beats from number i on of the pass in progress: 0 the header, j + 1 payload beat j. -/
def State.beats (s : State) (part : Nat) (d : CarDef) (h : Beat) : Nat → Nat → State × List Beat
  | 0, _ => (s, [])
  | n + 1, i =>
    if h.len + 2 ≤ i then (s, [])
    else if i = 0 then
      let r := s.beats part d h n 1
      (r.1, h :: r.2)
    else
      let va := d.table.getD h.seg 0 + BitVec.ofNat 64 (128 * i)
      match s.beatRead part va with
      | .ok (s, b, t) =>
        let r := s.beats part d h n (i + 1)
        (r.1, { h with num := some (i - 1), data := b, tag := t.1, sb := t.2 } :: r.2)
      | .error c =>
        let car := (s.part part).car
        let s := if car.faulted then s else (s.setCar part { car with faulted := true }).causeNotice part c 7 (stopCoord ((s.part part).dies.headD 0) engineStop) 0 0
        let r := s.beats part d h n (i + 1)
        (r.1, { h with num := some (i - 1), data := List.replicate 128 0, tag := 0, sb := 0 } :: r.2)

/-- Beats reach the catch units of a partition's cells on a die. -/
def State.feed (s : State) (part die : Nat) (bs : List Beat) : State :=
  ((s.part part).cells.filter (fun c => c / 8192 = die)).foldl (fun t c =>
    let u := t.cell c
    t.setCell c { u with catchQ := u.catchQ ++ bs }) s

/-- A group of beats leaves an engine for a relay over the package ring, two beats to a packet (06 R156). -/
def State.sendBeats (s : State) (src dst : Nat) : Nat → List Beat → State
  | 0, _ => s
  | _, [] => s
  | n + 1, bs =>
    let l := bs.take 2
    (s.sendPacket (s.packet src dst ((16 + 128 * l.length + 63) / 64 - 1) 0 (.beats l))).sendBeats src dst n (bs.drop 2)

/-- Where a beat stands in its pass: the header at 0. -/
def Beat.place (b : Beat) : Nat := b.num.elim 0 (fun j => j + 1)

/-- A relay holds every beat of a group. -/
def groupWhole (l : List Beat) : Bool :=
  match l with
  | [] => false
  | b :: _ => l.length = min 8 (b.len + 2 - b.place / 8 * 8)

/-- Beats reach a die's relay: they join the group of their partition that is not whole yet, in the order of the pass. -/
def Die.relayTake (d : Die) (l : List Beat) : Die :=
  let part := (l.map (fun b => b.part)).headD 64
  let mine := fun (g : List Beat) => !groupWhole g && g.any (fun b => b.part = part)
  let put := fun (g : List Beat) => l.foldl (fun g b => g.takeWhile (fun x => x.place < b.place) ++ b :: g.dropWhile (fun x => x.place < b.place)) g
  if d.relay.any mine then { d with relay := d.relay.map (fun g => if mine g then put g else g) }
  else { d with relay := d.relay ++ [put []] }

/-- The group that the pass in progress sends next goes to the source's tree and to every relay. -/
def State.sendGroup (s : State) (part : Nat) (d : CarDef) (cur : Pass) : State :=
  let c := (s.part part).car
  let h := c.head cur.seg
  let cut := c.cutAt.isSome && c.left.isEmpty && !cur.promoted && !cur.reinstated
  let hb : Beat := { part := part, seg := cur.seg, len := h.2.1, kind := h.1, nodes := h.2.2.1, prims := h.2.2.2, lap := c.lap,
                     slot := c.slot, promoted := cur.promoted, reinstated := cur.reinstated, cut := cut, num := none,
                     data := [], tag := 0, sb := 0 }
  let (s, bs) := s.beats part d hb 8 (8 * c.sent)
  let c := (s.part part).car
  let last := h.2.1 + 2 ≤ 8 * (c.sent + 1)
  let s := s.setCar part { c with sent := c.sent + 1, ready := s.clock + d.g, cur := if last then none else some cur,
                                  slot := if last then c.slot + 1 else c.slot }
  let dies := (s.part part).dies
  let src := dies.headD 0
  let s := s.feed part src bs
  let s := s.setDie src { s.die src with carLast := part }
  (dies.drop 1).foldl (fun t x => t.sendBeats (stopCoord src engineStop) (stopCoord x engineStop) 4 bs) s

/-- Some cell of the partition is switched in. -/
def State.carLive (s : State) (part : Nat) : Bool := (s.part part).cells.any (fun c => (s.cell c).part = some part)

/-- The source has a group to send for a partition in this clock. -/
def State.carReady (s : State) (part : Nat) : Bool :=
  let c := (s.part part).car
  c.cdef.isSome && decide (c.ready ≤ s.clock) && (c.cur.isSome || (s.carLive part &&
    (((if c.inGap then s.lapStart part else s).nextPass part).part part).car.cur.isSome))

/-- The carousels of an engine take turns group by group (07 R166): none that is ready stands between the last one served
and this one, in the order of PARTID. -/
def State.carTurn (s : State) (die part : Nat) : Bool :=
  let last := (s.die die).carLast
  let place := fun (q : Nat) => (q + 64 - last - 1) % 64
  s.parts.all (fun q => q.1 = part || q.2.dies.headD 8 ≠ die || !s.carReady q.1 || decide (place part < place q.1))

/-- Beats of a partition are on their way to a relay. -/
def State.beatsMoving (s : State) (part : Nat) : Bool := s.moving.any (fun p => match p.payload with
  | .beats l => l.any (fun b => b.part = part)
  | _ => false)

/-- Every relay of a partition can accept a group; how many it holds is not stated, and one at a time is on its way, so that
the groups arrive in order (notes/assumptions/94.md). DESIGN CHOICE. -/
def State.relayRoom (s : State) (part : Nat) : Bool :=
  ((s.part part).dies.drop 1).all (fun x => decide ((s.die x).relay.length ≤ Config.relayDepth)) && !s.beatsMoving part

def execCarouselGroupSend (part : Nat) (s : State) : Host.Outcome State Fault Refusal :=
  let c := (s.part part).car
  match c.cdef with
  | none => .next s
  | some d =>
    if s.clock < c.ready || !s.carTurn ((s.part part).dies.headD 0) part || !s.relayRoom part then .next s
    else match c.cur with
      | some cur => .next (s.sendGroup part d cur)
      | none =>
        if !s.carLive part then .next s
        else
          let s := if c.inGap then s.lapStart part else s
          let s := s.nextPass part
          match (s.part part).car.cur with
          | some cur => .next (s.sendGroup part d cur)
          | none => .next s

def execRelayGroupArrival (die : Nat) (s : State) : Host.Outcome State Fault Refusal :=
  let d := s.die die
  match d.relay.find? groupWhole with
  | none => .next s
  | some g => .next ((s.setDie die { d with relay := d.relay.erase g }).feed ((g.map (fun b => b.part)).headD 64) die g)

/-- A cell's part of a roll call is known: the cut's header has come in an earlier clock, or cannot come, its lq being
frozen. -/
def Cell.rolled (u : Cell) (clock : Nat) : Bool :=
  match u.rollAt with
  | some t => decide (t < clock)
  | none => u.lqFrozen

/-- Some core of a partition holds a valid entry for a segment. -/
def State.wanted (s : State) (p : Part) (seg : Nat) : Bool :=
  p.cells.any (fun x => (List.range 4).any (fun i => (s.core (4 * x + i)).subs.any (fun e => (e.2.settle s.clock).valid && e.2.seg = seg)))

/-- The roll call of a partition's cells as they stand: a cell that the header cannot reach counts its entries now. -/
def State.rollCall (s : State) (p : Part) : State :=
  (p.cells.filter (fun x => (s.cell x).rollAt.isNone)).foldl (fun t x => t.rollCell x) s

/-- The roll call of a lap and the decision of its skip requests, in a clock after the cut's and after those in which its
header reached the catch units (07 R176, R177). A segment granted a skip for which an entry has been registered since is
noticed at once (Table 7-10). -/
def execLapCut (part : Nat) (s : State) : Host.Outcome State Fault Refusal :=
  let p := s.part part
  match p.car.cutAt with
  | none => .next s
  | some t =>
    if p.car.settled || decide (s.clock ≤ t) || (p.saved.isNone && p.cells.any (fun x => s.ownsCell part x && !(s.cell x).rolled s.clock)) then .next s
    else .next (s.asOwner part (fun s =>
      let s := s.rollCall p
      let c := (s.part part).car
      let roll := p.cells.foldl (fun m x => (s.cell x).roll.foldl (fun m e => SMap.set m e.1 (min (SMap.get m 0 e.1 + e.2) 0xFFFFFFFF)) m) []
      let due := (c.skipReq.filter (fun r => decide (r.2 ≤ t))).map Prod.fst
      let grants := due.filter (fun x => SMap.get roll 0 x = 0)
      let late := grants.filter (fun x => s.wanted p x && !c.noticed.contains x)
      s.setCar part { c with roll := roll, settled := true, grants := grants, noticed := c.noticed ++ late,
                             skipReq := c.skipNext.foldl (fun m x => SMap.set m x s.clock) (c.skipReq.filter (fun r => !(decide (r.2 ≤ t)))),
                             skipNext := [] }))

/-- The 8 keys of a candidate buffer in ascending order (07 R182). -/
def insertKey (k : Nat) : List Nat → List Nat
  | [] => [k]
  | h :: t => if k ≤ h then k :: h :: t else h :: insertKey k t
def sortKeys (l : List Nat) : List Nat := l.foldr insertKey []
def words64 : Nat → List Byte → List Nat
  | 0, _ => []
  | n + 1, b => leNat (b.take 8) :: words64 n (b.drop 8)

def State.sortCand (s : State) (part cell : Nat) : State :=
  let t := (s.cell cell).cand.foldl (fun t e =>
    match t.unitRead e.1 e.2 64 with
    | .error c => t.causeNotice part c 11 e.1 0 0
    | .ok b => match (t.unitTouch e.1 e.2 64).unitWrite e.1 e.2 ((sortKeys (words64 8 b)).flatMap (fun k => leBytes 8 k)) with
      | .ok t' => t'
      | .error c => t.causeNotice part c 11 e.1 0 0) s
  t.setCell cell { t.cell cell with cand := [] }

/-- Beats of a partition that have not been performed. -/
def State.beatsOut (s : State) (part : Nat) : Bool :=
  (s.part part).cells.any (fun c => !(s.cell c).lqFrozen && (s.cell c).catchQ.any (fun b => b.part = part)) ||
    s.dies.any (fun d => d.2.relay.any (fun g => g.any (fun b => b.part = part))) || s.beatsMoving part

/-- A lap ends: the lap count rises, LAPCTR is posted, candidate buffers are sorted, and an accepted definition takes
over (07 R165, R167, R182). -/
def execLapEnd (part : Nat) (s : State) : Host.Outcome State Fault Refusal :=
  let p := s.part part
  let c := p.car
  match c.cdef with
  | none => .next s
  | some d =>
    if c.inGap || !c.settled || !c.left.isEmpty || c.cur.isSome || !c.reinst.isEmpty || decide (s.clock < c.ready && c.slot ≠ 0) ||
      (c.base = 0 && c.grant p.promx) || s.beatsOut part then .next s
    else
      let rcl := if p.dies.length ≤ 1 then 64 else 256
      let c' : Carousel :=
        { c with lap := c.lap + 1, inGap := true, settled := false, cutAt := none, skipped := c.grants, grants := [],
                 ready := max (s.clock + 1) (c.cutAt.getD 0 + rcl), reinst := c.reinstNext, reinstated := c.reinstNext,
                 reinstNext := [] }
      let s0 := s.setCar part c'
      match (if d.lapctr = 0 then .ok s0 else s0.post ((p.cells.headD 0) * 4) part false d.lapctr 1 : Except Stop State) with
      | .error (.block _) => .next s
      | r =>
      let s := match r with
        | .ok t => t
        | .error (.trap e) => s0.causeNotice part e 7 (stopCoord (p.dies.headD 0) engineStop) 0 0
        | .error _ => s0
      let s := s.asOwner part (fun s => (p.cells.filter (fun x => s.ownsCell part x)).foldl (fun (t : State) x =>
        (t.setCell x { t.cell x with shown := none }).sortCand part x) s)
      .next (match c.next with
        | none => s
        | some d' => s.carTake part d')

/-- A notice that an entry took effect for a skipped segment reaches the source (07 R177): it stands for the lap that skips the
segment now, and for the next one where that is granted too (Table 7-10). -/
def execReinstatement (part seg : Nat) (s : State) : Host.Outcome State Fault Refusal :=
  let c := (s.part part).car
  if !c.noticed.contains seg then .next s
  else
    let c := { c with noticed := c.noticed.filter (fun x => x ≠ seg) }
    let c := if c.skipped.contains seg && !c.reinstated.contains seg then
        { c with reinst := c.reinst ++ [seg], reinstated := c.reinstated ++ [seg] } else c
    .next (s.setCar part
      (if c.grants.contains seg && !c.reinstNext.contains seg then { c with reinstNext := c.reinstNext ++ [seg] } else c))

/-! ### Catch units (07 R171) -/

/-- A fault of a catch unit: the queue SRC, the context that registered the entry and its task, and the cause; none where the
unit must wait. -/
abbrev CatchErr := Option (Nat × Nat × Nat × CauseRec)

def Sub.err (b : Sub) (src : Nat) (c : CauseRec) : CatchErr := some (src, b.key, b.task, c)

/-- Slots that operations of the cell's mq still read; an MMA with K = 0 reads none (09 R212). -/
def Cell.reading (u : Cell) (mask : Nat) : Bool :=
  u.mq.any (fun o =>
    let reads := fun (b : BitVec 5) =>
      let sh := mshape o.e0 o.e1 o.e2 (mmaOver b o.y)
      sh.k ≠ 0 && (slotsUsed sh).any (fun x => mask / 2 ^ x % 2 = 1)
    match o.instr with
    | .mma b => reads b
    | .mmaR _ b => reads b
    | _ => false)

/-- The launch header that a mailbox entry sends: WID[11:0] := SEGID, WID[27:12] := the lap count. -/
def launchOf (h : Beat) (l : List Word) : List Word :=
  match l with
  | [] => []
  | w :: t => (w.extractLsb' 28 36 ++ BitVec.ofNat 16 h.lap ++ BitVec.ofNat 12 h.seg) :: t

/-- A header meets an entry of its segment. -/
def State.catchHead (s : State) (core e : Nat) (h : Beat) (b : Sub) : Except CatchErr State :=
  if b.reg = s.clock then .ok (s.setSub core e { b with st := 3 })
  else
    let u := s.cell (core / 4)
    let mask := e4Addr b.e4
    let b := { b with st := 1, dlv := 0, rel := 0, posted := 0, ovr := false, mal := false,
                      busy := e4Tk b.e4 = 1 && (u.reading mask || !u.claimedBy core mask) }
    let s := s.setSub core e b
    if e4Tk b.e4 = 2 then
      match s.unitRead core mask 64 with
      | .error c => .error (b.err 11 c)
      | .ok bytes =>
        if !canonical b.e5 then .error (b.err 11 (czAt 0x2D b.e5)) else
        let s := s.unitTouch core mask 64
        let m : Message := { mbox := b.e5, start := 0, hdr := launchOf h (leWords 8 bytes), part := h.part, kind := 4, sender := b.key, task := b.task }
        let c := s.core core
        .ok (s.setCore core { c with unsent := c.unsent ++ [m] })
    else .ok s

/-- Every entry of a cell for a segment that p selects, in order of core and index. -/
def State.entries (s : State) (cell seg : Nat) (p : Sub → Bool) : List (Nat × Nat) :=
  (List.range 4).flatMap (fun i => ((s.core (4 * cell + i)).subs.filter (fun e => e.2.valid && e.2.seg = seg && p e.2)).map
    (fun e => (4 * cell + i, e.1)))

def State.eachEntry (f : State → Nat → Nat → Sub → Except CatchErr State) (s : State) : List (Nat × Nat) → Except CatchErr State
  | [] => .ok s
  | (core, e) :: t =>
    match (s.core core).sub e with
    | none => s.eachEntry f t
    | some b => match f s core e b with
      | .error z => .error z
      | .ok s => s.eachEntry f t

/-- An engine fault of a catch unit freezes the cell's lq at its operation (12 R266). -/
def State.catchFault (s : State) (cell : Nat) : CatchErr → State
  | none => s
  | some z =>
  let u := s.cell cell
  let c := z.2.2.2
  (s.setCell cell { u with lqFrozen := true }).postAsync z.2.1 z.2.2.1 z.1 { c with info := BitVec.ofNat 32 u.lqNum }

def State.settleCell (s : State) (cell : Nat) : State :=
  (((s.settleSubs (4 * cell)).settleSubs (4 * cell + 1)).settleSubs (4 * cell + 2)).settleSubs (4 * cell + 3)

def execPassHeaderArrival (cell : Nat) (s : State) : Host.Outcome State Fault Refusal :=
  let u := s.cell cell
  match u.catchQ with
  | [] => .next s
  | h :: t =>
    if h.num.isSome || u.lqFrozen || !s.mayBegin 2 cell then .next s
    else
      let s0 := s.setCell cell { u with catchQ := t, lqNum := u.lqNum + 1 }
      if u.part ≠ some h.part then .next s0
      else
        let s0 := s0.settleCell cell
        let s0 := if h.cut then s0.rollCell cell else s0
        let u0 := s0.cell cell
        let s0 := s0.setCell cell { u0 with passing := some { head := h, arrived := 0, payload := [] }, shown := some { head := h, arrived := 0, payload := [] }, hdrAt := some (h.seg, s0.clock) }
        let l := s0.entries cell h.seg (fun b => b.st ≠ 2 || e4Repeat b.e4)
        if l.any (fun e => ((s0.core e.1).sub e.2).any (fun b => e4Tk b.e4 = 2) && decide (8 ≤ (s0.core e.1).unsent.length)) then .next s
        else match s0.eachEntry (fun s core e b => s.catchHead core e h b) l with
          | .ok s1 => .next s1
          | .error z => .next (s.catchFault cell z)

/-! ### The walker (07 R182, R183) -/

/-- The largest of the keys replaced by a smaller one. -/
def replaceMax (k : Nat) (l : List Nat) : List Nat :=
  let big := l.foldl max 0
  if k < big then l.set (l.idxOf big) k else l

/-- A key is committed to a ray's hit word, or to its candidate buffer. -/
def State.commitKey (s : State) (core : Nat) (b : Sub) (i key : Nat) : Except CauseRec State :=
  if e4Any b.e4 then do
    let a := b.cand i
    let bs ← s.unitRead core a 64
    let t ← (s.unitTouch core a 64).unitWrite core a ((replaceMax key (words64 8 bs)).flatMap (fun k => leBytes 8 k))
    let u := t.cell (core / 4)
    .ok (if u.cand.contains (core, a) then t else t.setCell (core / 4) { u with cand := u.cand ++ [(core, a)] })
  else do
    let bs ← s.unitRead core (b.hit i) 8
    (s.unitTouch core (b.hit i) 8).unitWrite core (b.hit i) (leBytes 8 (min (leNat bs) key))

/-- The key of a ray's current hit. -/
def State.rayKey (s : State) (core : Nat) (b : Sub) (i : Nat) : Except CauseRec Nat :=
  if e4Any b.e4 then (s.unitRead core (b.cand i) 64).map (fun bs => (words64 8 bs).foldl max 0)
  else (s.unitRead core (b.hit i) 8).map leNat

/-- A ray against primitive p of the payload; only t from +0 upward is committed. -/
def State.walkPrim (s : State) (core : Nat) (b : Sub) (h : Beat) (payload : List Byte) (i : Nat) (ray : List Nat) (p : Nat) :
    Except CauseRec State :=
  let o := (h.nodes + 1) / 2 * 128 + 64 * p
  match rayTri ray (words32 9 ((payload.drop o).take 36)) with
  | some (t, _, _) => if t < 0x80000000 then s.commitKey core b i (t * 2 ^ 32 + h.seg * 2 ^ 20 + p) else .ok s
  | none => .ok s

def State.walkPrims (s : State) (core : Nat) (b : Sub) (h : Beat) (payload : List Byte) (i : Nat) (ray : List Nat) :
    List Nat → Except CauseRec State
  | [] => .ok s
  | p :: t => match s.walkPrim core b h payload i ray p with
    | .error c => .error c
    | .ok s => s.walkPrims core b h payload i ray t

/-- What is left to visit: a node, or a child word with its box. -/
inductive WalkItem where
  | node (n : Nat)
  | child (w : Nat) (box : List Nat)
  deriving DecidableEq, Repr

/-- Depth-first from the items left, testing the primitives that `now` selects; true for a malformed traversal. Whether
a box beyond the current hit is skipped is not fixed. A child word of type 11 is malformed whether or not its box is hit;
a node index or a leaf range is checked once its box is hit (notes/assumptions/90.md). DESIGN CHOICE. -/
def State.walkTree (s : State) (core : Nat) (b : Sub) (h : Beat) (payload : List Byte) (i : Nat) (ray : List Nat) (now : Nat → Bool) :
    Nat → Nat → List WalkItem → Except CauseRec (State × Bool)
  | 0, _, _ => .ok (s, true)
  | _, _, [] => .ok (s, false)
  | f + 1, visits, .node n :: t =>
    if h.nodes ≤ n || h.nodes ≤ visits then .ok (s, true)
    else
      let rec' := (payload.drop (64 * n)).take 64
      let box := fun (c : Nat) => words32 6 (rec'.drop (24 * c))
      let w := fun (c : Nat) => leNat ((rec'.drop (48 + 4 * c)).take 4)
      s.walkTree core b h payload i ray now f (visits + 1) (.child (w 0) (box 0) :: .child (w 1) (box 1) :: t)
  | f + 1, visits, .child w box :: t =>
    if w / 2 ^ 30 = 0 then s.walkTree core b h payload i ray now f visits t
    else if w / 2 ^ 30 = 3 then .ok (s, true)
    else match rayBox ray box with
      | none => s.walkTree core b h payload i ray now f visits t
      | some tb => match s.rayKey core b i with
        | .error c => .error c
        | .ok k =>
          let beyond := decide (tb < 0x80000000) && decide (k / 2 ^ 32 < tb)
          if beyond && Config.freeBool s.free then (s.bump 1).walkTree core b h payload i ray now f visits t
          else if w / 2 ^ 30 = 1 then s.walkTree core b h payload i ray now f visits (.node (w % 512) :: t)
          else
            let first := w % 2 ^ 20
            let count := w / 2 ^ 20 % 256 + 1
            if h.prims < first + count then .ok (s, true)
            else match s.walkPrims core b h payload i ray (((List.range count).map (fun x => first + x)).filter now) with
              | .error c => .error c
              | .ok s => s.walkTree core b h payload i ray now f visits t

/-- Beat j of a pass for one ray of an entry: the primitives that the beat holds are tested. -/
def State.walkRay (s : State) (core : Nat) (b : Sub) (h : Beat) (payload : List Byte) (j i : Nat) : Except CauseRec (State × Bool) :=
  match s.unitRead core (e4Addr b.e4 + 32 * i) 32 with
  | .error c => .error c
  | .ok r =>
    let s := s.unitTouch core (e4Addr b.e4 + 32 * i) 32
    let ray := words32 8 r
    let tb := (h.nodes + 1) / 2
    let here := fun (p : Nat) => decide (tb + p / 2 = j)
    if h.nodes = 0 then
      (s.walkPrims core b h payload i ray ([2 * j, 2 * j + 1].filter (fun p => p < h.prims))).map (fun t => (t, false))
    else if j < tb && j ≠ h.len then .ok (s, false)
    else s.walkTree core b h payload i ray here (3 * h.nodes + 4) 0 [.node 0]

def State.walkRays (s : State) (core : Nat) (b : Sub) (h : Beat) (payload : List Byte) (j : Nat) (mal : Bool) :
    List Nat → Except CauseRec (State × Bool)
  | [] => .ok (s, mal)
  | i :: t => match s.walkRay core b h payload j i with
    | .error c => .error c
    | .ok (s, m) => s.walkRays core b h payload j (mal || m) t

/-! ### Beats -/

/-- CPOST: counter E(5) rises by the beats due that are not posted yet, 8 by 8 and the remainder at the pass's end. -/
def State.catchPost (s : State) (core e : Nat) (atEnd : Bool) : Except CatchErr State :=
  match (s.core core).sub e with
  | none => .ok s
  | some b =>
    let due := (if atEnd then b.dlv else b.dlv / 8 * 8) - b.posted
    if !e4Cpost b.e4 || 1 < e4Tk b.e4 || due = 0 then .ok s
    else match s.post core (s.partOf core) b.user b.e5 due with
      | .error (.trap c) => .error (b.err 7 c)
      | .error _ => .error none
      | .ok t => .ok (t.setSub core e { b with posted := b.posted + due })

/-! ### Ways that a WAYS changes (03 R64) -/

/-- The place of way w among the scratch ways below it. -/
def wayPos (m : BitVec 6) (w : Nat) : Nat := popc w (m.toNat % 2 ^ w)

/-- Ways that change, or stay scratch and move. -/
def affected (old new : BitVec 6) : List Nat :=
  (List.range 6).filter (fun w => (old.getLsbD w != new.getLsbD w) || (old.getLsbD w && new.getLsbD w && wayPos old w ≠ wayPos new w))

/-- Some byte of n from scratch address a lies in an affected way, under the old map. -/
def inAffected (old : BitVec 6) (aff : List Nat) (a n : Nat) : Bool :=
  (List.range 6).any (fun p => decide (p < extent old / 0x1000) && decide (a < (p + 1) * 0x1000) && decide (p * 0x1000 < a + n) &&
    aff.contains (scratchWay old 6 0 p))

/-- A beat accepted after a WAYS in progress issued is discarded where its basket lies in a way that the WAYS changes (03 Table
3-3). -/
def State.beatCut (s : State) (core : Nat) (b : Sub) : Bool :=
  let c := s.core core
  e4Tk b.e4 = 0 && c.ways.any (fun r => decide (r.beats < (s.cell (core / 4)).lqNum) &&
    inAffected c.waym (affected c.waym r.new) (e4Addr b.e4) (128 * e4Beats b.e4))

/-- Scratch that a pass may write for an entry: its basket, or what its rays commit to. -/
def Sub.areas (b : Sub) : List (Nat × Nat) := match e4Tk b.e4 with
  | 0 => [(e4Addr b.e4, 128 * e4Beats b.e4)]
  | 3 => (maskBits b.mask).map (fun i => if e4Any b.e4 then (b.cand i, 64) else (b.hit i, 8))
  | _ => []

/-- A beat that the catch unit accepts after a WAYS in progress issued is held where it may write an affected way for a traverse
entry, which WAYS does not cancel (03 R64). -/
def State.beatHeld (s : State) (core : Nat) (b : Sub) : Bool :=
  let c := s.core core
  e4Tk b.e4 = 3 && c.ways.any (fun r => decide (r.beats ≤ (s.cell (core / 4)).lqNum) &&
    b.areas.any (fun a => inAffected c.waym (affected c.waym r.new) a.1 a.2))

/-- Payload beat j meets an entry that is catching. The walker buffers 64 beats; how far it lags is timing, so from the 65th
on a free value says whether it has fallen further behind. An entry with malformed rays raises one cause in a pass
(notes/assumptions/89.md). DESIGN CHOICE. -/
def State.catchBeat (s : State) (core e : Nat) (h : Beat) (payload : List Byte) (j : Nat) (data : List Byte) (tag : Nat × Word) (b : Sub) :
    Except CatchErr State :=
  if b.ovr || b.busy || e4Tk b.e4 = 2 || s.beatCut core b then .ok s
  else match e4Tk b.e4 with
    | 0 =>
      if b.rel + e4Beats b.e4 ≤ j then .ok (s.setSub core e { b with ovr := true })
      else match s.unitWrite core (e4Addr b.e4 + 128 * (j % e4Beats b.e4)) data with
        | .error c => .error (b.err 11 c)
        | .ok t => (t.setSub core e { b with dlv := b.dlv + 1 }).catchPost core e false
    | 1 =>
      let s := match (maskSlots (BitVec.ofNat 64 (e4Addr b.e4)))[j / 8]? with
        | none => s
        | some o => s.setCell (core / 4) ((s.cell (core / 4)).putLine o (j % 8) data tag)
      (s.setSub core e { b with dlv := b.dlv + 1 }).catchPost core e false
    | _ => if 64 ≤ j && Config.freeBool s.free then .ok ((s.setSub core e { b with ovr := true }).bump 1) else
      match (if 64 ≤ j then s.bump 1 else s).walkRays core b h payload j false (maskBits b.mask) with
      | .error c => .error (b.err 11 c)
      | .ok (t, mal) =>
        let t := t.setSub core e { b with dlv := b.dlv + 1, mal := b.mal || mal }
        .ok (if mal && !b.mal then t.postAsync b.key b.task 11 (cz 0x40) else t)

/-- The pass ends for an entry: it is served, or it stays registered (07 R171). -/
def State.catchEnd (s : State) (core e : Nat) (b : Sub) : Except CatchErr State :=
  match (if b.busy then .ok s else s.catchPost core e true) with
  | .error z => .error z
  | .ok s =>
    let b := ((s.core core).sub e).getD b
    let b := if b.ovr || b.busy then { b with st := 0 }
      else { b with st := 2, fin := s.clock, passes := min (b.passes + 1) (2 ^ 30 - 1) }
    .ok ((s.setSub core e b).carDone core e b.word)

def execPayloadBeatDelivery (cell : Nat) (s : State) : Host.Outcome State Fault Refusal :=
  let u := s.cell cell
  match u.catchQ with
  | [] => .next s
  | b :: t =>
    match b.num with
    | none => .next s
    | some j =>
      if u.lqFrozen || !s.mayBegin 2 cell then .next s
      else
        let s0 := s.setCell cell { u with catchQ := t, lqNum := u.lqNum + 1 }
        match u.passing with
        | none => .next s0
        | some p =>
          if u.part ≠ some b.part || p.head.part ≠ b.part || p.head.slot ≠ b.slot || p.head.lap ≠ b.lap then .next s0
          else
            let s0 := s0.settleCell cell
            let payload := p.payload ++ b.data
            let l := s0.entries cell b.seg (fun x => x.st = 1)
            if l.any (fun e => ((s0.core e.1).sub e.2).any (fun x => s.beatHeld e.1 x)) then .next s else
            let r := (s0.eachEntry (fun s core e x => s.catchBeat core e p.head payload j b.data (b.tag, b.sb) x) l).bind (fun s1 =>
              if j = p.head.len then s1.eachEntry (fun s core e x => s.catchEnd core e x) l else .ok s1)
            match r with
            | .error z => .next (s.catchFault cell z)
            | .ok s1 =>
              let u1 := s1.cell cell
              .next (s1.setCell cell { u1 with passing := if j = p.head.len then none else some ({ p with arrived := j + 1, payload := payload } : Passing),
                                               shown := some ({ p with arrived := j + 1, payload := [] } : Passing) })

end Sys2Proof.Machine
end

