-- ==== Sys2Proof/Machine/Ways.lean ====
section
/-! DEFINITION. WAYS: the way map of a core (03 R62 to R65, 24 R454). -/

namespace Sys2Proof.Machine

/-- Some of the n bytes at va lies in an affected way of the core, whether va names its scratch directly or through its own rank
window (03 R67). -/
def State.ownAffected (s : State) (core : Nat) (aff : List Nat) (va : Word) (n : Nat) : Bool :=
  s.ownScratch core va && inAffected (s.core core).waym aff (va.toNat % 0x10000 % (if spaceOf va = .rank then 0x8000 else 0x10000)) n

/-- The command reads or writes an affected way. The source of a tensor or gathered copy, and a table, count from
their base up. -/
def State.copyAffects (s : State) (core : Nat) (c : CopyCmd) (aff : List Nat) : Bool :=
  s.ownAffected core aff c.dst c.total || (c.e[2] ≠ 0 && s.ownAffected core aff c.e[2] 8) ||
  (match c.form with
    | 0 => s.ownAffected core aff c.src c.total
    | 1 => s.ownAffected core aff c.src 0x6000
    | _ => s.ownAffected core aff c.src 0x6000 || s.ownAffected core aff (BitVec.ofNat 64 (bits c.e[5] 55 0)) 0x6000)

/-- The matrix operation reads or writes an affected way of a core. -/
def MqOp.affects (o : MqOp) (core : Nat) (old : BitVec 6) (aff : List Nat) : Bool :=
  o.remote.isNone && o.key / 4 = core && (match o.instr with
    | .mload _ _ f => spaceOf o.x = .scratch && inAffected old aff o.x.toNat (if f = 6 then 0x440 else 0x400)
    | .mdrain .. =>
      let sh := mshape o.e0 o.e1 o.e2 none
      let w := drainBytes sh.outFmt
      (mcells sh).any (fun c => inAffected old aff (o.x + BitVec.ofNat 64 c.row * o.y + BitVec.ofNat 64 (c.col * w)).toNat w)
    | _ => false)

/-- A beat that the catch unit had accepted may write an affected way. -/
def State.beatsDue (s : State) (core : Nat) (r : WaysRun) (aff : List Nat) : Bool :=
  let u := s.cell (core / 4)
  (u.catchQ.take (r.beats - u.lqNum)).any (fun b => (s.core core).subs.any (fun e =>
    e.2.valid && e.2.seg = b.seg && e.2.areas.any (fun a => inAffected (s.core core).waym aff a.1 a.2)))

/-- A copy's write that the core has accepted is still being written into an affected way. -/
def State.landingDue (s : State) (core : Nat) (aff : List Nat) : Bool :=
  (s.die (dieOf core)).landing.any (fun l => !l.held && (match l.place with
    | .array c a => c = core && inAffected (s.core core).waym aff a l.data.length
    | _ => false))

/-- Nothing that a WAYS waits for is left (03 R64). -/
def State.waysClear (s : State) (core : Nat) (r : WaysRun) (aff : List Nat) : Bool :=
  let c := s.core core
  let old := c.waym
  (List.range 4).all (fun ch =>
    (c.chan ch).cmds.all (fun k => decide ((r.chans[ch]?).getD 0 ≤ k.id) || !s.copyAffects core k aff)) && !s.landingDue core aff && !s.beatsDue core r aff &&
  (s.cell (core / 4)).mq.all (fun o => decide (r.mq ≤ o.num) || !o.affects core old aff) &&
  (s.clu (cluOf core)).splats.all (fun p => p.key / 4 ≠ core) &&
  (c.kin.take r.kin).all (fun u => !inAffected old aff (binAddr c.krb0 c.krb1 u.key) 8) &&
  c.xsels.all (fun h => !inAffected old aff h.addr 64)

/-- A WAYS that begins now. -/
def State.waysRun (s : State) (core ctx : Nat) (new : BitVec 6) : WaysRun :=
  let c := s.core core
  { ctx := ctx, new := new, chans := c.ch.map (fun h => h.next), mq := (s.cell (core / 4)).mqNum, gq := (s.cell (core / 4)).gqNum, kin := c.kin.length,
    beats := (s.cell (core / 4)).lqNum + (s.cell (core / 4)).catchQ.length }

/-- A way's bytes become zero, with fresh codes. -/
def State.clearWay (s : State) (core w : Nat) : State :=
  let c := s.core core
  let out := fun (x : Nat) => !(decide (512 * w ≤ x) && decide (x < 512 * w + 512))
  (s.setCore core { c with arr := Mem.clear c.arr (0x1000 * w) 0x1000,
                           ecc := { c.ecc with bad := c.ecc.bad.filter out, single := c.ecc.single.filter out,
                                                retErr := c.ecc.retErr.filter (fun p => out (2 * p.1)) } }).fireArray core (0x1000 * w) 0x1000

/-- The map changes: lines of ways that become scratch leave the L1 ways, changed ways are cleared, and subscriptions
whose basket lies in an affected way are cancelled. -/
def State.waysDone (s : State) (core : Nat) (new : BitVec 6) (aff : List Nat) : State :=
  let c := s.core core
  let old := c.waym
  let gone := c.l1.filter (fun l => !old.getLsbD l.way && new.getLsbD l.way)
  let s := gone.foldl (fun t l => t.evict core l.line) s
  let s := ((List.range 6).filter (fun w => old.getLsbD w != new.getLsbD w)).foldl (fun t w => t.clearWay core w) s
  let s := s.settleSubs core
  let cut := ((s.core core).subs.filter (fun e => e.2.valid && e4Tk e.2.e4 = 0 && inAffected old aff (e4Addr e.2.e4) (128 * e4Beats e.2.e4)))
  let s := cut.foldl (fun t e => t.freeSub core e.1 false) s
  let c := s.core core
  s.setCore core { c with waym := new, ways := none }

def execWays (d : BitVec 5) (m : BitVec 6) (s : State) : Host.Outcome State Fault Refusal :=
  s.out (do
    need (m ≠ 63) (cz 0x02)
    need (!s.cx.isWork) (cz 0x2C)
    if s.cx.st.chk then .error .escape
    else do
      s.engineFree s.cur
      let core := s.curCore
      let c := s.core core
      await (c.ways.all (fun r => r.ctx = s.cur % 4)) (.ways core)
      await (c.ways.isSome || (SMap.get (s.cell s.curCell).holding [] s.curPart).isEmpty) (.ways core)
      let aff := affected c.waym m
      let r := c.ways.getD (s.waysRun core (s.cur % 4) m)
      if s.waysClear core r aff then .ok ((s.waysDone core m aff).wr 4 d (c.waym.setWidth 64))
      else .ok ((s.setCore core { c with ways := some r }).block (.ways core)))

end Sys2Proof.Machine
end

