-- ==== Sys2Proof/Machine/Execution.lean ====
section
/-! DEFINITION. Tasks: messages, mailboxes, stage queues, queue registers, extension registers, output ranges and
digests, and the end of a task (majors 41 to 43: 02 R28, R38 to R50, 11 R239 to R245). -/

namespace Sys2Proof.Machine

/-! ### SPAWN, MBOX, TID and YIELD -/

/-- The management mailbox (13 R277). -/
def mgmtMailbox : Word := 0xFC00000000000000

def execSpawn (d a b : BitVec 5) (s : State) : Host.Outcome State Fault Refusal :=
  s.out (do
    let x := s.cx
    let va := x.s a
    need (!(x.s b = mgmtMailbox && x.st.priv = 0)) (cz 0x03)
    need (va.toNat % 64 = 0) (czAt 0x20 va)
    s.waysFree s.cur 0
    need (s.inScratch s.curCore va.toNat 64) (czAt 0x21 va)
    need (!x.isWork) (cz 0x2C)
    need (spaceOf (x.s b) = .translated || x.s b = mgmtMailbox) (czAt 0x2D (x.s b))
    if x.st.chk then .ok (s.skip 4)
    else do
      await (s.fenceMet s.cur 1) (.fence 1)
      s.arFree s.cur
      s.storeFree s.cur (2 ^ 20)
      s.scrOrdered s.cur va 64
      let c := s.core s.curCore
      await (c.unsent.length + c.held.length < 8) .message
      let b' ← s.scrRead s.cur va.toNat 8
      let m : Message := { mbox := x.s b, start := x.s d, hdr := leWords 8 b', part := s.curPart, kind := 0, sender := s.cur, task := x.taskNum }
      .ok ((s.setCore s.curCore { c with unsent := c.unsent ++ [m] }).skip 4))

/-- The bound entry of a mailbox: its core and entry (02 R40). -/
def Part.bound (p : Part) (m : Word) : Option (Nat × Word) := (p.dir.find? (fun e => e.1 = m)).map (fun e => e.2)
/-- The forward entry of a mailbox: its module and PARTID (02 R41). -/
def Part.forward (p : Part) (m : Word) : Option (Nat × Nat) := (p.fwd.find? (fun e => e.1 = m)).map (fun e => e.2)

/-- MBOX: the status and the directory it leaves (02 R40). -/
def Part.mbox (p : Part) (core : Nat) (m entry : Word) : Nat × Part :=
  if m.toNat % 64 ≠ 0 then (3, p)
  else if (p.bound m).any (fun e => e.1 ≠ core) || (p.forward m).isSome then (2, p)
  else
    let rest := p.dir.filter (fun e => e.1 ≠ m)
    if entry = 0 then (0, { p with dir := rest })
    else if 4096 ≤ rest.length + p.fwd.length then (1, p)
    else (0, { p with dir := rest ++ [(m, core, entry)] })

def execMbox (d a b : BitVec 5) (s : State) : Host.Outcome State Fault Refusal :=
  s.out (do
    let x := s.cx
    let e := x.s b
    need (!bit e 0 && bits e 63 56 = 0) (cz 0x02)
    need (!x.isWork) (cz 0x2C)
    need (spaceOf (x.s a) = .translated) (czAt 0x2D (x.s a))
    if x.st.chk then .ok (s.skip 4)
    else
      let r := (s.part s.curPart).mbox s.curCore (x.s a) e
      .ok ((s.setPart s.curPart r.2).wr 4 d (BitVec.ofNat 64 r.1)))

/-- The width code of field k. -/
def tidWidth (widths : Word) (k : Nat) : Nat := bits widths (6 * k + 5) (6 * k)
/-- The lowest bit of field k. -/
def tidPos (widths : Word) : Nat → Nat
  | 0 => 0
  | k + 1 => tidPos widths k + tidWidth widths k

/-- Field k of a work identifier (02 R39). -/
def tidField (wid widths : Word) (k : Nat) : Word :=
  if tidWidth widths 0 = 0 then (if k = 0 then wid else 0)
  else if (List.range (k + 1)).any (fun j => tidWidth widths j = 0) then 0
  else BitVec.ofNat 64 (wid.toNat / 2 ^ tidPos widths k % 2 ^ tidWidth widths k)

def execTid (d : BitVec 5) (k : BitVec 6) (s : State) : Host.Outcome State Fault Refusal :=
  s.out (do
    need (k.toNat ≤ 5) (cz 0x02)
    .ok (s.wr 4 d (tidField s.cx.wid s.cx.widw k.toNat)))

/-- YIELD: the issue is all it does; the choice of R24 then passes over its context. -/
def execYield (s : State) : Host.Outcome State Fault Refusal := .next (s.skip 4)

/-! ### Stage queues (02 R49, R50, 22 R370) -/

/-- The stage of the current task, by number; none for STAGE 0xFFFF or a number the graph does not have. -/
def State.curStage (s : State) : Option (Nat × Stage) :=
  match s.cx.task, (s.part s.curPart).graph with
  | some t, some g =>
    let n := bits (t.hdr.getD 2 0) 63 48
    if n = 0xFFFF then none else (g.stages[n]?).map (fun st => (n, st))
  | _, _ => none

/-- The lowest free place of a stage queue. -/
def StageQueue.place (q : StageQueue) : Nat := ((List.range (2 ^ q.lg)).find? (fun i => !(q.recs.any (fun r => r.place = i)))).getD 0
def StageQueue.full (q : StageQueue) : Bool := decide (2 ^ q.lg ≤ q.recs.length)

def Graph.setQueue (g : Graph) (i : Nat) (q : StageQueue) : Graph := { g with queues := g.queues.set i q }

/-- ENQ: blocked ENQs complete in blocking order; a fault of the queue's storage is taken at the word. -/
def execEnq (a b : BitVec 5) (p : BitVec 6) (s : State) : Host.Outcome State Fault Refusal :=
  s.out (do
    let x := s.cx
    let va := x.s a
    need (p.toNat ≤ 3) (cz 0x02)
    let st := s.curStage
    need (st.any (fun t => p.toNat < t.2.out.length)) (cz 0x02)
    need (va.toNat % 64 = 0) (czAt 0x20 va)
    s.waysFree s.cur 0
    need (s.inScratch s.curCore va.toNat 64) (czAt 0x21 va)
    if x.st.chk then .ok (s.skip 4)
    else do
      s.arFree s.cur
      s.scrOrdered s.cur va 64
      let part := s.curPart
      let qi := (st.elim [] (fun t => t.2.out)).getD p.toNat 0
      match (s.part part).graph with
      | none => .error (.trap (cz 0x02))
      | some g => match g.queues[qi]? with
        | none => .error (.trap (cz 0x02))
        | some q => do
          if q.full || q.wait.any (fun k => q.wait.head? ≠ some s.cur && k ≠ s.cur) then
            let pt := s.part part
            let w := if q.wait.contains s.cur then q.wait else q.wait ++ [s.cur]
            .ok ((s.setPart part { pt with graph := some (g.setQueue qi { q with wait := w }) }).block (.stageQueue qi))
          else
          let data ← s.scrRead s.cur va.toNat 8
          let at' := q.base + BitVec.ofNat 64 (64 * q.place)
          match s.partHold (dieOf s.curCore) part at' 64 with
          | some d => .error (.block (.hold d))
          | none =>
          match s.partStore (dieOf s.curCore) part at' data with
          | (_, some c) => .error (.trap c)
          | (t, none) =>
            let r : QRec := { num := q.next, tag := bits (x.s b) 31 0, reserved := false, place := q.place }
            let pt := t.part part
            .ok ((t.setPart part { pt with graph := some (g.setQueue qi { q with recs := q.recs ++ [r], next := q.next + 1, wasEmpty := false,
                                                                                     wait := q.wait.filter (fun k => k ≠ s.cur) }) }).skip 4))

/-- DEQ: the record that the firing reserved on the port. -/
def execDeq (d a : BitVec 5) (p : BitVec 6) (s : State) : Host.Outcome State Fault Refusal :=
  s.out (do
    let x := s.cx
    let va := x.s a
    need (p.toNat ≤ 3) (cz 0x02)
    need (x.task.any (fun t => bits (t.hdr.getD 2 0) 63 48 ≠ 0xFFFF)) (cz 0x02)
    let res := (x.task.elim [] (fun t => t.reserved)).find? (fun r => r.port = p.toNat)
    need (x.st.chk || res.isSome) (cz 0x02)
    need (va.toNat % 64 = 0) (czAt 0x20 va)
    s.waysFree s.cur 0
    need (s.inScratch s.curCore va.toNat 64) (czAt 0x21 va)
    if x.st.chk then .error .escape
    else do
      s.arFree s.cur
      s.scrOrdered s.cur va 64
      let part := s.curPart
      match res, (s.part part).graph with
      | some r, some g => do
        let base := (g.queues[r.queue]?).elim 0 (fun q => q.base)
        let data ← (s.partRead part (base + BitVec.ofNat 64 (64 * r.place)) 64).mapError Stop.trap
        let s ← s.scrWrite s.cur va.toNat 8 data
        let s := s.setPart part { s.part part with graph := some (g.release [r]) }
        let y := s.cx
        let s := s.setCx { y with task := y.task.map (fun t => { t with reserved := t.reserved.filter (fun q => q ≠ r) }) }
        .ok (s.wr 4 d (BitVec.ofNat 64 r.tag))
      | _, _ => .error (.trap (cz 0x02)))

/-! ### Queue registers (02 R28, R29, 23 R406, R407) -/

/-- The current context stands first among those blocked at a queue's end, or nobody is. -/
def State.myTurn (s : State) (q : Nat) (push : Bool) : Bool :=
  match (s.core s.curCore).qwait.find? (fun w => w.2.1 = q && w.2.2 = push) with
  | none => true
  | some w => w.1 = s.cur % 4

/-- A context may push: the queue is not full, and it is the next in line where the queue is not claimed; a claimed one takes
the pushes of its own context alone (02 R28, R29). -/
def Core.mayPush (c : Core) (ctx q : Nat) : Bool :=
  let claim := (c.qclaim[q]?).join
  let first := match c.qwait.find? (fun w => w.2.1 = q && w.2.2) with
    | none => true
    | some w => w.1 = ctx
  decide (((c.q[q]?).getD []).length < 4) && (if 4 ≤ q && claim.isSome then claim = some ctx else first)

/-- It leaves the line. -/
def Core.served (c : Core) (ctx q : Nat) (push : Bool) : Core := { c with qwait := c.qwait.filter (fun w => w ≠ (ctx, q, push)) }

def Core.queue (c : Core) (q : Nat) : List Word := (c.q[q]?).getD []
def Core.claim (c : Core) (q : Nat) : Option Nat := (c.qclaim[q]?).join

def execQpush (a : BitVec 5) (q : BitVec 3) (s : State) : Host.Outcome State Fault Refusal :=
  s.out (do
    let n := q.toNat
    let me := s.cur % 4
    if s.cx.st.chk && n < 4 then .ok (s.skip 4)
    else do
      await (s.fenceMet s.cur 1) (.fence 1)
      s.arFree s.cur
      s.storeFree s.cur (2 ^ 20)
      let c := s.core s.curCore
      await (c.mayPush me n) (.queue n true)
      let c := (c.served me n true)
      let c := { c with q := c.q.set! n (c.queue n ++ [s.cx.s a]), qclaim := if n < 4 then c.qclaim else c.qclaim.set! n (some me) }
      .ok ((s.setCore s.curCore c).skip 4))

/-- The oldest entry of one of q0 to q3. -/
def State.qpop (s : State) (len : Nat) (d : BitVec 5) (q : Nat) : Except Stop State := do
  need (q < 4) (cz 0x02)
  if s.cx.st.chk then .error .escape
  else do
    let c := s.core s.curCore
    await (!(c.queue q).isEmpty && s.myTurn q false) (.queue q false)
    let c' := c.served (s.cur % 4) q false
    .ok ((s.setCore s.curCore { c' with q := c'.q.set! q ((c.queue q).drop 1) }).wr len d ((c.queue q).headD 0))

def execQpop (d : BitVec 5) (q : BitVec 3) (s : State) : Host.Outcome State Fault Refusal := s.out (s.qpop 4 d q.toNat)
def execCQpop (d : BitVec 3) (q : BitVec 3) (s : State) : Host.Outcome State Fault Refusal := s.out (s.qpop 2 (creg d) q.toNat)

/-- QLEVEL; in a check heat it does not act on q0 to q3, and what it returns for them is not fixed. -/
def execQlevel (d : BitVec 5) (q : BitVec 3) (s : State) : Host.Outcome State Fault Refusal :=
  .next (if s.cx.st.chk && q.toNat < 4 then (s.bump 1).wr 4 d (Config.freeWord s.free)
    else s.wr 4 d (BitVec.ofNat 64 ((s.core s.curCore).queue q.toNat).length))

/-! ### Extension registers (15 R311, 22 R375) -/

def execExt (a : BitVec 5) (k : BitVec 3) (s : State) : Host.Outcome State Fault Refusal :=
  s.out (do
    await (s.cx.seqr.isNone) .sequencer
    .ok (s.setCx ((s.cx.setE k (s.cx.s a)).advance 4)))

/-- Quarter h of e replaced. -/
def putQuarter (e : Word) (h : Nat) (i : BitVec 16) : Word :=
  (e &&& ~~~((0xFFFF : Word) <<< (16 * h))) ||| ((i.setWidth 64) <<< (16 * h))

def execExti (k : BitVec 3) (i : BitVec 16) (h : BitVec 2) (s : State) : Host.Outcome State Fault Refusal :=
  s.out (do
    await (s.cx.seqr.isNone) .sequencer
    .ok (s.setCx ((s.cx.setE k (putQuarter (s.cx.e k) h.toNat i)).advance 4)))

def execExtrd (d : BitVec 5) (k : BitVec 3) (s : State) : Host.Outcome State Fault Refusal := .next (s.wr 4 d (s.cx.e k))

/-! ### Output ranges and digests (11 R240 to R242) -/

/-- Some byte of the range lies in a counter page. -/
def State.rangeInCtr (s : State) (va : Nat) : Nat → Nat → Bool
  | 0, _ => false
  | f + 1, n =>
    if n = 0 then false
    else match s.translate s.curCore s.curPart va with
      | .ok (e, _) => pteCtr e || s.rangeInCtr (va / 0x10000 * 0x10000 + 0x10000) f (n - min n (0x10000 - va % 0x10000))
      | .error _ => s.rangeInCtr (va / 0x10000 * 0x10000 + 0x10000) f (n - min n (0x10000 - va % 0x10000))

/-- The range may be declared. -/
def State.rangeOk (s : State) (a : Word) (n : Nat) : Bool :=
  let e := a.toNat + n
  n = 0 || (decide (e ≤ 2 ^ 64) && !(decide (a.toNat < 0xFF * 2 ^ 56) && decide (0xFD * 2 ^ 56 < e)) &&
    !(spaceOf a = .translated && s.rangeInCtr a.toNat 6 n) && !(spaceOf a = .scratch && decide (0x10000 < e) && s.rangeInCtr 0x10000 6 (e - 0x10000)))

def execOutrng (a b : BitVec 5) (s : State) : Host.Outcome State Fault Refusal :=
  s.out (do
    let x := s.cx
    let n := (x.s b).toNat
    need (canonical (x.s a)) (czAt 0x2D (x.s a))
    need (x.outl.length < 8 && (x.outl.map Prod.snd).foldl (fun u v => u + v) n ≤ 262144 && s.rangeOk (x.s a) n) (cz 0x51)
    need (!(x.isWork && n ≠ 0 && !((x.s a).toNat + n ≤ 0x6000))) (cz 0x2C)
    .ok (s.setCx ({ x with outl := x.outl ++ [(x.s a, n)] }.advance 4)))

/-- n bytes of context k's address space, as ordinary loads of bytes, and the state after them (11 R241). -/
def State.ctxBytes (s : State) (k : Nat) (va : Word) : Nat → Except Stop (List Byte × State)
  | 0 => .ok ([], s)
  | n + 1 => do
    s.waysFree k va
    let p ← s.placeOf k (s.ctx k).st.chk ((s.ctx k).st.priv = 0) (Req.load 1) va
    s.relFree k p 1
    s.ordered k va 1
    let b ← s.readPlace k p 1 va
    let (t, s) ← (s.afterRead (k / 4) p 1 va).ctxBytes k (va + 1) n
    .ok (b ++ t, s)

/-- The bytes of the listed ranges in declaration order. -/
def State.outBytes (s : State) (k : Nat) : List (Word × Nat) → Except Stop (List Byte × State)
  | [] => .ok ([], s)
  | (a, n) :: t => do
    let (b, s) ← s.ctxBytes k a n
    let (r, s) ← s.outBytes k t
    .ok (b ++ r, s)

def digK1 : Word := 0xB5D34C8E61A7F29B
def digK2 : Word := 0xE1C60D973A5F84B3
def digStep (h : Word × Word) (w : Word) : Word × Word :=
  (((h.1 ^^^ w).rotateLeft 23) * digK1, ((h.2 + w).rotateLeft 41) * digK2)

/-- The digest of a byte string: D[63:0] and D[127:64] (11 R242). -/
def digest (b : List Byte) : Word × Word :=
  let n : Word := BitVec.ofNat 64 b.length
  let h := (leWords ((b.length + 7) / 8) b).foldl digStep (digK1, digK2)
  let h0 := h.1 ^^^ n
  let h1 := h.2 ^^^ (n * digK1)
  let h0 := (h0 ^^^ (h1 >>> 29)) * digK2
  (h0, (h1 ^^^ (h0 >>> 31)) * digK1)

def execDigrd (d : BitVec 5) (h : BitVec 1) (s : State) : Host.Outcome State Fault Refusal :=
  s.out (do
    s.fenced 5
    let (b, s) ← s.outBytes s.cur s.cx.outl
    let r := digest b
    .ok (s.wr 4 d (if h = 1 then r.2 else r.1)))

/-! ### The end of a task (02 R38, 22 R374, 11 R243 to R245) -/

/-- Engine operations that a task of a context queued and that are not performed. -/
def State.engineOps (s : State) (k task : Nat) : Bool :=
  (s.core (k / 4)).ch.any (fun h => h.cmds.any (fun c => c.key = k && c.task = task)) ||
  s.cells.any (fun u =>
    let mine := fun (o : MqOp) => o.key = k && o.task = task
    u.2.mq.any mine || u.2.mmaIn.any mine || u.2.holding.any (fun h => h.2.any (fun m => match m with
      | .remote o => mine o
      | _ => false))) ||
  (s.cell (k / 16)).gq.any (fun g => g.key = k && g.task = task) ||
  (s.die (dieOf (k / 4))).fq.any (fun f => f.key = k) ||
  (s.clu (cluOf (k / 4))).splats.any (fun c => c.key = k)

/-- A completed group's digest goes to its slot, and the heat unit selects it or frees the slot (11 R243 to R245). -/
def State.complete (s : State) (part i : Nat) (d : Word × Word) : State :=
  let p := s.part part
  match SMap.find p.slots i with
  | none => s
  | some r =>
    let a := p.heatA + p.heatr
    let drop := SMap.drop p.slots i
    if a < 256 then s.setPart part { p with heatA := a, slots := drop }
    else
      let full := decide (64 ≤ p.checkQ.length) || decide (p.cells.length ≤ 1)
      let p := { p with heatA := a - 256, slots := if full then drop else SMap.set p.slots i { r with digest := some d },
                        checkQ := if full then p.checkQ else p.checkQ ++ [i] }
      let s := (s.setPart part p).heatCount part 0
      if full then s.heatCount part 0x30 else s

/-- The heat unit's part of a task's end: the digest of an eligible group, or of a check heat; none while a read must wait. -/
def State.heatEnd (s : State) (k : Nat) : Option State :=
  let x := s.ctx k
  let part := s.partOf (k / 4)
  match x.task with
  | none => some s
  | some t =>
    if t.check.isSome then
      match s.outBytes k x.outl with
      | .ok (b, s) => some (s.endHeat k (some (digest b)))
      | .error .escape => some (s.escapeHeat k 0x5A)
      | .error (.block _) => none
      | .error _ => some (s.endHeat k none)
    else
      let s := if x.st.heat && !x.st.det && x.st.priv = 0 then { s with completed := s.completed + 1 } else s
      match t.slot with
      | none => some s
      | some i =>
        if x.st.priv ≠ 0 then some s
        else match s.outBytes k x.outl with
          | .ok (b, s) => some ((s.complete part i (digest b)).setCtx k { s.ctx k with task := some { t with slot := none } })
          | .error (.trap c) => some (s.causeNotice part c 12 (k / 4) 0 x.tenant)
          | .error (.block _) => none
          | .error _ => some s

/-- The conditions of EXIT for context k. -/
def State.exitMet (s : State) (k : Nat) : Bool :=
  let x := s.ctx k
  s.quiet k && !(((x.st.heat && !x.st.det) || x.st.chk) && s.engineOps k x.taskNum) && s.exchangeDone k

/-- A task that has met the conditions of EXIT ends; none while its digest must wait. -/
def State.exitNow (s : State) (k : Nat) : Option State :=
  (s.heatEnd k).map (fun s => if (s.ctx k).cs = .idle then s else s.endTask k)

/-- EXIT. In a gang it is performed by the leader's stream and ends every member, each when its own counts are zero. -/
def execExit (s : State) : Host.Outcome State Fault Refusal :=
  match s.cx.gang with
  | some g => .next (g.members.foldl (fun t m => (t.unwait m).leave m) s)
  | none => .next ((if s.exitMet s.cur then s.exitNow s.cur else none).getD (s.block .exit))

end Sys2Proof.Machine
end

