-- ==== Sys2Proof/Machine/System.lean ====
section
/-! DEFINITION. System words: major 44 (12 R260 to R272, 15 R313, 24 R425, R428, R434, R435, R437, R455, 22 R357,
23 R385), and the operations behind the system registers that events share. -/

namespace Sys2Proof.Machine

/-! ### FRZ (12 Table 12-9, R267) -/

def CState.isFrozen : CState → Bool
  | .frozen => true
  | _ => false

/-- FROZEN: bit u is set while unit u is frozen. -/
def State.frozenBit (s : State) (core u : Nat) : Bool :=
  if u < 4 then (s.ctx (4 * core + u)).cs.isFrozen
  else if u < 8 then ((s.core core).chan (u - 4)).frozen
  else if u = 8 then (s.cell (core / 4)).mqFrozen
  else if u = 9 then (s.cell (core / 4)).lqFrozen
  else if u = 10 then (s.cell (core / 4)).gqFrozen
  else u = 11 && (s.core core).fqFrozen

def State.frozenWord (s : State) (core : Nat) : Word :=
  (List.range 12).foldl (fun a u => if s.frozenBit core u then a ||| BitVec.ofNat 64 (2 ^ u) else a) 0

/-- A frozen context becomes Ready at EPC. -/
def State.frzResume (s : State) (core u : Nat) : State :=
  let x := s.ctx (4 * core + u)
  if u < 4 && x.cs.isFrozen && !x.isLeaving then s.setCtx (4 * core + u) { x with cs := .ready, pc := x.epc } else s

/-- A frozen context ends as by EXIT, once its counts are zero; it stays frozen until then. -/
def State.frzEnd (s : State) (core u : Nat) : State :=
  let k := 4 * core + u
  let x := s.ctx k
  if u < 4 && x.cs.isFrozen then (s.setCtx k { x with seqr := none, deferred := none }).leave k else s

/-- A frozen queue goes on with its faulted operation. -/
def State.frzRetry (s : State) (core u : Nat) : State :=
  let c := s.core core
  let q := s.cell (core / 4)
  if u < 4 || !s.frozenBit core u then s
  else if u < 8 then s.setCore core (c.setChan (u - 4) { c.chan (u - 4) with frozen := false })
  else if u = 8 then s.setCell (core / 4) { q with mqFrozen := false }
  else if u = 9 then s.setCell (core / 4) { q with lqFrozen := false }
  else if u = 10 then s.setCell (core / 4) { q with gqFrozen := false }
  else s.setCore core { c with fqFrozen := false }

/-- A channel discards its commands; its completion register takes the next identifier. -/
def State.abortChan (s : State) (core ch : Nat) : State :=
  let c := s.core core
  let h := c.chan ch
  let lost := (h.cmds.filter (fun k => k.exch)).foldl (fun n k => n + (k.total - k.done)) 0
  (s.setCore core { c.setChan ch { h with cmds := [], compl := h.next, frozen := false } with
    exchBytes := c.exchBytes - lost }).fireCompletion core

/-- A catch unit discards its beats: the rest of the pass is an overrun for the entries that were catching. -/
def State.abortCatch (s : State) (cell : Nat) : State :=
  let u := s.cell cell
  let s := s.setCell cell { u with catchQ := [], lqNum := u.lqNum + u.catchQ.length, passing := none, lqFrozen := false }
  (List.range 4).foldl (fun t i =>
    let core := 4 * cell + i
    ((t.core core).subs.filter (fun e => e.2.valid && e.2.st = 1)).foldl (fun t e =>
      let b := { e.2 with ovr := true, st := 0 }
      (t.setSub core e.1 b).carDone core e.1 b.word) t) s

/-- The FRSENDs of a core's lane that wait are discarded. -/
def State.abortLane (s : State) (core : Nat) : State :=
  let c := s.core core
  let s := s.setCore core { c with fqFrozen := false }
  { s with ctxs := s.ctxs.map (fun kc => if kc.1 / 4 = core then
      (kc.1, match kc.2.cs with
        | .blocked (.encoder _ _) => { kc.2 with resume := SMap.set kc.2.resume kc.2.pc.toNat 1 }
        | _ => kc.2) else kc) }

/-- A frozen queue discards its faulted operation and those behind it. -/
def State.frzAbort (s : State) (core u : Nat) : State :=
  let q := s.cell (core / 4)
  if u < 4 || !s.frozenBit core u then s
  else if u < 8 then s.abortChan core (u - 4)
  else if u = 8 then s.setCell (core / 4) ({ q with mq := [], mqFrozen := false } : Cell).sweep
  else if u = 9 then s.abortCatch (core / 4)
  else if u = 10 then s.setCell (core / 4) { q with gq := [], edge := none, gqFrozen := false }
  else s.abortLane core

/-- A write to FRZ of a core. -/
def State.frzWrite (s : State) (core : Nat) (v : Word) : State :=
  let u := bits v 19 16
  match bits v 63 62 with
  | 1 => if u < 4 then s.frzResume core u else s.frzRetry core u
  | 2 => if u < 4 then s.frzEnd core u else s.frzAbort core u
  | _ => s

def execFrzResume (core unit : Nat) (s : State) : Host.Outcome State Fault Refusal := .next (s.frzResume core unit)
def execFrzEnd (core unit : Nat) (s : State) : Host.Outcome State Fault Refusal := .next (s.frzEnd core unit)
def execFrzRetry (core unit : Nat) (s : State) : Host.Outcome State Fault Refusal := .next (s.frzRetry core unit)
def execFrzAbort (core unit : Nat) (s : State) : Host.Outcome State Fault Refusal := .next (s.frzAbort core unit)

/-! ### TLBI, HEATR, the encoder's registers -/

/-- The entry is one that a TLBI of partition part with value v drops (13 Table 13-3). -/
def TlbEntry.hit (e : TlbEntry) (part : Nat) (v : Word) : Bool :=
  e.part = part && (bit v 63 || (decide (e.base ≤ bits v 55 16 * 0x10000) && decide (bits v 55 16 * 0x10000 < e.base + 2 ^ e.lg)))

/-- Every TLB has dropped the translations. -/
def State.tlbi (s : State) (part : Nat) (v : Word) : State :=
  { s with cores := s.cores.map (fun c => (c.1, { c.2 with tlb := c.2.tlb.filter (fun e => !e.hit part v) })),
           clus := s.clus.map (fun c => (c.1, { c.2 with ctlb := c.2.ctlb.filter (fun e => !e.hit part v) })) }

def execTlbiWrite (part : Nat) (v : BitVec 64) (s : State) : Host.Outcome State Fault Refusal := .next (s.tlbi part v)

/-- HEATR takes K, at most 256, and the selection sum starts anew (11 R244). -/
def State.setHeatr (s : State) (part : Nat) (v : Word) : State :=
  s.setPart part { s.part part with heatr := min (bits v 8 0) 256, heatA := 0 }

def execHeatrWrite (part : Nat) (v : BitVec 64) (s : State) : Host.Outcome State Fault Refusal := .next (s.setHeatr part v)

/-- The value a stream's register will hold at the next frame. -/
def Stream.latest (t : Stream) (j : Nat) : Word := ((t.pend[j]?).join).getD ((t.reg[j]?).getD 0)

def encW (a : Word) : Nat := bits a 57 46 + 1
def encH (a : Word) : Nat := bits a 45 34 + 1
/-- The load of a stream in the encoder's rate limit (08 R201). -/
def encLoad (a : Word) : Nat :=
  if bit a 63 then (if 1920 < encW a || 1080 < encH a then 2 else 1) * encW a * encH a * bits a 33 26 else 0

/-- What a stream counts: as it runs, or as it will from its next frame, whichever is more. -/
def Stream.load (t : Stream) : Nat := max (encLoad ((t.reg[0]?).getD 0)) (encLoad (t.latest 0))

/-- A write to ENCA that is ignored. A width, height or rate outside its range is taken as it stands: the spec gives the
ranges and not what such a value does (notes/assumptions/99.md). DESIGN CHOICE. -/
def Die.encRefuses (d : Die) (n : Nat) (v : Word) : Bool :=
  bit v 63 && (encW v % 2 = 1 || encH v % 2 = 1 ||
    decide (1990656000 < ((List.range 8).map (fun i => if i = n then encLoad v else ((d.streams[i]?).getD Stream.reset).load)).foldl
      (fun a b => a + b) 0))

/-- The bits of a register that a write sets. -/
def encMask (j : Nat) : Word := match j with
  | 0 => 0xE3FFFFFFFFFFFFFF
  | 1 => 0xFFFFFFFFFFFFFFFF
  | 2 => 0x00000000FFFFFFFF
  | 3 => 0x00FFFFFFFFFFFFE0
  | 4 => 0xFFFFFFFFFFFFFFFF
  | _ => 0xFFFFFFFFFFFF0000

/-- The writes that wait take effect: the counts of ENCF are cleared where a 1 was written. -/
def Stream.apply (t : Stream) : Stream :=
  { t with reg := Vector.ofFn (fun i : Fin 6 => match t.pend[i] with
      | none => t.reg[i]
      | some v => if i.val = 5 then t.reg[i] &&& ~~~v else v),
           pend := Vector.replicate 6 none, part := t.partNext }

/-- A stream that is not enabled has no frame under way: writes take effect at once. -/
def Stream.resting (t : Stream) : Bool := !bit t.reg[0] 63

/-- A write to register j of a stream by a partition's supervisor takes effect at its next frame (08 R201). A frozen output
goes on (notes/assumptions/99.md). DESIGN CHOICE. -/
def Stream.write (t : Stream) (part j : Nat) (v : Word) : Stream :=
  let v := (v &&& encMask j) ||| (if j = 5 then ((t.pend[5]).getD 0) else 0)
  let u := { t with pend := t.pend.set! j (some v), partNext := part, frozen := false }
  if t.resting then u.apply else u

def State.encWrite (s : State) (die reg : Nat) (v : Word) : State :=
  let n := reg / 8 % 8
  let j := reg % 8
  if 6 ≤ j || (j = 0 && (s.die die).encRefuses n v) then s else s.setStream die n ((s.stream die n).write s.curPart j v)

def execEncoderStreamWrite (die reg : Nat) (v : BitVec 64) (s : State) : Host.Outcome State Fault Refusal :=
  .next (s.encWrite die reg v)

/-! ### Snapshot triggers (12 R271, R272) -/

/-- A trigger of one partition: its registers are latched at the next pace tick, and BUF as it stands leads the image. Without a buffer, or while an image is
being written, it is ignored. -/
def State.snapTrigger (s : State) (part : Nat) : State :=
  let p := s.part part
  if bits p.snapctl 55 6 = 0 || p.image.isSome || p.snapT.isSome then s
  else s.setPart part { p with snapT := some (s.pace.toNat + 1), snapBuf := p.snapctl &&& 0x00FFFFFFFFFFFFC0 }

/-! ### System registers (15 Table 15-24, 24 R434, R435) -/

/-- Levels of a register: to read, and to write (3: none); none for an unassigned number. -/
def srLevels (r : Nat) : Option (Nat × Nat) :=
  if r = 0 then some (0, 0)
  else if r = 1 || r = 2 then some (0, 1)
  else if r = 3 then some (1, 1)
  else if r ≤ 10 then some (0, 3)
  else if r = 11 then some (0, 1)
  else if r = 12 then some (0, 0)
  else if r = 13 then some (0, 2)
  else if r = 14 then some (0, 0)
  else if r = 15 then some (0, 3)
  else if r = 16 then some (0, 1)
  else if r = 17 then some (1, 1)
  else if r = 18 || r = 19 then some (0, 3)
  else if r = 20 || r = 21 then some (1, 1)
  else if 64 ≤ r && r < 128 && r % 8 < 6 then some (1, 1)
  else none

/-- SNAPCTL as it reads. -/
def Part.snapWord (p : Part) : Word := (p.snapctl &&& 0x00FFFFFFFFFFFFDF) ||| (if p.image.isSome then 0x20 else 0)

/-- The value of a system register for context k. -/
def State.sysReg (s : State) (k r : Nat) : Word :=
  let x := s.ctx k
  let c := s.core (k / 4)
  let pn := s.partOf (k / 4)
  let p := s.part pn
  if r = 0 then s.status k
  else if r = 1 then x.cause
  else if r = 2 then x.epc
  else if r = 3 then x.tvec
  else if r = 4 then BitVec.ofNat 64 pn
  else if r = 5 then x.tenant.setWidth 64
  else if r = 6 then s.pace
  else if r = 7 then x.wid
  else if r = 8 then x.widw
  else if r = 9 then x.keyh
  else if r = 10 then c.waym.setWidth 64
  else if r = 11 then BitVec.ofNat 64 p.heatr
  else if r = 12 then x.deadl
  else if r = 13 then p.budg
  else if r = 14 then x.opstop
  else if r = 15 then (s.cell (k / 16)).esw.word
  else if r = 16 then BitVec.ofNat 64 p.promx
  else if r = 17 then p.snapWord
  else if r = 18 then c.krb0
  else if r = 19 then c.krb1
  else if r = 20 then s.frozenWord (k / 4)
  else if r = 21 then 0
  else
    let t := s.stream (dieOf (k / 4)) ((r - 64) / 8)
    if r % 8 = 5 then t.reg[5] else t.latest (r % 8)

def execSysrd (d : BitVec 5) (r : BitVec 11) (s : State) : Host.Outcome State Fault Refusal :=
  s.out (do
    let x := s.cx
    let n := r.toNat
    need (srLevels n).isSome (cz 0x02)
    need (((srLevels n).elim 0 Prod.fst) ≤ x.st.priv.toNat) (cz 0x03)
    need (!(n = 6 && x.isWork)) (cz 0x2C)
    need (!(n = 6 && x.st.pure)) (cz 0x50)
    .ok (s.wr 4 d (s.sysReg s.cur n)))

/-- STATUS after a write at a level (12 R260, R261). -/
def Status.write (t : Status) (v : Word) : Status :=
  let t := { t with frm := v.extractLsb' 40 2, flags := v.extractLsb' 32 5, lost := t.lost && !bit v 13 }
  if t.priv = 0 then t else { t with ppriv := v.extractLsb' 44 2, aie := bit v 43, paie := bit v 42 }

/-- The effect of a write to a system register by the current context. -/
def State.sysWrite (s : State) (r : Nat) (v : Word) : State :=
  let x := s.cx
  let pn := s.curPart
  let p := s.part pn
  if r = 0 then s.setCx { x with st := x.st.write v }
  else if r = 1 then s.setCx { x with cause := v }
  else if r = 2 then s.setCx { x with epc := v }
  else if r = 3 then s.setCx { x with tvec := v }
  else if r = 11 then s.setHeatr pn v
  else if r = 12 then s.setCx { x with deadl := v }
  else if r = 13 then s.setPart pn { p with budg := (v &&& 0xFFFFFFFF00000000) ||| BitVec.ofNat 64 (min (bits v 31 0) (bits v 63 32)) }
  else if r = 14 then s.setCx { x with opstop := v &&& 0x00000000FFFFFFFF }
  else if r = 16 then s.setPart pn { p with promx := min (bits v 6 0) 64 }
  else if r = 17 then s.setPart pn { p with snapctl := (v &&& 0x00FFFFFFFFFFFFD0) ||| (p.snapctl &&& 0xF) }
  else if r = 20 then s.frzWrite s.curCore v
  else if r = 21 then s.tlbi pn v
  else if 64 ≤ r then s.encWrite (dieOf s.curCore) (r - 64) v
  else s

def execSyswr (a : BitVec 5) (r : BitVec 11) (s : State) : Host.Outcome State Fault Refusal :=
  s.out (do
    let x := s.cx
    let n := r.toNat
    let lv := (srLevels n).elim 3 Prod.snd
    need (lv ≠ 3) (cz 0x02)
    need (lv ≤ x.st.priv.toNat) (cz (if lv = 2 then 0x04 else 0x03))
    .ok ((s.sysWrite n (x.s a)).skip 4))

/-! ### TRAP, BREAK, SRET, HALT, SNAP and WFI -/

def execTrap (_ : BitVec 6) (s : State) : Host.Outcome State Fault Refusal := s.out (.error (.trap (cz 0x09)))
def execBrk (s : State) : Host.Outcome State Fault Refusal := s.out (.error (.trap (cz 0x08)))

/-- The return from a handler. -/
def Ctx.sret (x : Ctx) : Ctx :=
  { x with pc := x.epc, st := { x.st with priv := x.st.ppriv, aie := x.st.paie, ppriv := 0, paie := false } }

def execSret (s : State) : Host.Outcome State Fault Refusal :=
  s.out (do
    let x := s.cx
    need (x.st.priv ≠ 0) (cz 0x03)
    need (x.gang.isNone && x.st.ppriv.toNat ≤ 1) (cz 0x02)
    need (!bit x.epc 0) (czAt 0x07 x.epc)
    .ok (s.setCx x.sret))

def execHalt (s : State) : Host.Outcome State Fault Refusal :=
  s.out (do
    let x := s.cx
    need (x.st.priv ≠ 0) (cz 0x03)
    need (x.gang.isNone) (cz 0x02)
    await (s.quiet s.cur) .halt
    .ok (s.setCx ((x.advance 4).freeze (x.advance 4).pc)))

def execSnap (s : State) : Host.Outcome State Fault Refusal :=
  s.out (do
    need (s.cx.st.priv ≠ 0) (cz 0x03)
    .ok ((s.snapTrigger s.curPart).skip 4))

/-- What WFI waits for has come. -/
def Ctx.wfiMet (x : Ctx) : Bool := x.interrupted || x.watch.any (fun e => e.fired) || x.st.chk

def execWfi (s : State) : Host.Outcome State Fault Refusal :=
  s.out (do
    await s.cx.wfiMet .wfi
    .ok (s.skip 4))

end Sys2Proof.Machine
end

