-- ==== Sys2Proof/Machine/Launch.lean ====
section
/-! DEFINITION. Launches: how a message reaches a core and becomes a task, and the superstep lists of a deterministic
partition (02 R41 to R46, R55 to R60, 11 R238, 12 R258, 13 R277). -/

namespace Sys2Proof.Machine

/-! ### Answers to management requests (13 R276, R277) -/

/-- A requester at or above this number is the supervisor of partition number - 4096. -/
def supHost : Nat := 4096

/-- A management request is answered: to a host by a reply, to a supervisor by a notice. -/
def State.answer (s : State) (host tag func status : Nat) (res : List Word) : State :=
  if host < supHost then { s with replies := s.replies ++ [{ host := host, tag := tag, status := status, data := wordBytes res }] }
  else s.notice (host - supHost)
    ([BitVec.ofNat 64 (func * 2 ^ 48 + status), BitVec.ofNat 8 tag ++ (0 : BitVec 56), 0xFFFF000000000000, 0] ++
      (List.range 4).map (fun i => res.getD i 0))

/-- The fields of a management request word (13 Table 13-6). -/
def mgmtFunc (w : Word) : Nat := bits w 63 48
def mgmtPart (w : Word) : Nat := bits w 43 38

/-- The status with which firmware refuses a request before its function is looked at. -/
def mgmtRefusal (host : Nat) (l : List Word) : Option Nat :=
  let w := l.getD 0 0
  let f := mgmtFunc w
  if bits w 47 44 ≠ 0 || 8 ≤ f || f = 0 then some 0x02
  else if supHost ≤ host && (f ≤ 3 || f = 6) then some 0x03
  else if supHost ≤ host && mgmtPart w ≠ host - supHost then some 0x25
  else none

/-- A management request reaches firmware, which performs requests in arrival order. -/
def State.mgmtArrive (s : State) (host tag : Nat) (l : List Word) : State :=
  { s with mgmt := s.mgmt ++ [{ host := host, tag := tag, words := l }] }

/-! ### Headers (02 R42, R43) -/

def hdrTenant (h : List Word) : Byte := BitVec.ofNat 8 (bits (h.getD 1 0) 63 56)
def hdrEntry (h : List Word) : Nat := bits (h.getD 1 0) 55 0
def hdrStage (h : List Word) : Nat := bits (h.getD 2 0) 63 48
def hdrWidths (h : List Word) : Word := BitVec.ofNat 64 (bits (h.getD 2 0) 47 12)
def hdrList (h : List Word) : Bool := bit (h.getD 2 0) 6
def hdrNret (h : List Word) : Nat := bits (h.getD 2 0) 5 3
def hdrHeat (h : List Word) : Bool := bit (h.getD 2 0) 2
def hdrDet (h : List Word) : Bool := bit (h.getD 2 0) 1
def hdrPure (h : List Word) : Bool := bit (h.getD 2 0) 0
/-- Start and length in sectors of retained range j. -/
def hdrRange (h : List Word) (j : Nat) : Nat × Nat := (bits (h.getD (4 + j) 0) 62 12 * 32, bits (h.getD (4 + j) 0) 11 0)

/-- The width codes are well-formed: none stands above a zero one, and they sum to at most 64. -/
def widthsOk (w : Word) : Bool :=
  (List.range 5).all (fun i => tidWidth w i ≠ 0 || tidWidth w (i + 1) = 0) && decide (tidPos w 6 ≤ 64)

/-- The header is refused with "launch header malformed" at a core (02 R43). -/
def headerBad (det listBusy : Bool) (bound : Word) (h : List Word) : Bool :=
  hdrEntry h % 2 = 1 || !widthsOk (hdrWidths h) || decide (4 < hdrNret h) ||
  decide (2048 < ((List.range (hdrNret h)).map (fun j => (hdrRange h j).2)).foldl (fun a b => a + b) 0) ||
  (hdrHeat h && !hdrPure h) || hdrDet h ≠ det || hdrList h ≠ det || (hdrList h && listBusy) || (hdrEntry h = 0 && bound = 0)

/-- A core's list has not reached its end, or another waits in its launch queue. -/
def Core.listBusy (c : Core) : Bool := c.slist.any (fun l => l.phase ≠ 3) || c.launchQ.any (fun h => hdrList h.hdr)

/-- The same of a core of a partition wherever it stands, the headers held for it included (12 R258). -/
def State.listBusy (s : State) (part core : Nat) : Bool :=
  (((s.part part).saved.bind (fun w => SMap.find w.cores core)).getD (s.core core)).listBusy ||
    (SMap.get (s.cell (core / 4)).holding [] part).any (fun m => match m with
      | .launch c h => c = core && hdrList h.hdr
      | _ => false)

/-! ### Messages (02 R41, R44, R45) -/

/-- A module that sent a launch message over the fabric gets its answer, as a host does (notes/assumptions/96.md, DESIGN CHOICE). -/
def State.answerModule (s : State) (m : Message) (status : Nat) : State :=
  let p := s.packet 0 0 0 1 (.bytes (leBytes 8 status))
  (s.sendOut 0 0 { p with dstMod := m.sender, tag := m.task, op := 0xC5 }).getD s

/-- A refusal returns to the sender. -/
def State.refuseAs (s : State) (m : Message) (c : CauseRec) : State :=
  match m.kind with
  | 0 => s.postTo m.part (m.sender / 4) m.sender m.task 1 c
  | 1 =>
    let core := m.sender / 4
    let ch := m.sender % 4
    let u := s.core core
    let h := u.chan ch
    let s := s.setCore core (u.setChan ch (({ h with inFlight := h.inFlight - 1 } : Channel).head (fun cmd => { cmd with done := 0, ends := 0 })))
    match h.cmds with
    | cmd :: _ => s.copyFault core ch cmd c
    | [] => s
  | 2 => { s with replies := s.replies ++ [{ host := m.sender, tag := m.task, status := c.code.toNat, data := [] }] }
  | 3 => s.firmware m.part m.hdr
  | 4 => s.postTo m.part (m.sender / 4) m.sender m.task 11 c
  | 6 => s.answerModule m c.code.toNat
  | _ => s.causeNotice m.part c 0 0 0 (hdrTenant m.hdr)
def State.refuse (s : State) (m : Message) (code : Nat) : State := s.refuseAs m (cz code)

/-- An acceptance reaches a copy channel, whose exchange bytes it acknowledges (06 R151), a host or another module. -/
def State.accept (s : State) (m : Message) : State :=
  match m.kind with
  | 1 =>
    let c := s.core (m.sender / 4)
    let h := c.chan (m.sender % 4)
    let c := match h.cmds with
      | cmd :: _ => if cmd.dst = m.mbox then c.exchDone cmd 64 else c
      | [] => c
    s.setCore (m.sender / 4) (c.setChan (m.sender % 4) { h with inFlight := h.inFlight - 1 })
  | 6 => s.answerModule m 0
  | 2 => { s with replies := s.replies ++ [{ host := m.sender, tag := m.task, status := 0, data := [] }] }
  | _ => s

/-- The die a message comes from. -/
def Message.die (m : Message) : Nat := match m.kind with
  | 0 => dieOf (m.sender / 4)
  | 1 => dieOf (m.sender / 4)
  | 4 => dieOf (m.sender / 4)
  | _ => 0

/-- A header accepted for a core. -/
def headerOf (m : Message) (bound param : Word) (pace : Word) : Header :=
  { hdr := m.hdr, mbox := m.mbox, start := m.start, bound := bound, late := m.start ≠ 0 && decide (m.start.toNat ≤ pace.toNat),
    param := param, reserved := [], slot := none, copied := false, sender := m }

/-- A header whose sender learns the outcome once its ranges are retained: it may still be refused then (11 R238). -/
def hdrLate (h : List Word) : Bool := hdrHeat h && !hdrList h && hdrNret h ≠ 0

/-- The sender of a header that a core has taken learns so. -/
def State.taken (s : State) (m : Message) : State := if hdrLate m.hdr then s else s.accept m

/-- A message at the core of a bound entry: refused, also where the core's cell is out of service (01 R17, R22), held for a
parked partition, queued, or kept at the sender. -/
def State.arrive (s : State) (m : Message) (part core : Nat) (bound : Word) : Option State :=
  let c := s.core core
  let u := s.cell (core / 4)
  if !s.mayArrive m.die (dieOf core) then none
  else if !s.validCell (core / 4) then some (s.refuseAs m { code := 0x2B, info := BitVec.ofNat 32 core, va := 0 })
  else if headerBad (s.part part).det (s.listBusy part core) bound m.hdr then some (s.refuse m 0x30)
  else
    let h := headerOf m bound 0 s.pace
    let s := s.stampTo m.die (dieOf core)
    let q := SMap.get u.holding [] part
    if u.part ≠ some part || !q.isEmpty then
      if 4096 ≤ q.length then none
      else some ((s.setCell (core / 4) { u with holding := SMap.set u.holding part (q ++ [HeldMsg.launch core h]) }).taken m)
    else if 16 ≤ c.launchQ.length then none
    else some ((s.setCore core { c with launchQ := c.launchQ ++ [h] }).taken m)

/-- The coordinate of what sends a message: its core, else the management core's die. -/
def Message.from' (m : Message) : Nat := match m.kind with
  | 0 => m.sender / 4
  | 1 => m.sender / 4
  | 4 => m.sender / 4
  | _ => 0

/-- A message for another module crosses the package ring to the port its route names, and waits for the answer under a tag;
none while the tag is in use or its sender's interface has no room for one more answer (06 R144). Without a route or a link that is up it comes back (02 R41, 06 R159). -/
def State.fabricLaunch (s : State) (m : Message) (mod part : Nat) : Option State :=
  match s.egress mod with
  | some (die, port) =>
    if !((s.die die).port port).up then some (s.refuse m 0x32)
    else
      let tag := s.fabSeq % 16384
      if (SMap.find s.fabWait tag).isSome || decide (1 + Config.replyRoom ≤ (s.fabWait.filter (fun e => e.2.from' = m.from')).length) then none
      else
        let pk := s.packet m.from' 0 1 0 (.launch m part)
        ({ s with fabWait := SMap.set s.fabWait tag m } : State).sendOut m.die (coreStop m.from')
          { pk with dstMod := mod, tag := tag, op := 0xC0, pa := bits m.mbox 51 0 }
  | none => some (s.refuse m 0x32)

/-- A message is resolved (02 R41); none while it is held at its sender. One of another module finds only a bound entry. -/
def State.deliver (s : State) (m : Message) : Option State :=
  if m.mbox = mgmtMailbox && m.kind = 0 then
    some (s.mgmtArrive (supHost + m.part) (s.ctx m.sender).tenant.toNat m.hdr)
  else
    let p := s.part m.part
    match p.bound m.mbox with
    | some (core, e) => s.arrive m m.part core e
    | none =>
      match (if m.kind = 6 then none else p.forward m.mbox) with
      | none => some (s.refuse m 0x31)
      | some (mod, q) =>
        if mod = s.modNum then
          match (s.part q).bound m.mbox with
          | some (core, e) => s.arrive m q core e
          | none => some (s.refuse m 0x31)
        else s.fabricLaunch m mod q

/-- The first message of hardware or a host that can be delivered, and the others. -/
def State.deliverAny (s : State) (seen : List Message) : List Message → State
  | [] => s
  | m :: t =>
    match ({ s with hwMsgs := seen ++ t }).deliver m with
    | some u => u
    | none => s.deliverAny (seen ++ [m]) t

/-- The oldest message of a core's network interface (src below 2^18), or one of hardware's and the hosts', arrives. -/
def execLaunchMessageArrival (src : Nat) (s : State) : Host.Outcome State Fault Refusal :=
  if src < 2 ^ 18 then
    let c := s.core src
    match c.unsent with
    | [] => .next s
    | m :: t => .next (((s.setCore src { c with unsent := t }).deliver m).getD s)
  else .next (s.deliverAny [] s.hwMsgs)

/-! ### Launch (02 R45, R46) -/

/-- The registers of a task at its start (02 R46, R56); a launched handler leaves CAUSE and EPC as they are, a routine keeps
nothing of an earlier one. -/
def Ctx.start (x : Ctx) (t : Task) (pc param keyh : Word) (tvec : Word) (det late : Bool) : Ctx :=
  let r := Ctx.reset
  let h := t.hdr
  { r with
      cs := .ready, pc := pc, cause := if t.kind = .handler then x.cause else 0, epc := if t.kind = .handler then x.epc else 0, tvec := tvec,
      sreg := ((((r.sreg.set 3 (h.getD 0 0)).set 4 t.mbox).set 5 (h.getD 3 0)).set 6 param),
      st := { r.st with heat := hdrHeat h, det := det, pure := hdrPure h, late := late, chk := t.check.isSome },
      wid := h.getD 0 0, widw := hdrWidths h, tenant := hdrTenant h, deadl := if t.check.isSome then 0 else h.getD 3 0, keyh := keyh,
      task := some t }

/-- A task starts on context k. -/
def State.startTask (s : State) (k : Nat) (t : Task) (pc param : Word) (late : Bool) : State :=
  let p := s.part (s.partOf (k / 4))
  let t := { t with num := (s.free + 1) * 256 + (hdrTenant t.hdr).toNat }
  ((s.setCtx k ((s.ctx k).start t pc param (Config.freeWord s.free) (p.desc[1] &&& 0x00FFFFFFFFFFFFFF) (hdrDet t.hdr) late)).bump 1).freshFetch k

/-- The core's partition is switched in and no switch is in progress. -/
def State.runs (s : State) (core : Nat) : Bool :=
  match (s.cell (core / 4)).part with
  | none => false
  | some p => match (s.part p).share with
    | none => (s.part p).live
    | some ss => (s.part p).live && (s.shareSet ss).switching.isNone

/-- The entry a header names: its own, or the one that MBOX bound. -/
def Header.entry (h : Header) : Word := if hdrEntry h.hdr = 0 then h.bound else BitVec.ofNat 64 (hdrEntry h.hdr)

def execLaunch (core : Nat) (s : State) : Host.Outcome State Fault Refusal :=
  let c := s.core core
  match c.launchQ with
  | [] => .next s
  | h :: t =>
    if !s.runs core || (s.die (dieOf core)).overBudget || decide (s.pace.toNat < h.start.toNat) then .next s
    else if hdrList h.hdr then
      if c.slist.any (fun l => !(l.phase = 3 && l.running = 0)) then .next s
      else
        let l : SuperList := { hdr := h.hdr, mbox := h.mbox, late := h.late, base := h.entry, idx := 0, running := 0, joined := false, exch := 0, phase := 0 }
        .next (s.setCore core { c with launchQ := t, slist := some l })
    else if hdrHeat h.hdr && !h.copied then .next s
    else match s.idleCtx core with
      | none => .next s
      | some i =>
        let task : Task := { kind := .handler, hdr := h.hdr, mbox := h.mbox, num := 0, reserved := h.reserved, slot := h.slot, check := none, follower := false }
        .next ((s.setCore core { c with launchQ := t }).startTask (4 * core + i) task h.entry h.param h.late)

/-! ### Retention (11 R238) -/

/-- The sectors of a retained range from address a on, with their tags; none when a read faults. -/
def State.retain (s : State) (core part a : Nat) : Nat → Option (List (Nat × List Byte × Nat × Word))
  | 0 => some []
  | n + 1 =>
    let one : Option (List Byte × Nat × Word) :=
      if a < 0x10000 then
        match s.unitRead core a 32 with
        | .ok b => some (b, 0, 0)
        | .error _ => none
      else match s.partPlace part false (BitVec.ofNat 64 a) with
        | .error _ => none
        | .ok (pa, key, _) =>
          if s.memFailing pa 32 then none
          else match s.lineTag key pa with
            | .error _ => none
            | .ok (t, sb) => some (s.physBytes key pa 32, t, sb)
    match one with
    | none => none
    | some (b, t, sb) => (s.retain core part (a + 32) n).map (fun l => (a, b, t, sb) :: l)

/-- The retained ranges of a header; a range that runs out of scratch into 0x1_0000 is invalid. -/
def State.retainAll (s : State) (core part : Nat) (h : List Word) : Nat → Option (List (Nat × List Byte × Nat × Word))
  | 0 => some []
  | n + 1 =>
    match s.retainAll core part h n with
    | none => none
    | some l =>
      let r := hdrRange h n
      if r.1 < 0x10000 && 0x10000 < r.1 + 32 * r.2 then none
      else (s.retain core part r.1 r.2).map (fun m => l ++ m)

/-- A free slot of the retention area. -/
def Part.freeSlot (p : Part) : Option Nat := (List.range (bits p.desc[4] 11 0 + 1)).find? (fun i => (SMap.find p.slots i).isNone)

/-- A page of slot i cannot be written. -/
def State.slotFault (s : State) (part : Nat) (va : Word) : Option CauseRec :=
  (List.range 6).findSome? (fun i => match s.partPlace part true (va + BitVec.ofNat 64 (0x10000 * i)) with
    | .ok _ => none
    | .error c => some c)

/-- The hardware-owned bytes of a slot: header copy, core coordinates, digests with their verdict state, and a sideband and a tag for
each retained line (11 Table 11-1; notes/assumptions/97.md). DESIGN CHOICE. -/
def RetSlot.owned (r : RetSlot) : List Byte :=
  let digest := fun (d : Option (Word × Word)) => match d with
    | some x => wordBytes [1, x.1, x.2]
    | none => wordBytes [0, 0, 0]
  let core := fun (c : Option Nat) => wordBytes [c.elim (-1) (fun c => BitVec.ofNat 64 c)]
  wordBytes r.hdr ++ core (some r.orig) ++ core r.checker ++ core r.third ++ digest r.digest ++ digest (r.digest2.bind id) ++ digest (r.digest3.bind id) ++
    r.kept.flatMap (fun l => leBytes 8 l.2.2.2.toNat ++ leBytes 1 l.2.2.1)

/-- Retained bytes and the hardware-owned bytes stand in a slot, or the write's cause. -/
def State.slotWrite (s : State) (src part : Nat) (va : Word) (r : RetSlot) : State × Option CauseRec :=
  let bytes := r.kept.flatMap (fun l => l.2.1)
  match s.slotFault part va with
  | some c => (s, some c)
  | none =>
    if s.partFailing part va bytes.length || s.partFailing part (va + 0x58000) r.owned.length then (s, some (czAt 0x27 va))
    else match s.partStore src part va bytes with
      | (t, some c) => (t, some c)
      | (t, none) => t.partStore src part (va + 0x58000) r.owned

/-- The hardware-owned bytes of slot i stand in memory as its record has them. -/
def State.slotSync (s : State) (src part i : Nat) : State :=
  match SMap.find (s.part part).slots i with
  | none => s
  | some r => (s.partStore src part ((s.part part).slotVa i + 0x58000) r.owned).1

/-- Every earlier store into the scratch of a core has been performed (11 R238). -/
def State.storesDone (s : State) (core : Nat) : Bool :=
  (s.core core).vq.all (fun w => !w.isMem) && (List.range 4).all (fun i => (s.ctx (4 * core + i)).relq.isEmpty) &&
    (s.die (dieOf core)).landing.all (fun l => match l.place with
      | .array c _ => c ≠ core
      | _ => true)

/-- What the heat unit's reads of the retained ranges leave behind. -/
def State.retainTouch (s : State) (core part : Nat) (h : List Word) : State :=
  ((List.range (hdrNret h)).map (fun j => hdrRange h j)).foldl (fun t r =>
    if r.1 < 0x10000 then t.unitTouch core r.1 (32 * r.2) else t.partTouch part (BitVec.ofNat 64 r.1) (32 * r.2)) s

/-- The heat unit copies the head header's retained ranges into a free slot, scratch after every earlier store into it; without a
slot the group runs unretained. -/
def execRetentionCopy (core : Nat) (s : State) : Host.Outcome State Fault Refusal :=
  let c := s.core core
  match c.launchQ with
  | [] => .next s
  | h :: t =>
    if !s.runs core || decide (s.pace.toNat < h.start.toNat) || !hdrHeat h.hdr || hdrList h.hdr || h.copied || (s.idleCtx core).isNone ||
      ((List.range (hdrNret h.hdr)).any (fun j => decide ((hdrRange h.hdr j).1 < 0x10000)) && !s.storesDone core) then .next s
    else
      let part := s.partOf core
      match s.retainAll core part h.hdr (hdrNret h.hdr) with
      | none => .next ((s.setCore core { c with launchQ := t }).refuse h.sender 0x52)
      | some kept =>
        let s0 := s.retainTouch core part h.hdr
        let s0 := if hdrLate h.hdr then s0.accept h.sender else s0
        let plain := s0.setCore core { s0.core core with launchQ := { h with copied := true } :: t }
        match (s.part part).freeSlot with
        | none => .next (plain.heatCount part 0x28)
        | some i =>
          let va := (s.part part).slotVa i
          let r : RetSlot := { kept := kept, hdr := h.hdr, mbox := h.mbox, bound := h.bound, param := h.param, orig := core, checker := none, third := none,
                               digest := none, digest2 := none, digest3 := none, shadow := [], written := [] }
          if (s.partHold (dieOf core) part va (32 * kept.length)).isSome || (s.partHold (dieOf core) part (va + 0x58000) r.owned.length).isSome then .next s
          else
          match s0.slotWrite (dieOf core) part va r with
          | (w, some e) =>
            let w := w.setCore core { w.core core with launchQ := { h with copied := true } :: t }
            .next ((w.heatCount part 0x28).causeNotice part e 12 core 0 0)
          | (w, none) =>
            let p := w.part part
            .next ((w.setPart part { p with slots := SMap.set p.slots i r }).setCore core
              { w.core core with launchQ := { h with copied := true, slot := some i } :: t })

/-! ### Superstep lists (02 R55 to R58) -/

/-- A task of the current list. -/
def SuperList.task (l : SuperList) (k : TaskKind) : Task :=
  { kind := k, hdr := l.hdr, mbox := l.mbox, num := 0, reserved := [], slot := none, check := none, follower := false }

/-- A routine of the list starts on context i. -/
def State.startRoutine (s : State) (core i : Nat) (l : SuperList) (k : TaskKind) (entry : Word) (idx : Nat) : State :=
  s.startTask (4 * core + i) (l.task k) entry (BitVec.ofNat 64 idx) l.late

def State.setList (s : State) (core : Nat) (l : SuperList) : State := s.setCore core { s.core core with slist := some l }

/-- The list ends at an entry that cannot be used, and the supervisor is told. -/
def State.listFault (s : State) (core : Nat) (l : SuperList) (c : CauseRec) (va : Word) : State :=
  (s.setList core { l with phase := 3 }).causeNotice (s.partOf core) { c with va := va } 0 core 0 (hdrTenant l.hdr)

/-- The entry the core has reached. -/
def State.listEntry (s : State) (core : Nat) (l : SuperList) : Except (CauseRec × Word) (Nat × Word) :=
  let va := l.base + BitVec.ofNat 64 (8 * l.idx)
  match s.partRead (s.partOf core) va 8 with
  | .error c => .error (c, va)
  | .ok b =>
    let w : Word := BitVec.ofNat 64 (leNat b)
    let a : Word := BitVec.ofNat 64 (bits w 55 0)
    if bits w 61 56 ≠ 0 || (bits w 63 62 < 2 && a = 0) then .error (cz 0x02, va) else .ok (bits w 63 62, a)

/-- A work routine is started, a group or the work phase ends, or the list does. -/
def execSuperstepRoutineStart (core : Nat) (s : State) : Host.Outcome State Fault Refusal :=
  let c := s.core core
  match c.slist with
  | none => .next s
  | some l =>
    if !s.runs core then .next s
    else if l.phase = 4 then .next (if l.running = 0 then s.setList core { l with phase := 0 } else s)
    else if l.phase ≠ 0 then .next s
    else match s.listEntry core l with
      | .error (e, va) => .next (s.listFault core l e va)
      | .ok (kind, a) =>
        if kind = 3 then .next (s.setList core { l with phase := 3 })
        else if kind = 2 then
          if l.running = 0 then
            .next (s.setCore core { c with joined := c.joined + 1, slist := some { l with idx := l.idx + 1, exch := a, phase := 1, joined := true } })
          else .next s
        else if kind = 1 && l.running ≠ 0 then .next s
        else match s.idleCtx core with
          | none => .next s
          | some i => .next ((s.setList core { l with idx := l.idx + 1, running := l.running + 1 }).startRoutine core i l .work a l.idx)

/-- The cores of a partition. -/
def Part.cores (p : Part) : List Nat := p.cells.flatMap (fun c => [4 * c, 4 * c + 1, 4 * c + 2, 4 * c + 3])

/-- The edge programs that a core issued have ended: DONE of each has reached its G (10 R235). -/
def State.edgesDone (s : State) (part core : Nat) : Bool :=
  (s.core core).edges.all (fun e => match s.counterPa core part e.user false e.done with
    | .ok p => match s.readPlace (core * 4) p 8 e.done with
      | .ok b => decide (e.g ≤ leNat b)
      | .error _ => false
    | .error _ => false)

/-- Every core has joined the next round; in a deterministic partition the bytes of its exchange are acknowledged and its
edge programs have ended (02 R58, 06 R151, 10 R235). -/
def State.syncMet (s : State) (part : Nat) : Bool :=
  let p := s.part part
  p.live && !p.cells.isEmpty && p.cores.all (fun c => decide (p.rounds < (s.core c).joined) && s.runs c && (!p.det || ((s.core c).exchBytes = 0 && s.edgesDone part c)))

/-- A core of a deterministic partition passes the release: to its exchange routine, or at once to its next group. -/
def State.coreRelease (s : State) (core : Nat) : State :=
  let s := s.setCore core { s.core core with edges := [] }
  match (s.core core).slist with
  | none => s
  | some l => s.setList core { l with joined := false, phase := if l.exch = 0 then 0 else 2 }

/-- A die of a split-mode partition at the release: 800 MHz (its setting stays in mhz until the exchange ends), and, with
an exchange routine due, exchange cycle 0 in 16 clocks and empty scheduled slots. -/
def State.dieRelease (s : State) (die : Nat) : State :=
  let d := s.die die
  if s.cores.any (fun c => dieOf c.1 = die && c.2.slist.any (fun l => l.phase = 2)) then
    s.setDie die { d with reduced := d.mhz ≠ 800, ramp := none, exE := some (s.clock + 16), exStart := some (s.clock + 16), flits := [] }
  else s

/-- The exchange routine starts on context 0 at exchange cycle 0, also under a pre-emption that is due (06 R152). -/
def execExchangeRoutineStart (core : Nat) (s : State) : Host.Outcome State Fault Refusal :=
  match (s.core core).slist, (s.die (dieOf core)).exStart with
  | some l, some t =>
    if l.phase ≠ 2 || s.clock < t || (s.cell (core / 4)).part.isNone then .next s
    else .next ((s.setList core { l with phase := 4, running := 1 }).startRoutine core 0 l .exchange l.exch (l.idx - 1))
  | _, _ => .next s

end Sys2Proof.Machine
end

