-- ==== Sys2Proof/Machine/Host.lean ====
section
/-! DEFINITION. The host and the management core: host requests, management functions and format regions
(13 R273 to R287, 04 R107, R108, 03 R77). -/

namespace Sys2Proof.Machine

/-! ### Replies, rights and violations (13 R273, R274) -/

def State.reply (s : State) (host tag status : Nat) (data : List Byte) : State :=
  { s with replies := s.replies ++ [{ host := host, tag := tag, status := status, data := data }] }

/-- A binding of the host agent names the partition and holds the right that f reads. -/
def State.right (s : State) (host part : Nat) (f : Binding → Bool) : Bool :=
  s.bindings.any (fun b => b.host = host && b.part = part && f b)

/-- A violation: the host agent is frozen and the partition's supervisor told. -/
def State.violation (s : State) (host tag part : Nat) : State :=
  (({ s with frozenHosts := host :: s.frozenHosts } : State).causeNotice part (cz 0x25) 14 0 0 0).reply host tag 0x25 []

/-- What a host request does: from a frozen agent nothing, for firmware holds it; a violation without the right, else `f`. A module
whose bring-up is held with its link up answers with a status that the spec does not name; before there is a link no request
arrives (13 R273, R284). -/
def State.hostDo (s : State) (host tag part : Nat) (right : Binding → Bool) (f : State → State) : State :=
  if s.frozenHosts.contains host || s.boot < 4 then s
  else if s.boot ≠ 8 then (s.bump 1).reply host tag (Config.freeNat s.free) []
  else if s.right host part right then f s
  else s.violation host tag part

/-! ### Launch, read and write -/

/-- The cause of a mailbox address that a host may not name (03 R73, R465). -/
def hostMbox (m : Word) : Option Nat :=
  if !canonical m then some 0x2D else if spaceOf m = .scratch then some 0x21 else none

/-- A launch: as a copy to a mailbox, and so 64 bytes. -/
def execHostLaunch (host tag part : Nat) (mbox : BitVec 64) (hdr : List (BitVec 64)) (s : State) : Host.Outcome State Fault Refusal :=
  .next (s.hostDo host tag part (fun b => b.launch) (fun s =>
    match hostMbox mbox with
    | some c => s.reply host tag c []
    | none =>
      if hdr.length ≠ 8 then s.reply host tag 0x30 []
      else { s with hwMsgs := s.hwMsgs ++ [{ mbox := mbox, start := 0, hdr := hdr, part := part, kind := 2, sender := host, task := tag }] }))

/-- The answer to an access that faults: "partition mismatch" is a violation of the host agent, any other cause its status
(12 R266). -/
def State.hostFault (s : State) (host tag part : Nat) (c : CauseRec) : State :=
  if c.code = 0x25 then s.violation host tag part else s.reply host tag c.code.toNat []

/-- The first cause that a write to the bytes of [first, last) from va on meets; a word written in part must not be
failing (03 R80). -/
def State.writeCause (s : State) (part first last : Nat) (va : Word) : Nat → Option CauseRec
  | 0 => none
  | n + 1 =>
    match s.partPlace part true va with
    | .error c => some c
    | .ok (pa, _) =>
      let w := va.toNat / 8 * 8
      if s.memFailing (pa / 8 * 8) 8 && !(decide (first ≤ w) && decide (w + 8 ≤ last)) then some (czAt 0x27 va)
      else s.writeCause part first last (va + 1) n

/-- A read or write of a host is performed; none while operations that precede it are on their way to its home (04 R87). -/
def State.hostAccess (s : State) (q : HostReq) : Option State :=
  match q.data with
  | none => some (s.hostDo q.host q.tag q.part (fun b => b.read) (fun s =>
      if q.size < 8 || 256 < q.size then s.reply q.host q.tag 0x02 []
      else match s.partRead q.part q.va q.size with
        | .ok b => (s.partTouch q.part q.va q.size).reply q.host q.tag 0 b
        | .error c => s.hostFault q.host q.tag q.part c))
  | some b =>
    if s.boot = 8 && !s.frozenHosts.contains q.host && s.right q.host q.part (fun r => r.write) && (s.partHold 0 q.part q.va b.length).isSome then none
    else some (s.hostDo q.host q.tag q.part (fun r => r.write) (fun s =>
      if b.length < 8 || 256 < b.length then s.reply q.host q.tag 0x02 []
      else match s.writeCause q.part q.va.toNat (q.va.toNat + b.length) q.va b.length with
        | some c => s.hostFault q.host q.tag q.part c
        | none => (s.partStore 0 q.part q.va b).1.reply q.host q.tag 0 []))

/-- A request of a host is performed, behind those of it that wait. -/
def State.hostRequest (s : State) (q : HostReq) : State :=
  let wait : State := { s with hostQ := s.hostQ ++ [q] }
  if s.hostQ.any (fun r => r.host = q.host) then wait else (s.hostAccess q).getD wait

/-- The first of the waiting requests that can be performed now. -/
def State.hostNext (s : State) (seen : List HostReq) : List HostReq → State
  | [] => s
  | q :: t => match (if seen.any (fun r => r.host = q.host) then none else ({ s with hostQ := seen ++ t } : State).hostAccess q) with
    | some u => u
    | none => s.hostNext (seen ++ [q]) t
def State.hostStep (s : State) : Host.Outcome State Fault Refusal := .next (s.hostNext [] s.hostQ)

def execHostRead (host tag part : Nat) (va : BitVec 64) (size : Nat) (s : State) : Host.Outcome State Fault Refusal :=
  .next (s.hostRequest { host := host, tag := tag, part := part, va := va, size := size, data := none })

def execHostWrite (host tag part : Nat) (va : BitVec 64) (data : List (BitVec 8)) (s : State) : Host.Outcome State Fault Refusal :=
  .next (s.hostRequest { host := host, tag := tag, part := part, va := va, size := data.length, data := some data })

/-! ### Bias (04 R107, R108, 13 R275) -/

/-- The walk to a leaf, with the address of its entry. -/
def State.leafFrom (s : State) (va : Nat) : List (Nat × Nat × Bool) → Nat → Except Nat (Nat × Word × Nat)
  | [], _ => .error 0x23
  | (lo, n, leafOk) :: rest, base =>
    let a := base + 8 * (va / 2 ^ lo % 2 ^ n)
    if !s.backed a then .error 0x26
    else if s.memFailing a 8 then .error 0x27
    else
      let e : Word := BitVec.ofNat 64 (leNat (s.physBytes 0 a 8))
      if !pteV e then .error 0x22
      else if 2 ≤ pteCa e then .error 0x23
      else if pteLeaf e then (if leafOk && pteAddr e % 2 ^ lo = 0 then .ok (a, e, lo) else .error 0x23)
      else s.leafFrom va rest (pteAddr e)

/-- Every line of a page leaves the L1 ways of the module. -/
def State.killPage (s : State) (pa lg : Nat) : State :=
  (s.cores.flatMap (fun kc => (kc.2.l1.filter (fun l => decide (pa ≤ l.line * 128) && decide (l.line * 128 < pa + 2 ^ lg))).map (fun l => (kc.1, l.line)))).foldl
    (fun t x => t.evict x.1 x.2) s

/-- The requests that wait for lines of a page are served. -/
def State.servePage (s : State) (pa lg : Nat) : State :=
  (s.clus.flatMap (fun kc => (kc.2.miss.filter (fun l => decide (pa ≤ l.1 * 128) && decide (l.1 * 128 < pa + 2 ^ lg))).map Prod.fst)).foldl
    (fun t l => t.mergeFill (128 * l)) s

/-- The near-memory lines of a page are invalidated. -/
def State.killNear (s : State) (pa lg : Nat) : State :=
  { s with clus := s.clus.map (fun kc => (kc.1,
      { kc.2 with near := if isGddr pa then kc.2.near.filter (fun l => !(decide (pa ≤ l.1 * 128) && decide (l.1 * 128 < pa + 2 ^ lg))) else kc.2.near })) }

/-- A place in a page whose bias has changed: an access held for it is performed under the new one (04 R108). -/
def Place.rebias (pa lg : Nat) (hb : Bool) (p : Place) : Place :=
  match p with
  | .phys a k c u h => .phys a k c u (if pa ≤ a && a < pa + 2 ^ lg then hb else h)
  | p => p
def Payload.rebias (f : Place → Place) (p : Payload) : Payload :=
  match p with
  | .copyWrite q data tags core ch off part => .copyWrite (f q) data tags core ch off part
  | .post q n core ch => .post (f q) n core ch
  | p => p
def Die.rebias (f : Place → Place) (d : Die) : Die :=
  { d with loopPkts := d.loopPkts.map (fun l => { l with pkt := { l.pkt with payload := l.pkt.payload.rebias f } }),
           landing := d.landing.map (fun l => { l with place := f l.place }),
           counts := d.counts.map (fun c => { c with place := f c.place }),
           gw := d.gw.map (fun g => { g with q := g.q.map (fun e => { e with pkt := { e.pkt with payload := e.pkt.payload.rebias f } }) }) }
def State.rebias (s : State) (f : Place → Place) : State :=
  { s with dies := s.dies.map (fun d => (d.1, d.2.rebias f)),
           ctxs := s.ctxs.map (fun x => (x.1, { x.2 with relq := x.2.relq.map (fun r => { r with place := f r.place }) })) }

/-- The flip of the page at va: the status, and the state after it. -/
def State.flip (s : State) (part : Nat) (va : Word) (hb : Bool) : Nat × State :=
  match spaceOf va with
  | .translated =>
    match s.leafFrom va.toNat walkLevels (bits (s.part part).desc[0] 51 12 * 4096) with
    | .error c => (c, s)
    | .ok (a, e, lg) =>
      if pteOwner e ≠ part then (0x25, s)
      else if pteHb e = hb then (0, s)
      else
        let pa := pteAddr e
        let s := if hb then ((s.servePage pa lg).killPage pa lg).killNear pa lg else s
        let e' : Word := if hb then e ||| 0x800 else e &&& ~~~0x800
        let s := ((s.putBytes 0 a (leBytes 8 e'.toNat)).firePhys a 8).rebias (Place.rebias pa lg hb)
        let base := va.toNat / 2 ^ lg * 2 ^ lg
        let drop := fun (l : List TlbEntry) => l.filter (fun t => !(t.part = part && t.base = base))
        (0, { s with cores := s.cores.map (fun c => (c.1, { c.2 with tlb := drop c.2.tlb })),
                     clus := s.clus.map (fun c => (c.1, { c.2 with ctlb := drop c.2.ctlb })) })
  | .scratch => (0x21, s)
  | .rank => (0x28, s)
  | .completion => (0x29, s)
  | _ => (0x2D, s)

def execHostBiasFlip (host tag part : Nat) (va : BitVec 64) (hb : Nat) (s : State) : Host.Outcome State Fault Refusal :=
  .next (s.hostDo host tag part (fun b => b.flip) (fun s =>
    let r := s.flip part (va &&& 0x00FFFFFFFFFF0000) (hb % 2 = 1)
    if r.1 = 0x25 then s.violation host tag part else r.2.reply host tag r.1 []))

/-! ### Management functions (13 R276) -/

/-- Bring-up is held at one of steps 4 to 7. -/
def State.failed (s : State) : Bool := s.bootHeld && decide (4 ≤ s.boot) && decide (s.boot ≤ 7)

/-- The failure is reported in the reply to a request, with a status that the spec does not name (13 R284). -/
def State.report (s : State) (host tag : Nat) : State := (s.bump 1).reply host tag (Config.freeNat s.free) []

/-- The requester may make the request: a supervisor for its own partition, a host with the right. A module held at steps 4
to 7 reports its failure instead. -/
def State.mgmtDo (s : State) (host tag func part : Nat) (sup : Bool) (right : Binding → Bool) (f : State → State) : State :=
  if supHost ≤ host then
    if !sup then s.answer host tag func 0x03 []
    else if host - supHost ≠ part then s.answer host tag func 0x25 []
    else f s
  else if s.failed then s.report host tag
  else if func = 4 then (if s.boot ≠ 8 || s.frozenHosts.contains host then s else f s)
  else s.hostDo host tag part right f

def State.mgmtFlip (s : State) (host tag part : Nat) (d : Word) : State :=
  s.mgmtDo host tag 5 part true (fun b => b.flip) (fun s =>
    if bits d 63 56 ≠ 0 || bits d 15 1 ≠ 0 then s.answer host tag 5 0x02 []
    else
      let r := s.flip part (d &&& 0x00FFFFFFFFFF0000) (bit d 0)
      if r.1 = 0x25 && host < supHost then s.violation host tag part else r.2.answer host tag 5 r.1 [])

/-- A result in replies of 256 bytes, each with its byte offset in the first word, the last marked by bit 63. -/
def State.series (s : State) (host tag : Nat) (off : Nat) : Nat → List Byte → State
  | 0, _ => s
  | n + 1, b =>
    let rest := b.drop 248
    let w : Word := BitVec.ofNat 64 off ||| (if rest.isEmpty then 0x8000000000000000 else 0)
    let s := s.reply host tag 0 (leBytes 8 w.toNat ++ b.take 248)
    if rest.isEmpty then s else s.series host tag (off + 248) n rest

/-- Cells out of service by disqualification (01 R22). -/
def State.disqualified (s : State) : List Nat := (s.cells.filter (fun c => c.2.oos)).map Prod.fst

/-- What attestation measures (13 R283), each under SHA-256 (notes/assumptions/82.md). DEDUCED. -/
def State.measurements (s : State) (part : Nat) : List Byte :=
  [s.image, Config.mapBytes s.disabled, Config.recordBytes s.disqualified, wordBytes (s.part part).desc.toList].flatMap (fun b => (Config.sha256 b).toList)

/-- Attestation (13 R283): the counter is advanced before the signature leaves, under the leaf that it named before. -/
def State.attest (s : State) (host tag part : Nat) (nonce : List Word) : State :=
  s.mgmtDo host tag 1 part false (fun _ => true) (fun s =>
    if 2 ^ 20 ≤ s.hss then s.answer host tag 1 0x59 []
    else
      let m := s.measurements part
      let b := m ++ (Config.signature s.fuses.identity s.hss (m ++ wordBytes nonce)).toList
      ({ s with hss := s.hss + 1 } : State).series host tag 0 (b.length / 248 + 1) b)

/-- The capability list (13 Table 13-8). -/
def capabilityWord (hss off : Nat) : Word :=
  match off with
  | 0x100 => 0x0001010201400000
  | 0x108 => 0x0000100000400008
  | 0x140 => 0x0002010201800000
  | 0x148 => 0x0000000000000308
  | 0x180 => 0x0003010201C00000
  | 0x188 => 0x00000000000A0FFF
  | 0x1C0 => 0x0004010202000000
  | 0x1C8 => 0x0000000010000040
  | 0x200 => 0x0005010202400000
  | 0x208 => 0x0000000010000810
  | 0x240 => 0x0006010200000000
  | 0x248 => BitVec.ofNat 64 (2 ^ 20 * 2 ^ 32 + hss)
  | _ => 0

/-- Configuration words (13 R287): any host may read them, and a supervisor by a request of its own partition. -/
def State.configRead (s : State) (host tag part : Nat) (arg : BitVec 38) : State :=
  s.mgmtDo host tag 4 part true (fun _ => true) (fun s =>
    let off := bits arg 15 0
    if bits arg 37 18 ≠ 0 || off % 8 ≠ 0 then s.answer host tag 4 0x02 []
    else s.answer host tag 4 0 ((List.range (bits arg 17 16 + 1)).map (fun i => capabilityWord s.hss (off + 8 * i))))

/-- Mailbox forward (02 R41, 13 R276): the launch right is asked for both partitions, to set an entry and to remove one. -/
def State.forwardSet (s : State) (host tag part : Nat) (arg : BitVec 38) (mbox target : Word) : State :=
  s.mgmtDo host tag 6 part false (fun b => b.launch) (fun s =>
    let p := s.part part
    let mod := bits target 63 52
    let q := bits target 51 46
    let rest := p.fwd.filter (fun e => e.1 ≠ mbox)
    if bits arg 37 1 ≠ 0 || bits target 45 0 ≠ 0 then s.answer host tag 6 0x02 []
    else if mod = s.modNum && !s.right host q (fun b => b.launch) then s.violation host tag q
    else if !bit arg 0 then (s.setPart part { p with fwd := rest }).answer host tag 6 0 []
    else if p.dir.any (fun e => e.1 = mbox) || mbox.toNat % 64 ≠ 0 || spaceOf mbox ≠ .translated || 4096 ≤ p.dir.length + rest.length then
      s.answer host tag 6 0x02 []
    else (s.setPart part { p with fwd := rest ++ [(mbox, mod, q)] }).answer host tag 6 0 [])

/-! ### Bring-up (13 R282, R284, R285) -/

/-- Firmware replaces a key: every line that carries its KEYID is written back and invalidated first (13 R280). -/
def State.replaceKey (s : State) (keyid : Nat) : State :=
  { s with clus := s.clus.map (fun c => (c.1, { c.2 with near := c.2.near.filter (fun l => l.2.keyid ≠ keyid) })),
           keys := SMap.set s.keys keyid (SMap.get s.keys 0 keyid + 1) }

/-- The boot ROM accepts an image (13 R282): the root key that its header declares is the fused one, its signature verifies, and
its version is at least the fused minimum. -/
def Fuses.accepts (f : Fuses) (b : List Byte) : Bool :=
  Config.sha256 (Config.imageKey b) = f.rootHash && Config.imageSigned b && decide (f.minVersion.toNat ≤ (Config.imageVersion b).toNat)

/-- Steps 4 to 8: the image is verified, links and devices are trained, fresh codes are written, the 64 keys
are drawn, and firmware accepts requests. A failure holds the module at its step. -/
def State.bringUp (s : State) : State :=
  if !s.fuses.accepts s.image then { s with boot := 4, bootHeld := true }
  else
    let ok5 := Config.freeBool s.free
    let ok6 := Config.freeBool (s.free + 1)
    let ok7 := Config.freeBool (s.free + 2)
    let s := s.bump 3
    if !ok5 then { s with boot := 5, bootHeld := true }
    else if !ok6 then { s with boot := 6, bootHeld := true }
    else
      let s : State := { s with memEcc := Ecc.reset, cores := s.cores.map (fun c => (c.1, { c.2 with ecc := Ecc.reset })),
                                cells := s.cells.map (fun c => (c.1, { c.2 with opEcc := Ecc.reset })),
                                clus := s.clus.map (fun c => (c.1, { c.2 with ecc := Ecc.reset })) }
      let s := (List.range 64).foldl (fun t k => t.replaceKey k) s
      if !ok7 then { s with boot := 7, bootHeld := true } else { s with boot := 8, bootHeld := false }

/-- What outlives a reset and a loss of power: the fuses, the image slot and the HSS counter (13 R282, R283). -/
def State.cold (s : State) (power : Bool) : State :=
  { State.reset with disabled := s.disabled, fuses := s.fuses, image := s.image, hss := s.hss, power := power, free := s.free, turns := s.turns }

/-- Power good or RESETN: steps 1 and 2; fuses or a map that cannot be read hold the module at step 2. -/
def execReset (s : State) : Host.Outcome State Fault Refusal :=
  let t := (s.cold true).bump 1
  .next (if Config.freeBool s.free then { t with boot := 3 } else { t with boot := 2, bootHeld := true })

/-- The supply is lost (13 R283). -/
def execPowerLoss (s : State) : Host.Outcome State Fault Refusal := .next (s.cold false)

/-- The boot ROM waits for a recovery stream. -/
def State.recovering (s : State) : Bool := s.boot = 4 && s.bootHeld

/-- 256 bytes of a recovery image, while step 4 waits for one. -/
def State.recoveryChunk (s : State) (host tag off : Nat) (data : List Byte) : State :=
  if s.failed && !s.recovering then s.report host tag
  else if s.recovering && data.length = 256 && off < 2 ^ 16 then ({ s with recovery := SMap.set s.recovery off data } : State).answer host tag 2 0 []
  else s.answer host tag 2 0x02 []

/-- The image that the chunks make, whole; none with a chunk missing. -/
def recovered (r : SMap (List Byte)) (off : Nat) : Nat → Option (List Byte)
  | 0 => some []
  | n + 1 => match SMap.find r off with
    | none => none
    | some b => (recovered r (off + 1) n).map (fun t => b ++ t)

/-- The recovery image is verified; only an image that verifies is written to the slot. The status of a failure is one the
spec does not name. -/
def State.recoveryEnd (s : State) (host tag len : Nat) : State :=
  let fails := (({ s with recovery := [] } : State).bump 1).answer host tag 3 (Config.freeNat s.free) []
  if s.failed && !s.recovering then s.report host tag
  else if !s.recovering then s.answer host tag 3 0x02 []
  else match (if 2 ^ 24 < len then none else recovered s.recovery 0 ((len + 255) / 256)) with
    | none => fails
    | some b =>
      if s.fuses.accepts (b.take len) then (({ s with image := b.take len, recovery := [], bootHeld := false } : State).bringUp).answer host tag 3 0 []
      else fails

/-! ### Management requests of hosts, in arrival order (13 R276, R277) -/

/-- The request word of a function. -/
def mgmtWord (func part : Nat) (arg : BitVec 38) : Word := BitVec.ofNat 64 (func * 2 ^ 48 + part % 64 * 2 ^ 38) ||| arg.setWidth 64

/-- A request of a host arrives; firmware holds a frozen agent. -/
def State.hostMgmt (s : State) (host tag : Nat) (l : List Word) : State :=
  if s.frozenHosts.contains host || supHost ≤ host then s else s.mgmtArrive host tag l

/-- A request to the boot ROM arrives by a fabric port, whose link must be up: while bring-up is held at step 4, port 0 of die 0
(13 R284, R285). -/
def State.romMgmt (s : State) (req : Requester) (l : List Word) : State :=
  if s.boot < 7 && req.port ≠ 0 then s else s.hostMgmt req.host req.tag l

def execAttestation (host tag part : Nat) (nonce : List (BitVec 64)) (s : State) : Host.Outcome State Fault Refusal :=
  .next (s.hostMgmt host tag (mgmtWord 1 part 0 :: nonce))
def execRecoveryImageChunk (req : Requester) (chunk : ImageChunk) (s : State) : Host.Outcome State Fault Refusal :=
  .next (s.romMgmt req (mgmtWord 2 0 (BitVec.ofNat 38 chunk.off) :: leWords ((chunk.data.length + 7) / 8) chunk.data))
def execRecoveryImageEnd (fin : ImageEnd) (s : State) : Host.Outcome State Fault Refusal :=
  .next (s.romMgmt fin.req [mgmtWord 3 0 (BitVec.ofNat 38 fin.len)])
def execConfigurationRead (host tag part : Nat) (arg : BitVec 38) (s : State) : Host.Outcome State Fault Refusal :=
  .next (s.hostMgmt host tag [mgmtWord 4 part arg])
def execMgmtBiasFlip (host tag part : Nat) (va : BitVec 64) (hb : Nat) (s : State) : Host.Outcome State Fault Refusal :=
  .next (s.hostMgmt host tag [mgmtWord 5 part 0, (va &&& ~~~1) ||| BitVec.ofNat 64 (hb % 2)])
def execMailboxForward (host tag part : Nat) (arg : BitVec 38) (mbox target : BitVec 64) (s : State) : Host.Outcome State Fault Refusal :=
  .next (s.hostMgmt host tag [mgmtWord 6 part arg, mbox, target])
def execStageGraphDeclaration (host tag part : Nat) (desc : BitVec 64) (s : State) : Host.Outcome State Fault Refusal :=
  .next (s.hostMgmt host tag [mgmtWord 7 part 0, desc])

/-! ### Format regions (03 R77) -/

/-- FRA, FRB and FRC of region n are registers 0, 1 and 2; FMT 8 to 15 is ignored as a whole. -/
def execFormatRegionWrite (n reg : Nat) (v : BitVec 64) (s : State) : Host.Outcome State Fault Refusal :=
  let r := SMap.get s.regions (0, 0, 0) n
  .next (if 16 ≤ n then s
    else match reg with
      | 0 => { s with regions := SMap.set s.regions n (v &&& 0x000FFFFFFFFFFF80, r.2.1, r.2.2) }
      | 1 => { s with regions := SMap.set s.regions n (r.1, v &&& 0x000FFFFFFFFFFF80, r.2.2) }
      | 2 => if 8 ≤ bits v 59 56 then s else { s with regions := SMap.set s.regions n (r.1, r.2.1, v &&& 0x8F0FFFFFFFFFFFF8) }
      | _ => s)

end Sys2Proof.Machine
end

