-- ==== Sys2Proof/Machine/Stage.lean ====
section
/-! DEFINITION. Stage graphs of free partitions: declaration, firings, the balancer and replays (02 R48 to R54); and
firmware's management requests in their order (13 R276). -/

namespace Sys2Proof.Machine

/-! ### Declaration (02 R53) -/

/-- A check of a declaration: the status that refuses it. -/
def ask (p : Bool) (status : Nat) : Except Nat Unit := if p then .ok () else .error status

/-- n words of a structure at va. -/
def State.structWords (s : State) (part : Nat) (va : Word) (n : Nat) : Except Nat (List Word) :=
  if va.toNat < 0x10000 then .error 0x02
  else match s.partRead part va (8 * n) with
    | .ok b => .ok (leWords n b)
    | .error c => .error c.code.toNat

/-- An address of the descriptor that must translate. -/
def State.askPlace (s : State) (part : Nat) (w : Bool) (va : Word) : Except Nat Unit :=
  if va.toNat < 0x10000 then .error 0x02
  else match s.partPlace part w va with
    | .ok _ => .ok ()
    | .error c => .error c.code.toNat

/-- Port fields of a stage record: the queues of the first n ports; none when a port is missing or too many. -/
def portList (w : Word) (n : Nat) : Option (List Nat) :=
  let q := fun (p : Nat) => bits w (16 * p + 15) (16 * p)
  if (List.range 4).all (fun p => if p < n then q p ≠ 0xFFFF else q p = 0xFFFF) then some ((List.range n).map q) else none

/-- A stage record (02 Table 2-8), with the number of cells it asks for. -/
def State.stageRec (s : State) (part nq i : Nat) (w : List Word) : Except Nat (Stage × Nat) := do
  let w0 := w.getD 0 0
  let w3 := w.getD 3 0
  let cells := bits w0 63 56
  let nin := bits w0 20 18
  let nout := bits w0 23 21
  let param : Word := BitVec.ofNat 64 (bits w3 55 0)
  let template := (w.drop 4).take 8
  ask (bits w0 55 25 = 0 && bits w0 17 16 = 0 && ((w.drop 12).all (fun x => x = 0))) 0x02
  ask (cells ≠ 0 && decide (1 ≤ nin) && decide (nin ≤ 4) && decide (nout ≤ 4) && bits w0 15 0 = i) 0x02
  ask (param.toNat % 8 = 0) 0x02
  match portList (w.getD 1 0) nin, portList (w.getD 2 0) nout with
  | some inp, some out => do
    ask ((inp ++ out).all (fun q => decide (q < nq))) 0x02
    ask (!headerBad false false 0 template) 0x30
    ask (hdrStage template = i) 0x02
    if param.toNat = 0 then .ok () else s.askPlace part false param
    .ok ({ seed := bit w0 24, inp := inp, out := out, plen := bits w3 63 56 + 1, param := param, template := template,
           cells := [], joining := [] }, cells)
  | _, _ => .error 0x02

/-- A queue record (02 Table 2-9). -/
def State.queueRec (s : State) (part : Nat) (stages : List Stage) (i : Nat) (w : List Word) : Except Nat StageQueue := do
  let w0 := w.getD 0 0
  let w1 := w.getD 1 0
  let lg := bits w0 63 59
  let base : Word := BitVec.ofNat 64 (bits w0 55 0)
  let prod := bits w1 15 0
  let cons := bits w1 31 16
  ask (bits w0 58 56 = 0 && bits w1 63 32 = 0 && decide (4 ≤ lg) && decide (lg ≤ 16) && base.toNat % 64 = 0) 0x02
  -- of all the stages exactly one input port names the queue (R48)
  ask ((stages[prod]?).any (fun t => t.out.count i = 1) && (stages[cons]?).any (fun t => t.inp.count i = 1) &&
    (stages.flatMap (fun t => t.inp)).count i = 1) 0x02
  s.askPlace part true base
  .ok { lg := lg, base := base, prod := prod, cons := cons, recs := [], next := 0, wasEmpty := true, wait := [] }

def State.stageRecs (s : State) (part nq : Nat) (va : Word) (i : Nat) : Nat → Except Nat (List (Stage × Nat))
  | 0 => .ok []
  | n + 1 => do
    let w ← s.structWords part (va + BitVec.ofNat 64 (128 * i)) 16
    let r ← s.stageRec part nq i w
    let t ← s.stageRecs part nq va (i + 1) n
    .ok (r :: t)

def State.queueRecs (s : State) (part : Nat) (stages : List Stage) (va : Word) (i : Nat) : Nat → Except Nat (List StageQueue)
  | 0 => .ok []
  | n + 1 => do
    let w ← s.structWords part (va + BitVec.ofNat 64 (16 * i)) 2
    let r ← s.queueRec part stages i w
    let t ← s.queueRecs part stages va (i + 1) n
    .ok (r :: t)

/-- The cells of the stages, taken in ascending rank order. -/
def giveCells : List Nat → List (Stage × Nat) → List Stage
  | _, [] => []
  | cells, (t, n) :: rest => { t with cells := cells.take n } :: giveCells (cells.drop n) rest

/-- The cells of a partition in ascending rank order by the rank table, then those that hold no rank. -/
def State.rankCells (s : State) (part : Nat) : List Nat :=
  let cells := (s.part part).cells
  ((((s.rankList part).filter (fun r => bit r.2 63)).map (fun r => bits r.2 17 2)).filter cells.contains ++ cells).eraseDups

/-- The graph that a descriptor declares, or the status that refuses it. -/
def State.readGraph (s : State) (part : Nat) (desc : Word) : Except Nat Graph := do
  ask (bits desc 63 56 = 0 && desc.toNat % 64 = 0) 0x02
  let h ← s.structWords part desc 8
  let h0 := h.getD 0 0
  let addr := fun (i : Nat) => h.getD i 0
  let nstage := bits h0 9 0 + 1
  let nq := bits h0 43 32 + 1
  let rctr := addr 3
  ask (bits h0 59 44 = 0 && bits h0 31 10 = 0 && ((h.drop 5).all (fun x => x = 0))) 0x02
  ask (bits (addr 1) 63 56 = 0 && bits (addr 2) 63 56 = 0 && bits rctr 63 56 = 0 && bits (addr 4) 63 56 = 0) 0x02
  ask ((addr 1).toNat % 64 = 0 && (addr 2).toNat % 16 = 0) 0x02
  ask (rctr.toNat % 8 = 0 && (rctr = 0 || (addr 4).toNat % 64 = 0)) 0x02
  if rctr = 0 then .ok () else do
    s.askPlace part false rctr
    s.askPlace part true (addr 4)
  let st ← s.stageRecs part nq (addr 1) 0 nstage
  let qs ← s.queueRecs part (st.map Prod.fst) (addr 2) 0 nq
  ask (decide ((st.map Prod.snd).foldl (fun a b => a + b) 0 ≤ (s.part part).cells.length)) 0x02
  .ok { stages := giveCells (s.rankCells part) st, queues := qs, rctr := rctr, rarea := addr 4, rdepth := bits h0 63 60 + 1, due := [],
        window := s.pace.toNat / 4096 }

/-- A context or core of a partition, on its hardware or in what a switch-out saved. -/
def State.ctxOf (s : State) (part k : Nat) : Ctx := (s.part part).saved.elim (s.ctx k) (fun w => SMap.get w.ctxs Ctx.reset k)
def State.coreOf (s : State) (part core : Nat) : Core := (s.part part).saved.elim (s.core core) (fun w => SMap.get w.cores Core.reset core)

/-- A standing graph may be replaced: its queues are empty and every context of the partition is Idle. -/
def State.graphIdle (s : State) (part : Nat) : Bool :=
  let p := s.part part
  (match p.graph with
    | none => true
    | some g => g.queues.all (fun q => q.recs.isEmpty) &&
        p.cores.all (fun c => (List.range 4).all (fun i => (s.ctxOf part (4 * c + i)).cs = .idle)))

def State.declare (s : State) (host tag part : Nat) (desc : Word) : State :=
  let p := s.part part
  if p.det || !s.graphIdle part then s.answer host tag 7 0x02 []
  else match s.readGraph part desc with
    | .error c => s.answer host tag 7 c []
    | .ok g => (s.setPart part { p with graph := some g }).answer host tag 7 0 []

/-! ### Launches of a graph (02 R50, R54) -/

/-- The parameter address of a launch of stage i with tag t (02 R46, R54). -/
def Graph.param (g : Graph) (i t : Nat) (st : Stage) : Word :=
  if g.rctr = 0 || st.param = 0 then 0 else g.rarea + BitVec.ofNat 64 ((t % g.rdepth * g.stages.length + i) * 256)

/-- The core of a cell in service that a stage's launch goes to: among those with an Idle context, the one with the fewest headers
queued, and of these the lowest. DESIGN CHOICE. -/
def State.stageCore (s : State) (cell : Nat) : Option Nat :=
  let ok := (List.range 4).filterMap (fun i =>
    let c := 4 * cell + i
    if s.validCell cell && (s.idleCtx c).isSome && (s.core c).launchQ.length < 16 then some (c, (s.core c).launchQ.length) else none)
  ok.foldl (fun (b : Option Nat) c => match b with
    | none => some c.1
    | some d => if c.2 < (s.core d).launchQ.length then some c.1 else some d) none

/-- A template's header for tag t joins a core's launch queue. -/
def State.stageLaunch (s : State) (part core : Nat) (g : Graph) (i t : Nat) (st : Stage) (res : List Reserved) : State :=
  let w0 : Word := (st.template.getD 0 0) &&& 0xFFFFFFFF00000000 ||| BitVec.ofNat 64 (t % 2 ^ 32)
  let m : Message := { mbox := 0, start := 0, hdr := w0 :: st.template.drop 1, part := part, kind := 5, sender := core, task := 0 }
  let c := s.core core
  s.setCore core { c with launchQ := c.launchQ ++ [{ headerOf m 0 (g.param i (t % 2 ^ 32) st) s.pace with reserved := res }] }

/-- Every context of a partition's cell is Idle and nothing is queued on it, also while the partition is parked. -/
def State.cellQuiet (s : State) (part cell : Nat) : Bool :=
  (List.range 4).all (fun i => (s.coreOf part (4 * cell + i)).launchQ.isEmpty && (List.range 4).all (fun j => (s.ctxOf part (16 * cell + 4 * i + j)).cs = .idle)) &&
    (SMap.get (s.cell cell).holding [] part).all (fun m => match m with
      | .launch .. => false
      | _ => true)

/-- The cells that the balancer moved and whose last handler has exited join their stages (02 R51). -/
def Graph.settle (s : State) (part : Nat) (g : Graph) : Graph :=
  { g with stages := g.stages.map (fun t =>
    { t with cells := t.cells ++ t.joining.filter (fun c => s.cellQuiet part c), joining := t.joining.filter (fun c => !s.cellQuiet part c) }) }

/-- The head window of a queue: its first 16 records. -/
def StageQueue.window (q : StageQueue) : List QRec := q.recs.take 16

/-- A tag has a record that no firing reserved in the window. -/
def StageQueue.offers (q : StageQueue) (t : Nat) : Bool := q.window.any (fun r => !r.reserved && r.tag = t)

/-- The queues of a stage's input ports. -/
def Graph.inputs (g : Graph) (st : Stage) : List (Nat × StageQueue) := st.inp.filterMap (fun i => (g.queues[i]?).map (fun q => (i, q)))

/-- The tag a stage fires on: that of the earliest eligible record of port 0. -/
def Graph.fires (g : Graph) (st : Stage) : Option Nat :=
  match g.inputs st with
  | [] => none
  | (_, q) :: rest => ((q.window.find? (fun r => !r.reserved && rest.all (fun p => p.2.offers r.tag))).map (fun r => r.tag))

/-- The earliest record with tag t of each port. -/
def Graph.take (g : Graph) (st : Stage) (t : Nat) : List Reserved :=
  ((g.inputs st).mapIdx (fun port p => (port, p))).filterMap (fun x =>
    (x.2.2.window.find? (fun r => !r.reserved && r.tag = t)).map (fun r =>
      { port := x.1, tag := t, queue := x.2.1, num := r.num, place := r.place }))

/-- The records are marked reserved. -/
def Graph.reserve (g : Graph) (l : List Reserved) : Graph :=
  { g with queues := g.queues.mapIdx (fun i q =>
      { q with recs := q.recs.map (fun r => if l.any (fun t => t.queue = i && t.num = r.num) then { r with reserved := true } else r) }) }

/-- A stage fires on a cell of it. -/
def execStageFiring (part stage cell : Nat) (s : State) : Host.Outcome State Fault Refusal :=
  match (s.part part).graph with
  | none => .next s
  | some g0 =>
    let g := g0.settle s part
    match g.stages[stage]? with
    | none => .next s
    | some st =>
      match (if st.cells.contains cell && s.runs (4 * cell) then g.fires st else none), s.stageCore cell with
      | some t, some core =>
        let res := g.take st t
        .next ((s.setPart part { s.part part with graph := some (g.reserve res) }).stageLaunch part core g stage t st res)
      | _, _ => .next s

/-! ### The balancer (02 R51) -/

/-- How full a queue is, in parts of 65,536. -/
def StageQueue.fill (q : StageQueue) : Nat := q.recs.length * 2 ^ (16 - q.lg)

/-- The fill of a stage's fullest input queue. -/
def Graph.need (g : Graph) (st : Stage) : Nat := (g.inputs st).foldl (fun a p => max a p.2.fill) 0

/-- A stage with its fill placed in the needy stages, fullest first; ties keep the lower stage first. -/
def putNeedy (x : Nat × Nat) : List (Nat × Nat) → List (Nat × Nat)
  | [] => [x]
  | y :: t => if y.2 < x.2 then x :: y :: t else y :: putNeedy x t

def Graph.needy (g : Graph) : List Nat :=
  ((g.stages.mapIdx (fun i st => (i, g.need st))).foldl (fun l x => if 3 * 2 ^ 14 < x.2 then putNeedy x l else l) []).map Prod.fst

/-- The donors in their order: those with a full output queue, then those whose input queues stood empty throughout. -/
def Graph.donors (g : Graph) : List Nat :=
  let ids := (List.range g.stages.length).reverse.filter (fun i => (g.stages[i]?).any (fun t => decide (2 ≤ t.cells.length)))
  let full := fun (i : Nat) => (g.stages[i]?).any (fun t => t.out.any (fun q => (g.queues[q]?).any (fun u => u.full)))
  let dry := fun (i : Nat) => (g.stages[i]?).any (fun t => (g.inputs t).all (fun p => p.2.wasEmpty && p.2.recs.isEmpty))
  ids.filter full ++ ids.filter (fun i => !full i && dry i)

/-- One cell moves from a donor to a needy stage; which one the spec does not say. -/
def Graph.move (g : Graph) (free : Nat) (n d : Nat) : Graph :=
  match g.stages[d]? with
  | none => g
  | some t =>
    let c := t.cells.getD (Config.freeNat free % t.cells.length) 0
    let g : Graph := { g with stages := g.stages.set d { t with cells := t.cells.filter (fun x => x ≠ c) } }
    match g.stages[n]? with
    | none => g
    | some u => { g with stages := g.stages.set n { u with joining := u.joining ++ [c] } }

/-- The window of 4,096 pace ticks closes. -/
def execBalancerWindow (part : Nat) (s : State) : Host.Outcome State Fault Refusal :=
  match (s.part part).graph with
  | none => .next s
  | some g0 =>
    if s.pace.toNat / 4096 ≤ g0.window then .next s
    else
      let g := g0.settle s part
      let pairs := g.needy.zip g.donors
      let g := (pairs.mapIdx (fun i p => (i, p))).foldl (fun h x => h.move (s.free + x.1) x.2.1 x.2.2) g
      let g := { g with window := s.pace.toNat / 4096, queues := g.queues.map (fun q => { q with wasEmpty := q.recs.isEmpty }) }
      .next ((s.setPart part { s.part part with graph := some g }).bump pairs.length)

/-! ### Replays (02 R52, R54) -/

/-- Where replay r is copied from (the die of the graph's first cell) and to, and the copy of the blocks its CADD found. -/
def State.replayDie (s : State) (part : Nat) : Nat := dieOf (4 * (s.part part).cells.headD 0)
def Graph.replayVa (g : Graph) (r i : Nat) : Word := g.rarea + BitVec.ofNat 64 ((r % g.rdepth * g.stages.length + i) * 256)
/-- A write of the copy waits for operations that precede it (04 R87). -/
def State.replayHeldUp (s : State) (part r : Nat) (g : Graph) (blocks : List (List Byte)) : Bool :=
  (blocks.mapIdx (fun i b => (i, b))).any (fun x => (s.partHold (s.replayDie part) part (g.replayVa r x.1) x.2.length).isSome)
def State.replayCopy (s : State) (part r : Nat) (g : Graph) (blocks : List (List Byte)) : State :=
  (blocks.mapIdx (fun i b => (i, b))).foldl (fun t x =>
    if x.2.isEmpty then t
    else match t.partStore (s.replayDie part) part (g.replayVa r x.1) x.2 with
      | (u, none) => u
      | (u, some c) => u.causeNotice part c 0 0 0 (hdrTenant ((g.stages[x.1]?).elim [] (fun st => st.template)))) s

/-- A core for a seed of the stage: on the first of its cells that has one. -/
def State.seedCore (s : State) (st : Stage) : Option Nat := st.cells.findSome? (fun c => if s.runs (4 * c) then s.stageCore c else none)

/-- The seeds of replay r in ascending stage order; none while one of them finds no core. -/
def State.seeds (s : State) (part r : Nat) (g : Graph) : List (Nat × Stage) → Option State
  | [] => some s
  | (i, st) :: t =>
    if !st.seed then s.seeds part r g t
    else match s.seedCore st with
      | none => none
      | some core => (s.stageLaunch part core g i r st []).seeds part r g t

/-- The oldest replay that is due is performed: its copy, then its seeds. -/
def execReplay (part : Nat) (s : State) : Host.Outcome State Fault Refusal :=
  match (s.part part).graph with
  | none => .next s
  | some g0 =>
    match g0.due with
    | [] => .next s
    | (r, last, blocks) :: rest =>
      let g := { g0.settle s part with due := if r < last then (r + 1, last, blocks) :: rest else rest }
      if s.replayHeldUp part r g blocks then .next s
      else
      let t := (s.replayCopy part r g blocks)
      .next (((t.setPart part { t.part part with graph := some g }).seeds part r g (g.stages.mapIdx (fun i st => (i, st)))).getD s)

/-! ### Management requests in arrival order (13 R276, R277) -/

/-- Firmware, or the boot ROM before it, performs the oldest request. -/
def State.mgmtStep (s : State) : Host.Outcome State Fault Refusal :=
  match s.mgmt with
  | [] => .next s
  | r :: rest =>
    let s : State := { s with mgmt := rest }
    let w := r.words.getD 0 0
    let d0 := r.words.getD 1 0
    let d1 := r.words.getD 2 0
    let p := mgmtPart w
    .next (match (if s.failed then none else mgmtRefusal r.host r.words) with
      | some e => s.answer r.host r.tag (mgmtFunc w) e []
      | none =>
      match mgmtFunc w with
      | 1 => s.attest r.host r.tag p ((r.words.drop 1).take 4)
      | 2 => s.recoveryChunk r.host r.tag (bits w 37 0) (wordBytes (r.words.drop 1))
      | 3 => s.recoveryEnd r.host r.tag (bits w 37 0)
      | 4 => s.configRead r.host r.tag p (w.setWidth 38)
      | 5 => s.mgmtFlip r.host r.tag p d0
      | 6 => s.forwardSet r.host r.tag p (w.setWidth 38) d0 d1
      | 7 => s.mgmtDo r.host r.tag 7 p true (fun b => b.launch) (fun s => s.declare r.host r.tag p d0)
      | f => s.answer r.host r.tag f 0x02 [])

end Sys2Proof.Machine
end

