-- ==== Sys2Proof/Machine/Network.lean ====
section
/-! DEFINITION. Loops, package ring and fabric: packets on their way, the gateway's hold, and messages held for a parked
partition or a moving rank (06 R143 to R161, 04 R87, 03 R69, 12 R258). -/

namespace Sys2Proof.Machine

/-! ### The package ring (06 R153 to R157) -/

/-- The die before this one in a direction. -/
def ringPrev (die dir : Nat) : Nat := if dir = 0 then (die + 7) % 8 else (die + 1) % 8

/-- The virtual channel of a packet received at a die: 1 past the dateline. -/
def vcAt (die dir vc : Nat) : Nat := if (dir = 0 && die = 0) || (dir = 1 && die = 7) then 1 else vc

/-- Shared places in use in a clock, and escape places of a virtual channel; a place that was left in the clock counts (20 R338). -/
def Gateway.shared (g : Gateway) (clock : Nat) : Nat :=
  (g.q.map (fun e => e.places.countP (fun p => p.1))).foldl (fun a b => a + b) 0 + g.freed.countP (fun f => f.shared && f.clock = clock)
def Gateway.escape (g : Gateway) (vc clock : Nat) : Nat :=
  ((g.q.filter (fun e => e.pkt.vc = vc)).map (fun e => e.places.countP (fun p => !p.1))).foldl (fun a b => a + b) 0 +
    g.freed.countP (fun f => !f.shared && f.vc = vc && f.clock = clock)

def Die.gateway (d : Die) (dir : Nat) : Gateway := (d.gw[dir]?).getD Gateway.reset

/-- Places that the link into a gateway has given in a clock. -/
def Gateway.givenIn (g : Gateway) (clock : Nat) : Nat := if g.given.1 = clock then g.given.2 else 0

/-- The place a flit of a virtual channel gets: none, shared (some true) or escape; 16 flits in a clock at most. -/
def Gateway.room (g : Gateway) (vc clock : Nat) : Option Bool :=
  if 16 ≤ g.givenIn clock then none
  else if g.shared clock < 32 then some true else if g.escape vc clock < 4 then some false else none

/-- The next flit of a packet is here and has crossed the link that brought it, 4 clocks after its place was given (20 R338). -/
def RingEntry.ready (e : RingEntry) (clock : Nat) : Bool :=
  decide (e.sent < e.got) && (e.places.head?).all (fun p => decide (p.2 + 4 ≤ clock))

/-- A packet is on its way onward, and of the class (virtual channel, injected at the die or passing through it). -/
def RingEntry.onward (e : RingEntry) (die : Nat) : Bool := e.pkt.dst ≠ die && decide (e.sent ≤ e.pkt.len)
def RingEntry.turnClass (e : RingEntry) (die : Nat) : Nat := 2 * e.pkt.vc + (if e.pkt.src = die && e.pkt.vc = 0 then 1 else 0)

/-- The packet whose flit crosses next, of those whose channel has a place: one that is crossing already goes on, and holds its
channel; else the first that waits of the class whose turn it is (06 R156, 20 R338). -/
def Gateway.nextOf (g : Gateway) (die clock : Nat) (room : Nat → Bool) : Option Nat :=
  let crossing := fun (vc : Nat) => g.q.any (fun e => e.onward die && e.pkt.vc = vc && decide (0 < e.sent))
  match g.q.findIdx? (fun e => e.onward die && decide (0 < e.sent) && e.ready clock && room e.pkt.vc) with
  | some i => some i
  | none => [1, 2, 3, 4].findSome? (fun t => g.q.findIdx? (fun e =>
      e.onward die && e.turnClass die = (g.last + t) % 4 && !crossing e.pkt.vc && e.ready clock && room e.pkt.vc))

/-- The oldest flit here has left its place. -/
def RingEntry.leave (e : RingEntry) : RingEntry := { e with sent := e.sent + 1, places := e.places.drop 1 }
/-- The places of a packet that are left in a clock. -/
def RingEntry.freed (e : RingEntry) (n clock : Nat) : List FreedPlace := (e.places.take n).map (fun p => { shared := p.1, vc := e.pkt.vc, clock := clock })

/-- A flit has arrived: it takes the place given to it, none once the packet passes on to its stop. -/
def RingEntry.come (e : RingEntry) (shared : Bool) (clock : Nat) : RingEntry :=
  { e with got := e.got + 1, places := if e.passed then e.places else e.places ++ [(shared, clock)] }

/-- A record for firmware about a stop. -/
def State.fabricNotice (s : State) (code : Nat) (coord : Nat) : State :=
  s.firmware 64 (noticeWords (causeWord (cz code) 14 (BitVec.ofNat 18 coord) 0) 0 0 s.pace 0 0)

/-- The gateway of a die gives a flit from the die before it a place, and it crosses the link. A head with a reserved LEN or a
DSTDIE outside the ring is discarded, with its packet, and reported (R154). -/
def execRingFlitGrant (die dir : Nat) (s : State) : Host.Outcome State Fault Refusal :=
  if 8 ≤ die || 2 ≤ dir then .next s
  else
    let from' := ringPrev die dir
    let src := (s.die from').gateway dir
    let dst := (s.die die).gateway dir
    let clk := s.clock
    match src.nextOf from' clk (fun vc => (dst.room (vcAt die dir vc) clk).isSome) with
    | none => .next s
    | some i =>
      match src.q[i]? with
      | none => .next s
      | some e =>
        if 5 ≤ e.pkt.len || 8 ≤ e.pkt.dst then
          .next ((s.setDie from' { s.die from' with gw := (s.die from').gw.set! dir { src with q := src.q.eraseIdx i } }).fabricNotice 0x34 (stopCoord die (gatewayStop dir)))
        else
        let vc := vcAt die dir e.pkt.vc
        let sh := (dst.room vc clk).getD true
        let left := e.leave
        let src' : Gateway := { src with q := if left.sent = e.pkt.len + 1 then src.q.eraseIdx i else src.q.set i left,
                                         last := if e.sent = 0 then e.turnClass from' else src.last,
                                         freed := src.freed.filter (fun f => f.clock = clk) ++ e.freed 1 clk }
        let head : RingEntry := { pkt := { e.pkt with vc := vc }, got := 0, sent := 0, places := [], passed := false }
        -- a packet part of which has crossed is the one of its channel that is not whole here
        let q' := if e.sent = 0 then dst.q ++ [head.come sh clk]
          else match dst.q.findIdx? (fun x => x.pkt.vc = vc && decide (x.got ≤ x.pkt.len)) with
            | some j => dst.q.modify j (fun x => x.come sh clk)
            | none => dst.q ++ [head.come sh clk]
        let dst' : Gateway := { dst with q := q', given := (clk, dst.givenIn clk + 1) }
        let s := s.setDie from' { s.die from' with gw := (s.die from').gw.set! dir src' }
        .next (s.setDie die { s.die die with gw := (s.die die).gw.set! dir dst' })

/-- The gateway passes a packet for its die on, once every operation that its stamp shows to precede it has been applied. -/
def State.holdRelease (s : State) (die dir : Nat) : Option State :=
  let d := s.die die
  let g := d.gateway dir
  let free := fun (e : RingEntry) => e.pkt.dst = die && (e.passed || (e.ready s.clock && e.pkt.stamp.all (fun v => !s.precedes die v))) &&
    (!e.passed || decide (e.pkt.len < e.got))
  match g.q.findIdx? free with
  | none => none
  | some i =>
    match g.q[i]? with
    | none => none
    | some e =>
      let whole := decide (e.pkt.len < e.got)
      let q := if whole then g.q.eraseIdx i else g.q.set i { e with passed := true, places := [] }
      let d := { d with gw := d.gw.set! dir { g with q := q, freed := g.freed.filter (fun f => f.clock = s.clock) ++ e.freed e.places.length s.clock } }
      let s := s.setDie die (match e.pkt.stamp with
        | some v => d.raise v
        | none => d)
      some (if whole then s.sendFrom die (gatewayStop dir) e.pkt else s)

/-- The oldest counter add that a die holds is applied, once every operation its stamp shows to precede it has been. -/
def State.countRelease (s : State) (die : Nat) : Option State :=
  let d := s.die die
  match d.counts with
  | [] => none
  | c :: t =>
    let u := s.setDie die { d with counts := t }
    if u.precedes die c.stamp then none else some ((u.setDie die ({ d with counts := t }.raise c.stamp)).heatAdd c.part c.place)

def execGatewayHoldRelease (die : Nat) (s : State) : Host.Outcome State Fault Refusal :=
  .next ((s.holdRelease die 0).getD ((s.holdRelease die 1).getD ((s.countRelease die).getD s)))

/-! ### Packets of copies (20 R336, R337) -/

/-- A home acknowledges a write of a copy to its channel, with the exchange bytes it takes off (06 R151). -/
def State.sendAck (s : State) (home core ch n : Nat) : State := s.sendPacket (s.packet home core 0 1 (.ack core ch n))

/-- The acknowledgement reaches the channel. -/
def State.acked (s : State) (core ch n : Nat) : State :=
  let c := s.core core
  let h := c.chan ch
  s.setCore core { c.setChan ch { h with inFlight := h.inFlight - 1 } with exchBytes := c.exchBytes - n }

/-- A write of n bytes at offset off of a copy, or its post, faults at its target: the channel freezes, to begin again at that
piece. Bytes sent behind it count as unacknowledged again, since they are sent again (06 R151). -/
def State.writeFault (s : State) (core ch off n : Nat) (e : CauseRec) : State :=
  let c := s.core core
  let h := c.chan ch
  match h.cmds with
  | cmd :: _ =>
    let back := cmd.done - off
    let h := ({ h with inFlight := h.inFlight - 1 } : Channel).head (fun c => { c with done := min c.done off, ends := 0, phase := if off < 2 ^ 64 then 0 else 1 })
    let s := s.setCore core { c.setChan ch h with exchBytes := if cmd.exch then c.exchBytes + back - n else c.exchBytes }
    s.copyFault core ch cmd e
  | [] => s.setCore core (c.setChan ch { h with inFlight := h.inFlight - 1 })

/-- The place that a landed packet writes now: scratch by the map that stands. -/
def State.landPlace (s : State) (p : Place) (n : Nat) : Except CauseRec Place := match p with
  | .array c a => if s.inScratch c a n then .ok (.array c (scratchIdx (s.core c).waym a)) else .error (cz 0x21)
  | q => .ok q.atHome

/-- A packet of a copy is taken at its home: checked whole, its pieces are then written one by one (20 R339). While a WAYS of
the core is in progress it is held and judged by the new map (03 Table 3-3). -/
def State.landWrite (s : State) (die : Nat) (l : Landing) : State :=
  let held := match l.place with
    | .array c _ => (s.core c).ways.isSome
    | _ => false
  let n := l.data.length
  let bad : Except Stop Unit := if held then .ok ()
    else do
      let p ← (s.landPlace l.place n).mapError Stop.trap
      s.mayWrite p n 0
  match bad with
  | .error (.trap e) => s.writeFault l.core l.ch l.off (if l.exch then n else 0) e
  | _ => s.setDie die { s.die die with landing := (s.die die).landing ++ [{ l with left := List.range ((n + 63) / 64), held := held }] }

/-- What a copy's packet writes. -/
def Packet.landing (p : Packet) (q : Place) (data : List Byte) (tags : List (Nat × Nat × Word)) (core ch off : Nat) : Landing :=
  { place := q, data := data, tags := tags, core := core, ch := ch, off := off, exch := p.cls = 3, stamp := p.stamp, left := [], held := false, post := none }

/-- A copy's post is performed at its counter's home, and acknowledged. -/
def State.packetPost (s : State) (die : Nat) (p : Place) (n core ch : Nat) : Option State :=
  match s.counterAdd (die * 32768) p n 0 with
  | .ok (_, t) => some (t.sendAck (p.home (die * 32768)).1 core ch 0)
  | .error (.trap e) => some (s.writeFault core ch (2 ^ 64) 0 e)
  | .error _ => none

/-- Piece i of a landed packet is written at its home; the last one is acknowledged. A landed post is made whole. None while it
must wait there. -/
def State.landPiece (s : State) (die : Nat) (idx i : Nat) (l : Landing) : Option State :=
  let n := l.data.length
  let home := (l.place.home (die * 32768)).1
  let busy := match l.place with
    | .array c _ => l.held && (s.core c).ways.isSome
    | _ => false
  let d := s.die die
  let gone := s.setDie die { d with landing := d.landing.eraseIdx idx }
  if busy || !l.left.contains i then none
  else if l.post.isSome then gone.packetPost die l.place (l.post.getD 0) l.core l.ch
  else match s.landPlace l.place n with
    | .error e => some (gone.writeFault l.core l.ch l.off (if l.exch then n else 0) e)
    | .ok p =>
      let q := match p with
        | .array c _ => match l.place with
          | .array _ a => Place.array c (scratchIdx (s.core c).waym (a + 64 * i))
          | r => r
        | .phys pa key ctr unc hb => .phys (pa + 64 * i) key ctr unc hb
        | r => r
      match s.writePlace (die * 131072) q ((l.data.drop (64 * i)).take 64) 0 with
      | .error (.trap e) => some (gone.writeFault l.core l.ch l.off (if l.exch then n else 0) e)
      | .error _ => none
      | .ok t =>
        let left := l.left.erase i
        let d := t.die die
        if left.isEmpty then
          some (((t.setDie die { d with landing := d.landing.eraseIdx idx }).putTags p l.tags).sendAck home l.core l.ch (if l.exch then n else 0))
        else some (t.setDie die { d with landing := d.landing.set idx { l with left := left } })

/-! ### Messages held for a parked partition (12 R258) -/

/-- A held message is delivered to the cell; none while it cannot be. -/
def State.deliverHeld (s : State) (cell : Nat) : HeldMsg → Option State
  | .launch core h =>
    let c := s.core core
    if c.launchQ.length < 16 then some (s.setCore core { c with launchQ := c.launchQ ++ [h] }) else none
  | .remote op => s.remoteTake cell op
  | .key core u => some (s.setCore core { s.core core with kin := (s.core core).kin ++ [u] })
  | .write core a data src ch off exch =>
    some (s.landWrite (dieOf core) { place := .array core a, data := data, tags := [], core := src, ch := ch, off := off, exch := exch,
                                     stamp := none, left := [], held := false, post := none })

/-- The messages held at a cell for its partition are delivered in order as far as they can be. -/
def State.drainHeld (s : State) (cell part : Nat) : List HeldMsg → State
  | [] => s.setCell cell { s.cell cell with holding := SMap.drop (s.cell cell).holding part }
  | m :: t => match s.deliverHeld cell m with
    | some u => u.drainHeld cell part t
    | none => s.setCell cell { s.cell cell with holding := SMap.set (s.cell cell).holding part (m :: t) }

/-- Room in a cell's holding queue; the message joins it. -/
def State.holdMsg (s : State) (cell part : Nat) (m : HeldMsg) : Option State :=
  let u := s.cell cell
  let q := SMap.get u.holding [] part
  if 4096 ≤ q.length then none else some (s.setCell cell { u with holding := SMap.set u.holding part (q ++ [m]) })

/-- A message that an interface held for a rank in transit is sent to the rank's core; none while it must wait. -/
def State.sendRank (s : State) (core part : Nat) (m : RankMsg) : Option State :=
  let va : Word := BitVec.ofNat 64 (0xFE00000000000000 + m.rank * 0x8000 + m.off)
  -- the rank is resolved as for a message before which nothing is held
  let r := s.setCore core { s.core core with held := [] }
  let s := s.setCore core { s.core core with held := (s.core core).held.erase m }
  let fail := fun (e : Stop) => match e with
    | .trap c => some (s.postAsync m.ctx m.task 1 c)
    | _ => none
  match m.act with
  | .store b => match r.rankPlace core part va b.length with
    | .ok (c, off) => match s.writePlace m.ctx (.array c (scratchIdx (s.core c).waym off)) b va with
      | .ok t => some t
      | .error e => fail e
    | .error e => fail e
  | .red n op v => match r.rankPlace core part va n with
    | .ok (c, off) => match s.rmw m.ctx (.array c (scratchIdx (s.core c).waym off)) n va (fun old => some (redValue op n old v)) with
      | .ok (_, t) => some t
      | .error e => fail e
    | .error e => fail e
  | .key u => match r.rankCore core part m.rank 0 with
    | .ok c => if s.mayArrive (dieOf core) (dieOf (c % 2 ^ 18)) then some ((s.rankFill core part m.rank).putKey (c % 2 ^ 18) u) else none
    | .error e => fail e

/-- The messages held in an interface are sent in order, those of a rank still in transit and those behind them staying
(03 R69). -/
def State.sendHeld (s : State) (core part : Nat) (stay : List Nat) : List RankMsg → State
  | [] => s
  | m :: t =>
    if stay.contains m.rank || bit (s.rankEntry part m.rank) 62 then s.sendHeld core part (m.rank :: stay) t
    else match s.sendRank core part m with
      | some u => u.sendHeld core part stay t
      | none => s.sendHeld core part (m.rank :: stay) t

/-- The messages held at a cell for the partition switched in are delivered, and those that its cores' interfaces hold for
ranks that were in transit are sent. -/
def execRankWindowAccess (cell : Nat) (s : State) : Host.Outcome State Fault Refusal :=
  let u := s.cell cell
  match u.part with
  | none => .next s
  | some p => .next (if s.parking (4 * cell) then s else
      (List.range 4).foldl (fun t i => t.sendHeld (4 * cell + i) p [] (t.core (4 * cell + i)).held) (s.drainHeld cell p (SMap.get u.holding [] p)))

/-- The rank of a core that is in transit (03 R69). -/
def State.movingRank (s : State) (part core : Nat) : Option Nat :=
  ((s.rankList part).find? (fun e => bit e.2 63 && bit e.2 62 && bits e.2 17 0 = core)).map Prod.fst

/-! ### Packets at their stop (06 R141 to R145, R154, R159 to R161) -/

/-- A module without a path to the sender of a packet, or with the packet's link down, gives it back (R159): a launch message
or a copy's write of this module with "fabric link down", another module's by the reply that carries it. -/
def State.returnPacket (s : State) (die stop : Nat) (p : Packet) : State := match p.payload with
  | .launch _ _ => match SMap.find s.fabWait p.tag with
    | some m => ({ s with fabWait := SMap.drop s.fabWait p.tag } : State).refuse m 0x32
    | none => s
  | .copyWrite _ data _ core ch off _ => s.writeFault core ch off (if p.cls = 3 then data.length else 0) (cz 0x32)
  | .bytes _ =>
    if p.op = 0xC5 || p.srcMod = s.modNum then s
    else (s.sendOut die stop { s.packet (stopCoord die stop) 0 0 1 (.bytes (leBytes 8 0x32)) with dstMod := p.srcMod, tag := p.tag, op := 0xC5 }).getD s
  | _ => s

/-- A packet at its egress port, in the order of sending; a dead link gives it back. -/
def State.atPort (s : State) (die : Nat) (p : Packet) : State :=
  match s.egress p.dstMod with
  | none => s.returnPacket die 0 p
  | some (d, port) =>
    if !((s.die d).port port).up then s.returnPacket die (portStop port) p
    else { s with fabOut := s.fabOut.takeWhile (fun x => x.seq < p.seq) ++ p :: s.fabOut.dropWhile (fun x => x.seq < p.seq) }

/-- A packet is taken at a stop of a die, whole; none refuses it for another lap. A gateway and a fabric port take every packet of
their die: the spec sizes only the receive side of a gateway (notes/assumptions/113.md). DESIGN CHOICE. -/
def State.takePacket (s : State) (die : Nat) (p : Packet) : Option State :=
  if p.dst ≠ die then
    let d := s.die die
    let e : RingEntry := { pkt := p, got := p.len + 1, sent := 0, places := [], passed := false }
    some (s.setDie die { d with gw := d.gw.set! p.dir { d.gateway p.dir with q := (d.gateway p.dir).q ++ [e] } })
  else if p.dstMod ≠ s.modNum then some (s.atPort die p)
  else match p.payload with
  | .copyWrite (.array c a) data _ core ch off part =>
    let m := HeldMsg.write c a data core ch off (p.cls = 3)
    if (s.cell (c / 4)).part ≠ some part || s.parking c || !(SMap.get (s.cell (c / 4)).holding [] part).isEmpty then s.holdMsg (c / 4) part m
    else match s.movingRank part c with
      | some r => some (s.setPart part { s.part part with transit := (s.part part).transit ++ [(r, m)] })
      | none => some (s.landWrite die (p.landing (.array c a) data [] core ch off))
  | .copyWrite q data tags core ch off _ => some (s.landWrite die (p.landing q data tags core ch off))
  | .post q n core ch =>
    let d := s.die die
    some (s.setDie die { d with landing := d.landing ++ [{ p.landing q [] [] core ch 0 with left := [0], post := some n }] })
  | .ack core ch n => some (s.acked core ch n)
  | .launch m part => some { s with hwMsgs := s.hwMsgs ++ [{ m with part := part }] }
  | .beats l => some (s.setDie die ((s.die die).relayTake l))
  | .bytes _ => some s

/-- A packet that a destination has refused twice has the next free room of its class there (R144): another one of the class,
behind it or refused less often, is refused until then. -/
def Die.reserves (d : Die) (idx : Nat) (x : LoopPkt) : Bool :=
  x.pkt.cls ≠ 1 && (d.loopPkts.mapIdx (fun i y => (i, y))).any (fun e => e.1 ≠ idx && e.2.dst = x.dst && e.2.pkt.core = x.pkt.core && e.2.pkt.cls = x.pkt.cls &&
    e.2.taken.isNone && decide (2 ≤ e.2.refused) && (decide (x.refused < 2) || decide (e.1 < idx)))

def State.setPkt (s : State) (die idx : Nat) (f : LoopPkt → LoopPkt) : State :=
  let d := s.die die
  s.setDie die { d with loopPkts := d.loopPkts.modify idx f }
def State.dropPkt (s : State) (die idx : Nat) : State :=
  let d := s.die die
  s.setDie die { d with loopPkts := d.loopPkts.eraseIdx idx }

/-- The head of a packet passes its destination stop at loop clock t: the packet is taken, to leave the loop flit by flit, or
passes again a lap later. -/
def State.headPass (s : State) (die idx t : Nat) (x : LoopPkt) : State :=
  let again := s.setPkt die idx (fun y => { y with refused := y.refused + 1 })
  if (s.die die).reserves idx x then again
  else match s.takePacket die x.pkt with
    | some u => u.setPkt die idx (fun y => { y with taken := some t })
    | none => again

/-- A packet of a die at one loop clock, the next that it has not been looked at (06 R142 to R144): its next flit enters where
it has the turn, its head may pass its destination, and it is gone once its last flit has left. No packet of the die is a loop
clock ahead of another. Within a stop it needs no loop. The numbers behind the packets' name the pieces of the writes that have
been taken, four for each, in any order (20 R339). -/
def execLoopPacketArrival (die idx : Nat) (s : State) : Host.Outcome State Fault Refusal :=
  let d := s.die die
  match d.loopPkts[idx]? with
  | none =>
    let j := idx - d.loopPkts.length
    .next (((d.landing[j / 4]?).bind (fun l => s.landPiece die (j / 4) (j % 4) l)).getD s)
  | some x =>
    let t := max x.seen (2 * s.clock)
    match x.loop with
    | none =>
      if 2 * s.clock + 1 < t then .next s
      else match (if d.reserves idx x then none else (s.dropPkt die idx).takePacket die x.pkt) with
        | some u => .next u
        | none => .next (s.setPkt die idx (fun y => { y with refused := y.refused + 1, seen := 2 * s.clock + 2 }))
    | some l =>
      if 2 * s.clock + 1 < t || d.loopPkts.any (fun y => y.loop.isSome && decide (max y.seen (2 * s.clock) < t)) then .next s
      else
        let s := if d.enters die (s.split die) x.src l t = some idx then
            let s := if x.flits.isEmpty then s.setDie die { d with loopTurn := SMap.set d.loopTurn (x.src * 32 + l) (x.source die) } else s
            s.setPkt die idx (fun y => { y with flits := y.flits ++ [(slotAt ((posOf x.src l).getD 0) t, t)] })
          else s
        let s := match x.flits with
          | (_, t0) :: _ => if x.taken.isNone && (t - t0) % 16 = x.hops % 16 then s.headPass die idx t x else s
          | [] => s
        match (s.die die).loopPkts[idx]? with
        | none => .next s
        | some y =>
          if y.taken.isSome && !y.more && y.flits.all (fun f => (y.leaveAt f.2).all (fun u => decide (u ≤ t))) then .next (s.dropPkt die idx)
          else .next (s.setPkt die idx (fun z => { z with seen := t + 1 }))

/-! ### Moving a rank (03 R69) -/

/-- A core at rest: its thread's state can be moved. -/
def State.coreRest (s : State) (core : Nat) : Bool :=
  let c := s.core core
  c.vq.isEmpty && c.ch.toList.all (fun h => h.cmds.isEmpty && h.inFlight = 0) && c.unsent.isEmpty && c.held.isEmpty && c.xmits.isEmpty && c.xsels.isEmpty &&
    c.ways.isNone && c.kin.isEmpty && (List.range 4).all (fun i =>
      let k := 4 * core + i
      let x := s.ctx k
      x.gang.isNone && x.modCnt = 0 && x.sysCnt = 0 && x.relq.isEmpty && x.pendR.isEmpty &&
        !((s.cell (core / 4)).claims.any (fun t => t.2.1 = k)) && !((s.cell (core / 4)).mq.any (fun o => o.key = k)) &&
        !((s.cell (core / 4)).gq.any (fun g => g.key = k)) && !((s.clu (cluOf core)).splats.any (fun t => t.key = k)) &&
        !((s.die (dieOf core)).fq.any (fun f => f.key = k)))

/-- A context's key on the new core. -/
def moveKey (old new k : Nat) : Nat := if k / 4 = old then 4 * new + k % 4 else k

/-- Every line leaves the L1 ways of a core (04 Table 4-6). -/
def State.evictAll (s : State) (core : Nat) : State := (s.core core).l1.foldl (fun t l => t.evict core l.line) s

/-- The state of a core's thread stands on another core: contexts, array, queues, carousel entries, launch queue, the
mailboxes bound to it, and its places behind stage queues. The lines of both cores' L1 ways are evicted. -/
def State.moveThread (s : State) (part old new : Nat) : State :=
  let s := (s.evictAll old).evictAll new
  let c := s.core old
  -- the words that fail travel with the array's contents; the other marks of the two arrays are their own
  let ecc := (s.core new).ecc.exit
  let c' : Core := { c with l1 := [], tlb := [], rcache := [], ecc := { ecc with bad := c.ecc.exit.bad, single := [] },
                            subs := c.subs.map (fun b => (b.1, { b.2 with key := moveKey old new b.2.key })) }
  let s := (s.setCore new c').setCore old { Core.reset with ecc := c.ecc }
  let s := (List.range 4).foldl (fun t i =>
    let x := t.ctx (4 * old + i)
    let w := x.watch.map (fun e => match e.tgt with
      | .scratch k off => { e with tgt := if k = old then WatchTarget.scratch new off else e.tgt }
      | _ => e)
    (t.setCtx (4 * new + i) { x with watch := w }).setCtx (4 * old + i) Ctx.reset) s
  let p := s.part part
  let s := s.setPart part { p with dir := p.dir.map (fun e => if e.2.1 = old then (e.1, new, e.2.2) else e),
                                   graph := p.graph.map (fun g => { g with queues := g.queues.map (fun q => { q with wait := q.wait.map (moveKey old new) }) }) }
  -- cores at rest have met every marker on their channels (04 R93)
  let s : State := { s with markers := s.markers.map (fun m => { m with queues := m.queues.filter (fun q => !(q.1 = 0 && (q.2.1 / 4 = old || q.2.1 / 4 = new))) }) }
  { s with clus := s.clus.map (fun kc => (kc.1, { kc.2 with records := kc.2.records.map (fun r => (r.1, moveKey old new r.2.1, r.2.2)) })) }

/-- A message for a moved rank goes to its new core. -/
def HeldMsg.toCore (new : Nat) : HeldMsg → HeldMsg
  | .launch _ h => .launch new h
  | .key _ u => .key new u
  | .write _ a d src ch off x => .write new a d src ch off x
  | .remote op => .remote op

/-- The held messages of a rank are replayed to its core in their order, behind those that its cell holds, of which it holds at
most 4,096 (12 R258). None while they do not fit. -/
def State.replayHeld (s : State) (part core : Nat) : List HeldMsg → Option State
  | [] => some s
  | m :: t =>
    let now := if (SMap.get (s.cell (core / 4)).holding [] part).isEmpty then s.deliverHeld (core / 4) (m.toCore core) else none
    match now with
    | some u => u.replayHeld part core t
    | none => (s.holdMsg (core / 4) part (m.toCore core)).bind (fun u => u.replayHeld part core t)

/-- A cell out of service whose last rank and last running context have moved leaves its partition (11 R248). -/
def State.retire (s : State) (part cell : Nat) : State :=
  let p := s.part part
  if !((s.cell cell).oos || (s.cell cell).dq) || !(List.range 16).all (fun i => (s.ctx (16 * cell + i)).cs = .idle) || (s.rankList part).any (fun r => bit r.2 63 && bits r.2 17 2 = cell) then s
  else (s.setPart part { p with cells := p.cells.filter (fun c => c ≠ cell) }).setCell cell { s.cell cell with part := none }

/-- A core of a disqualified cell that holds no rank is moved as one that does; the event names it by 2^20 and its coordinate (11
R248; notes/assumptions/114.md). DESIGN CHOICE. -/
def State.moveRankless (s : State) (part old newCore : Nat) : Option State :=
  if (s.cell (old / 4)).oos && (s.cell (old / 4)).part = some part && s.coreRest old then some ((s.moveThread part old newCore).retire part (old / 4)) else none

/-- The first step marks the rank in transit; the second, with the old core at rest and the new one free, moves the
thread, writes COORD, replays what was held and clears T. -/
def execThreadMove (part rank newCore : Nat) (s : State) : Host.Outcome State Fault Refusal :=
  let p := s.part part
  let e := s.rankEntry part rank
  let old := if rank < 2 ^ 20 then bits e 17 0 else rank % 2 ^ 18
  let ok := p.live && (if rank < 2 ^ 20 then bit e 63 else !((s.rankList part).any (fun r => bit r.2 63 && bits r.2 17 0 = old))) && old ≠ newCore && (s.cell (newCore / 4)).part = some part && s.validCell (newCore / 4) &&
    newCore < 2 ^ 18 && (List.range 4).all (fun i => (s.ctx (4 * newCore + i)).cs = .idle) && (s.core newCore).launchQ.isEmpty && s.coreRest newCore &&
    !((s.rankList part).any (fun r => bit r.2 63 && bits r.2 17 0 = newCore))
  if !ok then .next s
  else if 2 ^ 20 ≤ rank then .next ((s.moveRankless part old newCore).getD s)
  else if !bit e 62 then .next (s.setRank part rank (e ||| 0x4000000000000000))
  else if !s.coreRest old || (s.cell (old / 4)).part ≠ some part then .next s
  else
    let t := s.moveThread part old newCore
    let p := t.part part
    let held := (p.transit.filter (fun t => t.1 = rank)).map Prod.snd
    let s' := (t.setPart part { p with transit := p.transit.filter (fun t => t.1 ≠ rank) }).setRank part rank (0x8000000000000000 ||| BitVec.ofNat 64 newCore)
    .next (((s'.replayHeld part newCore held).map (fun t => t.retire part (old / 4))).getD s)

/-! ### The fabric (06 R158 to R161) -/

/-- A code that only a notice to firmware may carry, for reports whose code the spec does not name (12 R270): one of those
that Table 12-10 gives kind F. -/
def firmCode (free : Nat) : Nat := [0x33, 0x34, 0x35, 0x58].getD (Config.freeNat free % 4) 0x33

/-- The packets that leave by a port. -/
def State.routed (s : State) (die port : Nat) (p : Packet) : Bool := s.egress p.dstMod = some (die, port)

/-- A link that has failed 16 replays in a row is taken down and reported; what is queued on it goes back to its senders. -/
def State.linkDown (s : State) (die port : Nat) : State :=
  let q := (s.die die).port port
  let mine := q.buf.flatMap Prod.snd ++ s.fabOut.filter (fun p => s.routed die port p)
  let s : State := { s with fabOut := s.fabOut.filter (fun p => !s.routed die port p) }
  let s := s.setPort die port { q with up := false, replays := 0, buf := [], again := [], asked := 0 }
  mine.foldl (fun t p => t.returnPacket die (portStop port) p) ((s.bump 1).fabricNotice (firmCode s.free) (stopCoord die (portStop port)))

/-- The other side asks for a replay: the groups in the replay buffer are sent again, in their order. -/
def State.askReplay (s : State) (die port : Nat) : State :=
  let q := (s.die die).port port
  if !q.up then s
  else if 16 ≤ q.replays then s.linkDown die port
  else s.setPort die port { q with replays := q.replays + 1, again := q.buf.map Prod.fst }

def execFabricReplay (die port : Nat) (s : State) : Host.Outcome State Fault Refusal :=
  .next (if 8 ≤ die || 2 ≤ port then s else s.askReplay die port)

/-- Packets of up to n flits from the front, and those left. -/
def takeFlits : Nat → List Packet → List Packet × List Packet
  | _, [] => ([], [])
  | n, p :: t => if p.len + 1 ≤ n then ((p :: (takeFlits (n - (p.len + 1)) t).1), (takeFlits (n - (p.len + 1)) t).2) else ([], p :: t)

/-- Flits in a replay buffer. -/
def Port.flits (q : Port) : Nat := q.buf.foldl (fun a g => g.2.foldl (fun b p => b + p.len + 1) a) 0

/-- This side judges the group that a control flit ends: one whose CRC does not match, or whose number is not the next, must be
sent again, and this side asks for it (R159). -/
def Port.judge (q : Port) (flit : ControlFlit) : Port :=
  if flit.crc = Config.crc32 flit.flits && flit.seq = q.heard + 1 then { q with heard := flit.seq, asked := 0 } else { q with asked := q.asked + 1 }

/-- A control flit from the other side (R159): its own group is judged; it may ask for a replay; or it gives the flits that the
other side can take and the last group it has. Then a group that is to be sent again leaves, else the next one of up to 31 flits,
which enters the replay buffer. A packet leaves behind those for its module that were sent before it (R161). -/
def execFabricControlFlit (die port : Nat) (flit : ControlFlit) (s : State) : Host.Outcome State Fault Refusal :=
  if 8 ≤ die || 2 ≤ port then .next s
  else
    let old := (s.die die).port port
    let q := old.judge flit
    if !old.up || old.frozen then .next s
    else if 16 < q.asked then .next ((s.setPort die port q).linkDown die port)
    else if flit.good = 0 then .next ((s.setPort die port q).askReplay die port)
    else
      let q := { q with buf := q.buf.filter (fun g => decide (flit.ack < g.1)), replays := 0, again := q.again.filter (fun g => decide (flit.ack < g)) }
      if !q.again.isEmpty then .next (s.setPort die port { q with again := q.again.drop 1 })
      else
      let mov := s.moving
      let may := s.fabOut.filter (fun p => s.routed die port p && !mov.any (fun m => m.dstMod = p.dstMod && decide (m.seq < p.seq)))
      let r := (takeFlits (min 31 (min flit.credits (256 - q.flits))) may).1
      let n := r.foldl (fun a p => a + p.len + 1) 0
      let t : State := { s with fabOut := s.fabOut.filter (fun p => !r.contains p) }
      .next (t.setPort die port { q with credits := flit.credits - n, seqno := q.seqno + 1, buf := if r.isEmpty then q.buf else q.buf ++ [(q.seqno + 1, r)] })

/-- Firmware's route table: of each word, the destination module in [63:52], the egress die in [51:49], its port in [48] and
the fabric VC in [47:46] (notes/assumptions/98.md). DESIGN CHOICE. -/
def State.writeRoutes (s : State) (l : List Word) : State :=
  { s with routes := l.foldl (fun r w => SMap.set r (bits w 63 52) (bits w 51 49, bits w 48 48, bits w 47 46)) s.routes }

/-- A port's link is up, and firmware's routes are written; port 0 of die 0, which the boot ROM trains from step 3 on, lets
bring-up go on, and the others follow from step 7 on (13 R284). -/
def execFabricLinkUp (die : Nat) (link : LinkUp) (s : State) : Host.Outcome State Fault Refusal :=
  if 8 ≤ die || 2 ≤ link.port || s.boot < (if die = 0 && link.port = 0 then 3 else 7) then .next s
  else
    let s := (s.setPort die link.port { Port.reset with up := true }).writeRoutes link.routes
    .next (if die = 0 && link.port = 0 && s.boot = 3 then s.bringUp else s)

/-- A launch message of another module (notes/assumptions/96.md, DESIGN CHOICE). -/
def fabricMessage (p : Packet) (b : List Byte) : Message :=
  { mbox := BitVec.ofNat 64 p.pa, start := BitVec.ofNat 64 (leNat ((b.drop 65).take 8)), hdr := leWords 8 b, part := ((b[64]?).getD 0).toNat % 64, kind := 6, sender := p.srcMod, task := p.tag }

/-- The answer to a launch message that this module sent. -/
def State.fabricAnswer (s : State) (tag status : Nat) : State :=
  match SMap.find s.fabWait tag with
  | none => s
  | some m =>
    let s : State := { s with fabWait := SMap.drop s.fabWait tag }
    if status = 0 then s.accept m else s.refuse m status

/-- A fabric packet for this module: a launch message or the answer to one; a read or write of a partition's memory, which no
binding allows another module, freezes the port (12 R266); any other goes to its stop. -/
def State.fabricHere (s : State) (die port : Nat) (p : Packet) (b : List Byte) : State :=
  if p.op = 0xC0 then { s with hwMsgs := s.hwMsgs ++ [fabricMessage p b] }
  else if p.op = 0xC5 then s.fabricAnswer p.tag ((b[0]?).getD 0).toNat
  else if p.op = 0xC1 || p.op = 0xC2 then
    (s.setPort die port { (s.die die).port port with frozen := true }).causeNotice (((b[64]?).getD 0).toNat % 64) (cz 0x25) 14 (stopCoord die (portStop port)) 0 0
  else s.sendFrom die (portStop port) { p with src := die, dir := ringDir die p.dst }

/-- The packet that a header, its fabric word and its payload make. -/
def fabricPacket (hdr : BitVec 128) (fab : BitVec 64) (b : List Byte) : Packet :=
  { dst := bits hdr 127 125, src := bits hdr 124 122, vc := 0, dir := bits hdr 120 120, len := bits hdr 119 117, cls := bits hdr 116 115, stamp := none,
    core := bits hdr 113 96, from' := bits hdr 95 78, tag := bits hdr 77 64, op := bits hdr 63 56, pa := bits hdr 51 0, payload := .bytes b,
    dstMod := bits fab 63 52, srcMod := bits fab 51 40, fvc := bits fab 39 38, hops := bits fab 37 32, seq := 0 }

/-- A fabric packet arrives at a port (06 R160). One of a group that this side has asked for
again is dropped, since it comes once more (R159). One of a host adapter comes with its host agent; its launches, reads, writes
and bias flips are the events of their own, and a management request is firmware's. A reserved LEN, and any other OP of a host adapter, is discarded and reported (R154, 13 R273), and so
is a packet whose HOPS reaches 63. One for another module goes on over the package ring to the port of its route. -/
def execFabricPacketArrival (die port : Nat) (pkt : FabricFlits) (s : State) : Host.Outcome State Fault Refusal :=
  let p := fabricPacket pkt.hdr pkt.fab pkt.payload
  let q := (s.die die).port port
  let here := stopCoord die (portStop port)
  if 8 ≤ die || 2 ≤ port || !q.up || q.frozen || q.asked ≠ 0 then .next s
  else if 5 ≤ p.len then .next (s.fabricNotice 0x34 here)
  else if p.dstMod = s.modNum then
    if pkt.host ≠ 0 then .next (if p.op = 0xC4 then s.hostMgmt pkt.host p.tag (leWords ((pkt.payload.length + 7) / 8) pkt.payload)
      else if 0xC0 ≤ p.op && p.op ≤ 0xC3 then s else s.fabricNotice 0x34 here)
    else .next (s.fabricHere die port p pkt.payload)
  else if 63 ≤ p.hops + 1 then .next (s.fabricNotice 0x33 here)
  else .next ((s.sendOut die (portStop port) { p with hops := p.hops + 1 }).getD (s.returnPacket die (portStop port) p))

end Sys2Proof.Machine
end

