-- ==== Sys2Proof/Machine/Arrays.lean ====
section
/-! DEFINITION. Fills, retries, page walks, soft errors and retention mode (03 R70 to R81). -/

namespace Sys2Proof.Machine

/-! ### Fills (03 R76, 13 R280) -/

/-- A fill of the whole line arrives, for the requests that wait or for another; a line the slice already holds under the
key keeps its tag. -/
def execSliceFill (pa keyid : Nat) (s : State) : Host.Outcome State Fault Refusal :=
  .next (if (SMap.get (s.clu (homeClu pa)).miss [] (pa / 128)).isEmpty then s.nearTouch keyid (pa / 128 * 128) 15 0 else s.mergeFill pa)

/-- A request that got a retry is sent again after 64 clocks. -/
def execMissRetry (clu : Nat) (s : State) : Host.Outcome State Fault Refusal :=
  let u := s.clu clu
  match u.retry with
  | [] => .next s
  | (line, r) :: t =>
    if s.clock < r.again then .next s
    else
      let s := s.setClu clu { u with retry := t }
      .next (if s.nearHolds (line * 128) r.keyid then s.cacheTouch r.coord r.keyid (line * 128) 128 false false false else s.askFill line r)

/-! ### Page walks (03 R70 to R72) -/

/-- A walk for a core completes: its result stands in the cluster TLB and the core's. A walk that fails leaves nothing. -/
def execPageWalk (core : Nat) (va : BitVec 64) (s : State) : Host.Outcome State Fault Refusal :=
  let part := s.partOf core
  match spaceOf va with
  | .translated =>
    let t := s.walkTouch va.toNat walkLevels (bits (s.part part).desc[0] 51 12 * 4096)
    match s.walk part va.toNat with
    | .error _ => .next t
    | .ok (e, lg) => .next ((t.ctlbAdd (cluOf core) part va.toNat e lg).coreTlbAdd core part va.toNat e lg)
  | _ => .next s

/-! ### Soft errors (03 R80) -/

/-- A word of an array takes one flipped bit, or more than one. In retention mode the errors of a pair are counted until
the array leaves it (R81). -/
def Ecc.hit (e : Ecc) (w : Nat) (double : Bool) : Ecc :=
  if e.bad.contains w then e
  else if e.ret then { e with retErr := SMap.set e.retErr (w / 2) (SMap.get e.retErr 0 (w / 2) + (if double then 2 else 1)) }
  else if double || e.single.contains w then { e with bad := w :: e.bad, single := e.single.filter (fun x => x ≠ w) }
  else { e with single := w :: e.single }

/-- One more corrected error; the count saturates. -/
def Ecc.count (e : Ecc) : Ecc := { e with corr := min (e.corr + 1) 0xFFFFFFFF }

/-- An error in a way of a core's array that is cache: a clean sector is invalidated and refilled, and counts as corrected;
a dirty one fails for every reader of the word. -/
def State.cacheError (s : State) (core w : Nat) (double : Bool) : State :=
  let c := s.core core
  match c.l1.find? (fun l => l.way = w / 512 && l.line % 32 = w % 512 / 16) with
  | none => s
  | some l =>
    if !double then s.setCore core { c with ecc := c.ecc.count }
    else if l.dirty.getLsbD (w % 16 / 4) then { s with memEcc := s.memEcc.hit (l.line * 16 + w % 16) true }
    else
      let keep := c.l1.map (fun x => if x.line = l.line then { x with valid := x.valid &&& ~~~(BitVec.ofNat 4 (2 ^ (w % 16 / 4))) } else x)
      s.setCore core { c with ecc := c.ecc.count, l1 := keep.filter (fun x => x.valid ≠ 0) }

/-- An error in a word of near memory, by its physical word number. A GDDR word whose sector is clean has a good copy
below: the sector is invalidated, its next reader refills it, and it counts as corrected. -/
def State.sliceError (s : State) (clu w : Nat) (double : Bool) : State :=
  let u := s.clu clu
  let pa := 8 * w
  let two := double || s.memEcc.single.contains w
  if !s.backed pa || homeClu pa ≠ clu then s
  else if !isGddr pa then
    if u.ecc.ret then s.setClu clu { u with ecc := u.ecc.hit w double } else { s with memEcc := s.memEcc.hit w double }
  else match SMap.find u.near (pa / 128) with
    | none => s
    | some l =>
      if l.valid &&& secBit w = 0 then s
      else if u.ecc.ret then s.setClu clu { u with ecc := u.ecc.hit w double }
      else if two && l.dirty &&& secBit w = 0 then
        { (s.setClu clu (u.refill w)) with memEcc := { s.memEcc with single := s.memEcc.single.filter (fun x => x ≠ w) } }
      else { s with memEcc := s.memEcc.hit w double }

/-- Kinds: 0 a core's array, 1 a cell's operand memory, 2 a near-memory slice, by its cluster. -/
def execSoftError (kind idx wordIdx double : Nat) (s : State) : Host.Outcome State Fault Refusal :=
  let two := double ≠ 0
  .next (match kind with
    | 0 => if 3072 ≤ wordIdx then s
      else if (s.core idx).waym.getLsbD (wordIdx / 512) then s.setCore idx { s.core idx with ecc := (s.core idx).ecc.hit wordIdx two }
      else s.cacheError idx wordIdx two
    | 1 => if 2048 ≤ wordIdx then s else s.setCell idx { s.cell idx with opEcc := (s.cell idx).opEcc.hit wordIdx two }
    | 2 => s.sliceError idx wordIdx two
    | _ => s)

/-! ### Retention mode (03 R81) -/

/-- On entry every word is corrected and the errors of its pair count from none. -/
def Ecc.enter (e : Ecc) : Ecc :=
  if e.ret then e
  else { e with ret := true, single := [], retErr := [], corr := min (e.corr + e.single.length) 0xFFFFFFFF }

/-- A change of an array's error bookkeeping, by kind and index. -/
def State.onEcc (s : State) (kind idx : Nat) (f : Ecc → Ecc) : State := match kind with
  | 0 => s.setCore idx { s.core idx with ecc := f (s.core idx).ecc }
  | 1 => s.setCell idx { s.cell idx with opEcc := f (s.cell idx).opEcc }
  | 2 => s.setClu idx { s.clu idx with ecc := f (s.clu idx).ecc }
  | _ => s

/-- A slice enters retention mode: the single errors of its words are corrected and counted. -/
def State.restSlice (s : State) (clu : Nat) : State :=
  let u := s.clu clu
  if u.ecc.ret then s
  else
    let mine := fun (w : Nat) => decide (homeClu (8 * w) = clu)
    let n := (s.memEcc.single.filter mine).length
    { (s.setClu clu { u with ecc := { u.ecc with ret := true, retErr := [], corr := min (u.ecc.corr + n) 0xFFFFFFFF } }) with
        memEcc := { s.memEcc with single := s.memEcc.single.filter (fun w => !mine w) } }

def execRetentionEntry (kind idx : Nat) (s : State) : Host.Outcome State Fault Refusal :=
  .next (if kind = 2 then s.restSlice idx else s.onEcc kind idx Ecc.enter)
/-- On exit a pair that the code cannot correct is stored failing. -/
def execRetentionExit (kind idx : Nat) (s : State) : Host.Outcome State Fault Refusal :=
  .next (if kind = 2 then s.wakeSlice idx else s.onEcc kind idx Ecc.exit)

end Sys2Proof.Machine
end

