-- ==== Sys2Proof/Machine/Branch.lean ====
section
/-! DEFINITION. Control flow: majors 18 to 27 (22 R355, 23 R386, R390, R391). -/

namespace Sys2Proof.Machine

/-- A branch taken when p holds. -/
def State.condBranch (s : State) (len : Nat) (p : Bool) (off : Word) : Host.Outcome State Fault Refusal :=
  .next (if p then s.setCx (s.cx.branch (s.cx.pc + off)) else s.skip len)

def execBeq (a b : BitVec 5) (o : BitVec 15) (s : State) : Host.Outcome State Fault Refusal :=
  s.condBranch 4 (s.cx.s a = s.cx.s b) (soff o)
def execBne (a b : BitVec 5) (o : BitVec 15) (s : State) : Host.Outcome State Fault Refusal :=
  s.condBranch 4 (s.cx.s a ≠ s.cx.s b) (soff o)
def execBlt (a b : BitVec 5) (o : BitVec 15) (s : State) : Host.Outcome State Fault Refusal :=
  s.condBranch 4 ((s.cx.s a).slt (s.cx.s b)) (soff o)
def execBge (a b : BitVec 5) (o : BitVec 15) (s : State) : Host.Outcome State Fault Refusal :=
  s.condBranch 4 (!(s.cx.s a).slt (s.cx.s b)) (soff o)
def execBltu (a b : BitVec 5) (o : BitVec 15) (s : State) : Host.Outcome State Fault Refusal :=
  s.condBranch 4 ((s.cx.s a).ult (s.cx.s b)) (soff o)
def execBgeu (a b : BitVec 5) (o : BitVec 15) (s : State) : Host.Outcome State Fault Refusal :=
  s.condBranch 4 (!(s.cx.s a).ult (s.cx.s b)) (soff o)

def execJmp (i : BitVec 20) (s : State) : Host.Outcome State Fault Refusal :=
  .next (s.setCx (s.cx.branch (s.cx.pc + soff i)))
/-- JAL ends no level of the LOOP nest (23 R391). -/
def execJal (d : BitVec 5) (i : BitVec 20) (s : State) : Host.Outcome State Fault Refusal :=
  .next (s.setCx { (s.cx.setS d (s.cx.pc + 4)) with pc := s.cx.pc + soff i })
/-- JALR: an odd target traps with 0x07 and nothing changes. -/
def execJalr (d a : BitVec 5) (i : BitVec 15) (s : State) : Host.Outcome State Fault Refusal :=
  s.out (do
    let t := s.cx.s a + simm i
    need (!t.getLsbD 0) (cz 0x07)
    .ok (s.setCx { (s.cx.setS d (s.cx.pc + 4)) with pc := t }))

/-! ### LOOP (23 R390) -/

/-- The last of the n + 1 words from a, and its length; the cause of a fetch fault (with its address). -/
def State.wordsFrom (s : State) (k : Nat) : Nat → Word → Except CauseRec (Word × Nat)
  | 0, a => (s.fetchHalf k a).map (fun h => (a, if h.getLsbD 0 then 4 else 2))
  | n + 1, a => match s.fetchHalf k a with
    | .error c => .error c
    | .ok h => s.wordsFrom k n (a + (if h.getLsbD 0 then 4 else 2))

def execLoop (a : BitVec 5) (n : BitVec 15) (s : State) : Host.Outcome State Fault Refusal :=
  s.out (do
    let x := s.cx
    need (n ≠ 0) (cz 0x02)
    need (x.loops.length < 3) (cz 0x06)
    need (!(x.loops.any (fun l => l.last = x.pc))) (cz 0x02)
    let start := x.pc + 4
    let (last, len) ← (s.wordsFrom s.cur (n.toNat - 1) start).mapError Stop.trap
    need (!(x.loops.any (fun l => start ≤ l.last && l.last ≤ last))) (cz 0x02)
    if x.s a = 0 then .ok (s.setCx { x with pc := last + BitVec.ofNat 64 len })
    else .ok (s.setCx { x with pc := start, loops := { start := start, last := last, rem := x.s a } :: x.loops }))

end Sys2Proof.Machine
end

