-- ==== Sys2Proof/Machine/Compressed.lean ====
section
/-! DEFINITION. Compressed words, each with the effect of its 32-bit word and 2 bytes long (15 R315, R316), and the words
that are no instruction (15 R292, R298). -/

namespace Sys2Proof.Machine

/-- S(rd) := f(S(rd), S(rs)). -/
def State.cAlu (s : State) (d r : BitVec 3) (f : Word → Word → Word) : Host.Outcome State Fault Refusal :=
  .next (s.wr 2 (creg d) (f (s.cx.s (creg d)) (s.cx.s (creg r))))

def execCNop (s : State) : Host.Outcome State Fault Refusal := .next (s.skip 2)
def execCMov (d r : BitVec 3) (s : State) : Host.Outcome State Fault Refusal := s.cAlu d r (fun _ y => y)
def execCAdd (d r : BitVec 3) (s : State) : Host.Outcome State Fault Refusal := s.cAlu d r (fun x y => x + y)
def execCSub (d r : BitVec 3) (s : State) : Host.Outcome State Fault Refusal := s.cAlu d r (fun x y => x - y)
def execCAnd (d r : BitVec 3) (s : State) : Host.Outcome State Fault Refusal := s.cAlu d r (fun x y => x &&& y)
def execCAddi (d : BitVec 3) (i : BitVec 8) (s : State) : Host.Outcome State Fault Refusal :=
  s.cAlu d d (fun x _ => x + simm i)
def execCShli (d : BitVec 3) (h : BitVec 6) (s : State) : Host.Outcome State Fault Refusal :=
  s.cAlu d d (fun x _ => x <<< h.toNat)
def execCLdw (d r : BitVec 3) (o : BitVec 5) (s : State) : Host.Outcome State Fault Refusal :=
  s.out (s.loadTo 2 4 (addrC s.cx r o 4) (creg d) (loadExt 2))
def execCStw (v r : BitVec 3) (o : BitVec 5) (s : State) : Host.Outcome State Fault Refusal :=
  s.out (s.storeFrom 2 4 (addrC s.cx r o 4) (s.cx.s (creg v)))
def execCLdd (d r : BitVec 3) (o : BitVec 5) (s : State) : Host.Outcome State Fault Refusal :=
  s.out (s.loadTo 2 8 (addrC s.cx r o 8) (creg d) (loadExt 3))
def execCStd (v r : BitVec 3) (o : BitVec 5) (s : State) : Host.Outcome State Fault Refusal :=
  s.out (s.storeFrom 2 8 (addrC s.cx r o 8) (s.cx.s (creg v)))
def execCBeqz (r : BitVec 3) (o : BitVec 8) (s : State) : Host.Outcome State Fault Refusal :=
  s.condBranch 2 (s.cx.s (creg r) = 0) (soff o)
def execCBnez (r : BitVec 3) (o : BitVec 8) (s : State) : Host.Outcome State Fault Refusal :=
  s.condBranch 2 (s.cx.s (creg r) ≠ 0) (soff o)
def execCJmp (o : BitVec 11) (s : State) : Host.Outcome State Fault Refusal :=
  .next (s.setCx (s.cx.branch (s.cx.pc + soff o)))

def execZeroWord (s : State) : Host.Outcome State Fault Refusal := .next (s.stopped (.trap (cz 0x00)))
def execReservedMajor (_ : BitVec 32) (s : State) : Host.Outcome State Fault Refusal := .next (s.stopped (.trap (cz 0x01)))

end Sys2Proof.Machine
end

