-- ==== Sys2Proof/Machine/Encoder.lean ====
section
/-! DEFINITION. The encoder: tiles, frames and their output (08 R200 to R203). -/

namespace Sys2Proof.Machine

/-- Width and height of a stream's frames in tiles. -/
def Stream.tilesX (t : Stream) : Nat := (encW t.reg[0] + 15) / 16
def Stream.tilesY (t : Stream) : Nat := (encH t.reg[0] + 15) / 16

/-- A count of ENCF, at bit lo, rises by n and saturates. -/
def Stream.count (t : Stream) (lo n : Nat) : Stream :=
  let f := t.reg[5]
  let v := min (bits f (lo + 15) lo + n) 0xFFFF
  { t with reg := t.reg.set 5 ((f &&& ~~~((0xFFFF : Word) <<< lo)) ||| (BitVec.ofNat 64 v <<< lo)) }

/-- The stream as one of its two open frames sees it: the second comes under the writes that wait (R201). -/
def Stream.atFrame (t : Stream) (f : Nat) : Stream := if f = t.closed then t else t.apply

/-- A frame has closed: the second open one may have, before the oldest. -/
def Stream.isClosed (t : Stream) (f : Nat) : Bool := decide (f < t.closed) || (t.early.isSome && f = t.closed + 1)

/-- The oldest tile of fq reaches its stream; one for a frame not yet open waits. -/
def execEncoderTileArrival (die : Nat) (s : State) : Host.Outcome State Fault Refusal :=
  let d := s.die die
  match d.fq with
  | [] => .next s
  | f :: rest =>
    let t := s.stream die f.stream
    let g := t.atFrame f.frame
    if !s.mayBegin 4 die || t.closed + 2 ≤ f.frame then .next s
    else
      let t := if g.tilesY ≤ f.ty || g.tilesX ≤ f.tx then t.count 16 1
        else if t.isClosed f.frame then t.count 48 1
        else { t with tiles := (f.frame, f.ty, f.tx, f.data) :: t.tiles.filter (fun x => !(x.1 = f.frame && x.2.1 = f.ty && x.2.2.1 = f.tx)) }
      .next ((s.setDie die { d with fq := rest }).setStream die f.stream t)

/-- The deadline of a stream's frame f (08 R202). -/
def Stream.deadline (t : Stream) (f : Nat) : Nat := t.reg[1].toNat + f * bits t.reg[2] 31 0

/-- The positions of a frame. -/
def Stream.grid (t : Stream) : List (Nat × Nat) := (List.range t.tilesY).flatMap (fun y => (List.range t.tilesX).map (fun x => (y, x)))

/-- The tile of an open frame at a position. -/
def Stream.tileAt (t : Stream) (f : Nat) (p : Nat × Nat) : Option (List Byte) :=
  (t.tiles.find? (fun x => x.1 = f && x.2.1 = p.1 && x.2.2.1 = p.2)).map (fun x => x.2.2.2)

/-- Every tile of an open frame has arrived. -/
def Stream.whole (t : Stream) (f : Nat) : Bool := (t.atFrame f).grid.all (fun p => (t.tileAt f p).isSome)

/-! ### Pixels (08 R199, R202) -/

/-- A channel in units of 2^-24, clamped to 0 to 1; NaN is 0. -/
def chanUnits (h : Nat) : Int :=
  let e := h / 1024 % 32
  let m := h % 1024
  if 32768 ≤ h || (e = 31 && m ≠ 0) then 0
  else if e = 31 then 2 ^ 24
  else ((min (2 ^ 24) (if e = 0 then m else (1024 + m) * 2 ^ (e - 1)) : Nat) : Int)

/-- R, G and B of pixel (row, column) of a tile; A is ignored. -/
def pixelAt (b : List Byte) (y x : Nat) : Int × Int × Int :=
  let h := fun (i : Nat) => chanUnits (leNat ((b.drop (8 * (16 * y + x) + 2 * i)).take 2))
  (h 0, h 1, h 2)

/-- Luma of a pixel under BT.709, in units of 2^-24 / 10,000. -/
def luma (c : Int × Int × Int) : Int := 2126 * c.1 + 7152 * c.2.1 + 722 * c.2.2

/-- Y' in limited range, in code units of 2^-24 / 10,000 at a bit depth. -/
def codeY (depth : Nat) (c : Int × Int × Int) : Int := (16 * 10000 * 2 ^ 24 + 219 * luma c) * 2 ^ (depth - 8)
/-- Cb and Cr in limited range, in code units of 2^-24 / 18,556 and 2^-24 / 15,748. -/
def codeCb (depth : Nat) (c : Int × Int × Int) : Int := (128 * 18556 * 2 ^ 24 + 224 * (10000 * c.2.2 - luma c)) * 2 ^ (depth - 8)
def codeCr (depth : Nat) (c : Int × Int × Int) : Int := (128 * 15748 * 2 ^ 24 + 224 * (10000 * c.1 - luma c)) * 2 ^ (depth - 8)

/-- What a tile gives the encoder: luma of each pixel, and the sums of Cb and Cr over each 2×2 block, four times their mean.
How a value is rounded to its code the spec does not state: it is the encoder's (notes/assumptions/99.md, DESIGN CHOICE). -/
def tileCodes (depth : Nat) (b : List Byte) : List Int :=
  let blocks := (List.range 8).flatMap (fun y => (List.range 8).map (fun x => (2 * y, 2 * x)))
  let four := fun (f : Int × Int × Int → Int) (p : Nat × Nat) =>
    f (pixelAt b p.1 p.2) + f (pixelAt b p.1 (p.2 + 1)) + f (pixelAt b (p.1 + 1) p.2) + f (pixelAt b (p.1 + 1) (p.2 + 1))
  (List.range 16).flatMap (fun y => (List.range 16).map (fun x => codeY depth (pixelAt b y x))) ++
    blocks.map (four (codeCb depth)) ++ blocks.map (four (codeCr depth))

/-- Bits of a sample. -/
def Stream.depth (t : Stream) : Nat := if bit t.reg[0] 61 then 10 else 8

/-! ### Frames (08 R202, R203) -/

/-- A tile that the spec gives no bytes: one that is missing where there is no previous frame (notes/assumptions/99.md, DESIGN CHOICE). -/
def freeTile (free n : Nat) : List Byte := (List.range 2048).map (fun i => Config.freeByte (free + 2048 * n + i))

/-- The oldest open frame closes with the tiles it has: a missing one repeats the co-located area of the previous frame. -/
def Stream.encode (t : Stream) (free : Nat) (tile : Nat × Nat → Option (List Byte)) : Stream :=
  let frame := t.grid.mapIdx (fun i p => (p.1, p.2, match tile p with
    | some b => b
    | none => ((t.prev.find? (fun x => x.1 = p.1 && x.2.1 = p.2)).map (fun x => x.2.2)).getD (freeTile free i)))
  let missing := (t.grid.filter (fun p => (tile p).isNone)).length
  let b := Config.bitstream t.reg.toList t.closed (frame.flatMap (fun x => tileCodes t.depth x.2.2))
  let t := t.count 48 missing
  ({ t with tiles := t.tiles.filter (fun x => x.1 ≠ t.closed), prev := frame, out := t.out ++ [(t.closed, t.reg, t.part, b)], closed := t.closed + 1 } : Stream).apply

/-- The oldest open frame closes, and with it the next one where that is whole already: bitstreams come in order. The frame
numbers go on where a stream is disabled and enabled again (notes/assumptions/99.md). DESIGN CHOICE. -/
def Stream.close (t : Stream) (free : Nat) : Stream :=
  let u := t.encode free (t.tileAt t.closed)
  match t.early with
  | none => u
  | some l => ({ u with early := none } : Stream).encode free (fun p => (l.find? (fun x => x.1 = p.1 && x.2.1 = p.2)).map (fun x => x.2.2))

/-- The second open frame closes, whole, before the oldest. -/
def Stream.closeNext (t : Stream) : Stream :=
  let f := t.closed + 1
  { t with early := some ((t.tiles.filter (fun x => x.1 = f)).map (fun x => x.2)), tiles := t.tiles.filter (fun x => x.1 ≠ f) }

/-- A frame closes when it is whole, or at its deadline less the encoding time, which the spec does not state. -/
def execFrameClose (die stream : Nat) (s : State) : Host.Outcome State Fault Refusal :=
  let t := s.stream die stream
  if 8 ≤ stream || !bit t.reg[0] 63 then .next s
  else if t.whole t.closed || t.deadline t.closed ≤ s.pace.toNat || t.deadline t.closed ≤ s.pace.toNat + Config.freeNat s.free then
    .next ((s.setStream die stream (t.close (s.free + 1))).bump (1 + 2048 * t.grid.length))
  else if t.early.isNone && t.whole (t.closed + 1) then .next (s.setStream die stream t.closeNext)
  else .next s

/-- Bytes written into the output ring from a position on, in two parts where they pass its end. -/
def State.ringWrite (s : State) (die part : Nat) (base : Word) (size at' : Nat) (b : List Byte) : State × Option CauseRec :=
  match s.partStore die part (base + BitVec.ofNat 64 (at' % size)) (b.take (size - at' % size)) with
  | (u, none) => u.partStore die part base (b.drop (size - at' % size))
  | r => r

/-- The die that holds a write into the output ring (04 R87). -/
def State.ringHold (s : State) (die part : Nat) (base : Word) (size at' n : Nat) : Bool :=
  (s.partHold die part (base + BitVec.ofNat 64 (at' % size)) (min n (size - at' % size))).isSome ||
    (s.partHold die part base (n - (size - at' % size))).isSome

/-- The bytes of a stream's ring. A SIZE above 18 is taken as 18: the spec gives the range and not what such a value does
(notes/assumptions/99.md). DESIGN CHOICE. -/
def ringSize (d : Word) : Nat := 4096 * 2 ^ (min (bits d 11 5) 18)

/-- The frame at the head of a stream's output is written to its ring and posted; one that would pass the consumer is
dropped. A fault of the ring or the counter drops it too, and goes to the supervisor; "partition mismatch" freezes the output
at the frame (12 R266). The ring's position goes on from the bytes written so far, also under a new ring
(notes/assumptions/99.md). DESIGN CHOICE. -/
def execFrameOutput (die stream : Nat) (s : State) : Host.Outcome State Fault Refusal :=
  let t := s.stream die stream
  match t.out with
  | [] => .next s
  | (_, reg, part, b) :: rest =>
    let core := stopCoord die encoderStop
    let base : Word := BitVec.ofNat 64 (bits reg[3] 55 12 * 4096)
    let size := ringSize reg[3]
    let octr := reg[4]
    let t0 := { t with out := rest }
    let lost := fun (u : State) (c : CauseRec) =>
      (u.setStream die stream (if c.code = 0x25 then { t with frozen := true } else t0.count 32 1)).causeNotice part c 9 core 0 0
    if t.frozen then .next s
    else match s.unitCounter core part false (octr + 8) with
    | .error c => .next (lost s c)
    | .ok p => match s.readPlace (4 * core) p 8 (octr + 8) with
      | .error (.trap c) => .next (lost s c)
      | .error _ => .next s
      | .ok cb =>
        if size + leNat cb < t.produced + b.length then .next (s.setStream die stream (t0.count 32 1))
        else if s.ringHold die part base size t.produced b.length then .next s
        else match s.ringWrite die part base size t.produced b with
          | (u, some c) => .next (lost u c)
          | (u, none) => match (match u.unitCounter core part true octr with
            | .error c => Except.error (Stop.trap c)
            | .ok _ => u.post core part false octr b.length) with
            | .error (.trap c) => .next (lost u c)
            | .error _ => .next s
            | .ok v => .next (v.setStream die stream { t0 with produced := t0.produced + b.length })

end Sys2Proof.Machine
end

