-- ==== Sys2Proof/Machine/Heat.lean ====
section
/-! DEFINITION. Check heats, verdicts, scores and disqualification (11 R245 to R250), and the release of SYNC, at which a
disqualification in a deterministic partition takes effect (02 R58, 06 R146). -/

namespace Sys2Proof.Machine

/-! ### The checking cell (11 R245) -/

/-- The cells of a partition after the original's, in ascending rank order and wrapping. -/
def Part.after (p : Part) (cell : Nat) : List Nat :=
  match p.cells.idxOf? cell with
  | some i => p.cells.drop (i + 1) ++ p.cells.take i
  | none => p.cells

/-- The cells of a partition in the order of the ranks after an original's, wrapping: those that hold ranks by the rank table,
then any that hold none. -/
def State.rankOrder (s : State) (part orig : Nat) : List Nat :=
  let l := (s.rankList part).filter (fun r => bit r.2 63)
  let cells := fun (l : List (Nat × Word)) => l.map (fun r => bits r.2 17 2)
  match l.find? (fun r => bits r.2 17 0 = orig) with
  | none => ((s.part part).after (orig / 4))
  | some (n, _) => (cells (l.filter (fun r => n < r.1)) ++ cells (l.filter (fun r => r.1 < n)) ++ (s.part part).after (orig / 4)).eraseDups

/-- The checking cell: on another die, else in another cluster, else another cell; never one in `not'`. -/
def State.checkCell (s : State) (part orig : Nat) (not' : List Nat) : Option Nat :=
  let cs := (s.rankOrder part orig).filter (fun c => (s.part part).cells.contains c && s.validCell c && c ≠ orig / 4 && !not'.contains c)
  match cs.find? (fun c => dieOf (4 * c) ≠ dieOf orig) with
  | some c => some c
  | none => match cs.find? (fun c => cluOf (4 * c) ≠ cluOf orig) with
    | some c => some c
    | none => cs.head?

/-- A check heat of slot i starts on core 0 of a cell. -/
def State.startHeat (s : State) (k i : Nat) (r : RetSlot) (third : Bool) : State :=
  let t : Task := { kind := .handler, hdr := r.hdr, mbox := r.mbox, num := 0, reserved := [], slot := none, check := some (i, third), follower := false }
  s.startTask k t (if hdrEntry r.hdr = 0 then r.bound else BitVec.ofNat 64 (hdrEntry r.hdr)) r.param false

def State.setSlot (s : State) (part i : Nat) (r : RetSlot) : State :=
  s.setPart part { s.part part with slots := SMap.set (s.part part).slots i r }
def State.freeSlotOf (s : State) (part i : Nat) : State :=
  let p := s.part part
  s.setPart part { p with slots := SMap.drop p.slots i, checkQ := p.checkQ.filter (fun x => x ≠ i), thirdQ := p.thirdQ.filter (fun x => x ≠ i) }

/-- The partition of a check heat is switched in on the cell it needs, and no switch is in progress. -/
def State.heatRuns (s : State) (part cell : Nat) : Bool := s.runs (4 * cell) && (s.cell cell).part = some part

/-- The oldest queued check heat starts; third heats go first. Without a checking cell it is dropped. None starts in a deterministic
partition (11 R250). -/
def execCheckHeatStart (part : Nat) (s : State) : Host.Outcome State Fault Refusal :=
  let p := s.part part
  match p.checkQ with
  | [] => .next s
  | i :: rest =>
    if !p.thirdQ.isEmpty || p.det then .next s
    else match SMap.find p.slots i with
    | none => .next (s.setPart part { p with checkQ := rest })
    | some r =>
      match s.checkCell part r.orig [] with
      | none => .next ((s.freeSlotOf part i).heatCount part 0x30)
      | some c =>
        let core := 4 * c
        match (if s.heatRuns part c && (s.core core).launchQ.isEmpty then s.idleCtx core else none) with
        | none => .next s
        | some x =>
          let s := s.setPart part { p with checkQ := rest }
          .next (((s.setSlot part i { r with checker := some core }).slotSync (dieOf core) part i).startHeat (4 * core + x) i r false)

/-! ### Scores and disqualification (11 R247, R248) -/

def State.score (s : State) (core : Nat) : Nat := SMap.get s.scores 0 core
def State.setScore (s : State) (core v : Nat) : State := { s with scores := SMap.set s.scores core (min v 255) }

/-- Firmware writes the rank table of a list of cells, as far as the table is long (03 R68). -/
def State.writeRanks (s : State) (part : Nat) (cells : List Nat) : State :=
  let cores := cells.flatMap (fun c => [4 * c, 4 * c + 1, 4 * c + 2, 4 * c + 3])
  let old := (s.part part).nranks
  let n := min cores.length (s.part part).rankLen
  let s := s.setPart part { s.part part with nranks := n }
  let s := (cores.take n).zipIdx.foldl (fun t e => t.setRank part e.2 (0x8000000000000000 ||| BitVec.ofNat 64 e.1)) s
  ((List.range old).drop n).foldl (fun t r => t.setRank part r 0) s

/-- A check heat on a context ends without a verdict, and its slot is freed. -/
def State.dropHeat (s : State) (part k : Nat) : State :=
  let x := s.ctx k
  match x.task.bind (fun t => t.check) with
  | none => s
  | some (i, _) =>
    let s := (s.dropMq k).endTask k
    (s.setCtx k { s.ctx k with st := { x.st with chk := false } }).freeSlotOf part i

/-- A cell of the partition that holds no rank and is at rest. -/
def State.spareCell (s : State) (part cell : Nat) : Option Nat :=
  let p := s.part part
  p.cells.find? (fun c => c ≠ cell && s.validCell c && s.cellQuiet part c && !((s.rankList part).any (fun r => bit r.2 63 && bits r.2 17 2 = c)) &&
    (List.range 4).all (fun i => s.coreRest (4 * c + i)))

/-- The partition is shrunk by a cell: its tasks end, its mailboxes are unbound, and the rank table is written anew. -/
def State.shrink (s : State) (part cell : Nat) : State :=
  let s := (List.range 16).foldl (fun t i => if (t.ctx (16 * cell + i)).cs = .idle then t else t.endTask (16 * cell + i)) s
  let p := s.part part
  let cells := p.cells.filter (fun c => c ≠ cell)
  let s := s.writeRanks part cells
  let q := s.part part
  (s.setPart part { q with cells := cells, dir := p.dir.filter (fun e => e.2.1 / 4 ≠ cell),
                           graph := p.graph.map (fun g => { g with stages := g.stages.map (fun t =>
                             { t with cells := t.cells.filter (fun c => c ≠ cell), joining := t.joining.filter (fun c => c ≠ cell) }) }) }).setCell
    cell { s.cell cell with part := none }

/-- The slots whose check heat, or third heat, waits and would run on a cell. -/
def State.queuedOn (s : State) (part cell : Nat) : List Nat :=
  let p := s.part part
  let on := fun (i : Nat) (not' : RetSlot → List Nat) => (SMap.find p.slots i).any (fun r => s.checkCell part r.orig (not' r) = some cell)
  p.checkQ.filter (fun i => on i (fun _ => [])) ++ p.thirdQ.filter (fun i => on i (fun r => [r.checker.getD 0 / 4]))

/-- A stage graph with one cell in the place of another. -/
def Graph.replaceCell (g : Graph) (old new : Nat) : Graph :=
  let f := fun (l : List Nat) => (l.map (fun c => if c = old then new else c)).eraseDups
  { g with stages := g.stages.map (fun t => { t with cells := f t.cells, joining := f t.joining }) }

/-- What a disqualified cell means for a partition that holds it, switched in or parked: its check heats are dropped, its ranks
put in transit to a spare cell, which takes its place in the stages, or the partition shrunk, and the supervisor told (11 R248). A
cell with nothing left to move leaves at once. -/
def State.loseCell (s : State) (part cell : Nat) : State :=
  s.asOwner part (fun s =>
    let s := (List.range 16).foldl (fun t i => if (t.ctx (16 * cell + i)).st.chk then t.dropHeat part (16 * cell + i) else t) s
    let s := (s.heatCount part 0x38).causeNotice part (cz 0x57) 12 (4 * cell) 0 0
    match s.spareCell part cell with
    | none => s.shrink part cell
    | some c =>
      let p := s.part part
      let s := s.setPart part { p with graph := p.graph.map (fun g => g.replaceCell cell c) }
      (((s.rankList part).filter (fun r => bit r.2 63 && bits r.2 17 2 = cell)).foldl (fun t r => t.setRank part r.1 (r.2 ||| 0x4000000000000000)) s).retire part cell)

/-- A cell is disqualified: out of service, for every partition of its share set (01 R22). -/
def State.disqualify (s : State) (cell : Nat) : State :=
  let u := s.cell cell
  if u.oos then s
  else
    let mine := (s.parts.filter (fun p => p.2.live && p.2.cells.contains cell)).map Prod.fst
    let s := mine.foldl (fun t p => (t.queuedOn p cell).foldl (fun t i => t.freeSlotOf p i) t) s
    let s := s.setCell cell { s.cell cell with oos := true, dq := false }
    let s := mine.foldl (fun t p => t.loseCell p cell) s
    let left := mine.any (fun p => (s.part p).cells.contains cell)
    if left then s
    else { (s.setCell cell { s.cell cell with part := none }) with
             shares := s.shares.map (fun v => (v.1, { v.2 with cells := v.2.cells.filter (fun c => c ≠ cell) })) }

/-- A core's score rises; at 64 its cell is disqualified. A deterministic partition that holds the cell, switched in or parked, loses
it at its next SYNC release, and the others at once (11 R250). -/
def State.raise (s : State) (core n : Nat) : State :=
  let s := s.setScore core (s.score core + n)
  let cell := core / 4
  let mine := s.parts.filter (fun p => p.2.live && p.2.cells.contains cell)
  if s.score core < 64 || (s.cell cell).oos || (s.cell cell).dq then s
  else if mine.any (fun p => p.2.det) then
    let s := (mine.filter (fun p => !p.2.det)).foldl (fun t p => (t.queuedOn p.1 cell).foldl (fun t i => t.freeSlotOf p.1 i) t) s
    let s := s.setCell cell { s.cell cell with dq := true }
    (mine.filter (fun p => !p.2.det)).foldl (fun t p => t.loseCell p.1 cell) s
  else s.disqualify cell

/-- Unresolved: the supervisor is told, with the core concerned, and the slot is freed. -/
def State.unresolved (s : State) (part i core : Nat) (r : RetSlot) : State :=
  ((s.heatCount part 0x18).causeNotice part { code := 0x5C, info := BitVec.ofNat 32 i, va := 0 } 12 core 0 (hdrTenant r.hdr)).freeSlotOf part i

/-- The digests agree; one that disagrees with every other is none. -/
def agree (a b : Option (Word × Word)) : Bool := a.isSome && a = b

/-- The verdict of a check heat or of a third heat (11 R247), whose digest the slot then holds. -/
def execCheckVerdict (part slot : Nat) (s : State) : Host.Outcome State Fault Refusal :=
  let p := s.part part
  let s := if (SMap.find p.slots slot).any (fun r => r.digest2.isSome && (r.digest3.isSome || !(r.third.isSome || p.thirdQ.contains slot))) then
      s.slotSync 0 part slot
    else s
  let p := s.part part
  match SMap.find p.slots slot with
  | none => .next s
  | some r =>
    match r.digest2, r.digest3 with
    | some d2, some d3 =>
      let x := r.orig
      let y := r.checker.getD 0
      let z := r.third.getD 0
      if agree d3 r.digest then .next (((((s.setScore x 0).setScore z 0).raise y 32)).freeSlotOf part slot)
      else if agree d3 d2 then .next ((((s.setScore y 0).setScore z 0).raise x 32).freeSlotOf part slot)
      else .next ((s.raise z 8).unresolved part slot z r)
    | some d2, none =>
      if r.third.isSome || p.thirdQ.contains slot then .next s
      else if agree d2 r.digest then .next ((s.heatCount part 0x08).freeSlotOf part slot)
      else
        let y := r.checker.getD 0
        let s := (s.raise r.orig 8).raise y 8
        match SMap.find (s.part part).slots slot, s.checkCell part r.orig [y / 4] with
        | none, _ => .next s
        | some _, none => .next (s.unresolved part slot y r)
        | some _, some _ => .next (s.setPart part { s.part part with thirdQ := (s.part part).thirdQ ++ [slot] })
    | none, _ => .next s

/-- A third heat starts on core 0 of a further cell as soon as that core has an Idle context. -/
def execThirdHeatStart (part slot : Nat) (s : State) : Host.Outcome State Fault Refusal :=
  let p := s.part part
  if !p.thirdQ.contains slot then .next s
  else match SMap.find p.slots slot with
    | none => .next (s.freeSlotOf part slot)
    | some r =>
      let y := r.checker.getD 0
      match s.checkCell part r.orig [y / 4] with
      | none => .next (s.unresolved part slot y r)
      | some c =>
        match (if s.heatRuns part c && !p.det then s.idleCtx (4 * c) else none) with
        | none => .next s
        | some x =>
          let r' := { r with third := some (4 * c), shadow := [], written := [] }
          let s := (s.setPart part { p with thirdQ := p.thirdQ.filter (fun i => i ≠ slot) }).setSlot part slot r'
          .next (((s.heatCount part 0x10).slotSync (dieOf (4 * c)) part slot).startHeat (16 * c + x) slot r' true)

/-- After 2^20 completed eligible groups every score falls by 1. -/
def execScoreDecay (s : State) : Host.Outcome State Fault Refusal :=
  .next (if s.completed < 2 ^ 20 then s
    else { s with completed := s.completed - 2 ^ 20, scores := s.scores.map (fun e => (e.1, e.2 - 1)) })

/-! ### The release of SYNC (02 R58, 06 R146, 11 R250) -/

/-- A die whose clock is reduced returns to 800 MHz for a release, within 64 clocks (06 R146); how many the spec does not say. -/
def State.rampDie (s : State) (die : Nat) : State :=
  let d := s.die die
  if d.mhz = 800 || d.reduced || d.ramp.isSome then s
  else (s.setDie die { d with ramp := some (s.clock + Config.freeNat s.free % 65) }).bump 1
/-- The die's clock stands at 800 MHz. -/
def Die.fullClock (d : Die) (clock : Nat) : Bool := d.mhz = 800 || d.reduced || d.ramp.any (fun t => decide (t ≤ clock))

/-- A round is released once it is met; in a deterministic partition in a clock of its own, at 800 MHz on every die. -/
def execSyncRelease (part : Nat) (s : State) : Host.Outcome State Fault Refusal :=
  let p := s.part part
  if !s.syncMet part then .next s
  else if p.det && !p.dies.all (fun d => (s.die d).fullClock s.clock) then .next (p.dies.foldl (fun t d => t.rampDie d) s)
  else if p.det && s.clock % 8 ≠ 0 then .next s
  else
    let s := s.setPart part { p with rounds := p.rounds + 1 }
    if !p.det then .next s
    else
      let s := (p.cells.filter (fun c => (s.cell c).dq)).foldl (fun t c => t.disqualify c) s
      let s := p.cores.foldl (fun t c => t.coreRelease c) s
      .next (p.dies.foldl (fun t d => t.dieRelease d) s)

end Sys2Proof.Machine
end

