-- ==== Sys2Proof/Machine/Switch.lean ====
section
/-! DEFINITION. Partitions, share sets and switches, the pace clock and power, and snapshots (12 R251 to R259, R271, R272,
02 R47, R55, 06 R162, R163, 13 R286). -/

namespace Sys2Proof.Machine

/-! ### The pace clock (06 R162, R163) -/

/-- A tick is charged to the partition that is switched in or being switched in (12 R255). -/
def State.charge (s : State) (ss : ShareSet) : State :=
  match (match ss.switching with
    | some (q, _) => some q
    | none => ss.current) with
  | none => s
  | some q => s.setPart q { s.part q with remain := (s.part q).remain - 1 }

/-- The tick period in thousandths of four clocks: lengthened or shortened by one part while a correction lasts. -/
def State.pacePeriod (s : State) : Nat := if 0 < s.paceFix then 1001 else if s.paceFix < 0 then 999 else 1000

/-- The pace count advances by one tick, four clocks of 800 MHz, at the first clock at or past the period's end. -/
def execPaceTick (s : State) : Host.Outcome State Fault Refusal :=
  let n := (s.pacePeriod - s.pacePhase + 249) / 250
  let t : State := { s with pace := s.pace + 1, clock := s.clock + n, pacePhase := s.pacePhase + 250 * n - s.pacePeriod, paceAge := s.paceAge + 1,
                            paceFix := if 0 < s.paceFix then s.paceFix - 1 else if s.paceFix < 0 then s.paceFix + 1 else 0 }
  .next (t.shares.foldl (fun u e => u.charge e.2) t)

/-- The loss of the pace clock is reported to firmware, which tells every host that has a binding, and to the supervisors. The
form in which firmware tells a host is the model's: a reply with tag 0 (notes/assumptions/100.md). DESIGN CHOICE. -/
def State.paceLoss (s : State) : State :=
  let s : State := { s with paceLost := true, replies := s.replies ++ ((s.bindings.map (fun b => b.host)).eraseDups.map (fun h =>
    ({ host := h, tag := 0, status := 0x36, data := [] } : Reply))) }
  let s := s.firmware 64 (noticeWords (causeWord (cz 0x36) 13 0 0) 0 0 s.pace 0 0)
  s.parts.foldl (fun t p => if p.2.live then t.causeNotice p.1 (cz 0x36) 13 0 0 0 else t) s

/-- Every 65,536 ticks timestamps are exchanged on every link: how many ticks the module is ahead of the neighbour behind it. Only
the upstream neighbour's counts, which the route toward the time master that firmware names leads to; the master itself has
none, and keeps its count. A tick is corrected over a thousand tick periods: the spec gives a bound of one part in 1,000 and
no rate (notes/assumptions/115.md). DESIGN CHOICE. Above 1 tick the module keeps its own count and the loss is reported. -/
def execPaceTimestampExchange (stamp : Timestamp) (s : State) : Host.Outcome State Fault Refusal :=
  if s.paceAge < 65536 || !(decide (stamp.master = s.modNum) || s.egress stamp.master = some (stamp.die, stamp.port)) then .next s
  else
    let t : State := { s with paceAge := 0, paceOffset := stamp.offset, timeMaster := stamp.master, paceFix := 0 }
    .next (if stamp.offset.natAbs ≤ 1 then { t with paceLost := false, paceFix := if stamp.master = s.modNum then 0 else 1000 * stamp.offset }
      else if s.paceLost then t else t.paceLoss)

def execPaceClockLost (s : State) : Host.Outcome State Fault Refusal :=
  .next (if s.paceAge < 2 ^ 20 || s.paceLost then s else s.paceLoss)

/-! ### Power (13 R286) -/

/-- Every 4,096 ticks a stack's power controller measures it. In an exchange phase the die runs at 800 MHz whatever its
setting, and a change falls due only once it is over (06 R146). A stack still above its budget at 400 MHz is reported to
firmware, under a code that the spec does not name. -/
def execPowerMeasurement (die watts : Nat) (s : State) : Host.Outcome State Fault Refusal :=
  let d := s.die die
  if 8 ≤ die || s.pace.toNat / 4096 ≤ d.measured || d.exE.isSome || d.ramp.isSome then .next s
  else
    let d := { d with measured := s.pace.toNat / 4096 }
    .next (if 375 < watts then
        (if 400 < d.mhz then s.setDie die { d with mhz := d.mhz - 25 }
        else ((s.setDie die { d with overBudget := true }).bump 1).firmware 64 (noticeWords (causeWord (cz (firmCode s.free)) 13 (BitVec.ofNat 18 (die * 32768)) 0) 0 0 s.pace 0 0))
      else if watts < 350 then s.setDie die { d with mhz := min 800 (d.mhz + 25), overBudget := false }
      else s.setDie die { d with overBudget := false })

/-! ### Budgets and the scheduler (12 R253 to R255) -/

def budPeriod (w : Word) : Nat := bits w 63 32
def budBudget (w : Word) : Nat := bits w 31 0

/-- A new period begins: the budget is whole again. -/
def execBudgetPeriodStart (part : Nat) (s : State) : Host.Outcome State Fault Refusal :=
  let p := s.part part
  .next (if p.share.isNone || budPeriod p.budg = 0 || s.pace.toNat < p.period0 + budPeriod p.budg then s
    else s.setPart part { p with period0 := p.period0 + budPeriod p.budg, remain := budBudget p.budg })

/-- Contexts and cores of a partition, saved or not. -/
def State.partCtxs (s : State) (p : Part) : List Ctx := match p.saved with
  | some v => v.ctxs.map Prod.snd
  | none => p.cores.flatMap (fun c => (List.range 4).map (fun i => s.ctx (4 * c + i)))
def State.partCores (s : State) (p : Part) : List Core := match p.saved with
  | some v => v.cores.map Prod.snd
  | none => p.cores.map (fun c => s.core c)
def State.partCells (s : State) (p : Part) : List Cell := match p.saved with
  | some v => v.cells.map Prod.snd
  | none => p.cells.map (fun c => s.cell c)

/-- Whether the partition is the one switched in, or has never run. -/
def State.heldFor (s : State) (part : Nat) (p : Part) : List HeldMsg := p.cells.flatMap (fun c => SMap.get (s.cell c).holding [] part)

/-- The headers that stand in its launch queues, those held for it among them. -/
def State.partHeaders (s : State) (part : Nat) (p : Part) (in' : Bool) : List (List Word) :=
  (if in' || p.saved.isSome then (s.partCores p).flatMap (fun c => c.launchQ.map (fun h => h.hdr)) else []) ++
  (s.heldFor part p).filterMap (fun m => match m with
    | .launch _ h => some h.hdr
    | _ => none)

/-- A partition has work (12 R254). -/
def State.hasWork (s : State) (part : Nat) (in' : Bool) : Bool :=
  let p := s.part part
  let seen := in' || p.saved.isSome
  (seen && (s.partCtxs p).any (fun x => x.cs ≠ .idle)) || !(s.partHeaders part p in').isEmpty ||
    (seen && (s.partCores p).any (fun c => c.ch.toList.any (fun h => !h.cmds.isEmpty))) ||
    (seen && (s.partCells p).any (fun u => !u.mq.isEmpty || !u.gq.isEmpty || !u.catchQ.isEmpty)) ||
    s.dies.any (fun d => d.2.fq.any (fun f => f.part = part)) ||
    (s.heldFor part p).any (fun m => match m with
      | .remote _ => true
      | _ => false) ||
    (in' && p.cores.any (fun c => (s.clu (cluOf c)).splats.any (fun t => t.key / 4 = c)))

/-- Its deadline D (12 R254): the least that is given, else the last tick of its period. -/
def State.deadlineOf (s : State) (part : Nat) (in' : Bool) : Nat :=
  let p := s.part part
  let ds := (if in' || p.saved.isSome then ((s.partCtxs p).filter (fun x => x.task.isSome)).map (fun x => x.deadl.toNat) else []) ++
    (s.partHeaders part p in').map (fun h => (h.getD 3 0).toNat)
  match ds.filter (fun d => d ≠ 0) with
  | [] => p.period0 + budPeriod p.budg - 1
  | d :: t => t.foldl min d

/-- The partition with the least deadline, ties to the lower PARTID. -/
def leastD : List (Nat × Nat) → Option (Nat × Nat)
  | [] => none
  | x :: t => match leastD t with
    | none => some x
    | some y => if y.2 < x.2 || (y.2 = x.2 && y.1 < x.1) then some y else some x

/-- The choice of a share set's scheduler; none keeps the partition switched in. -/
def State.choice (s : State) (ss : ShareSet) : Option Nat :=
  let cand := ss.parts.map (fun q => (q, s.deadlineOf q (ss.current = some q), s.hasWork q (ss.current = some q), decide (0 < (s.part q).remain)))
  let pick := fun (f : Nat × Nat × Bool × Bool → Bool) => (leastD ((cand.filter f).map (fun c => (c.1, c.2.1)))).map Prod.fst
  match pick (fun c => c.2.2.1 && c.2.2.2) with
  | some q => some q
  | none => pick (fun c => c.2.2.1)

def execShareSetChoice (ss : Nat) (s : State) : Host.Outcome State Fault Refusal :=
  let v := s.shareSet ss
  .next (if v.switching.isSome then s
    else match s.choice v with
      | none => s
      | some q => if v.current = some q then s else s.setShare ss { v with switching := some (q, v.current.isNone) })

/-! ### Switching out (12 R256, R257) -/

/-- An exchange routine runs on a core of the partition, or is due there since the release (06 R152). -/
def State.exchanging (s : State) (p : Part) : Bool := p.cores.any (fun c => (s.core c).slist.any (fun l => l.phase = 2) || (List.range 4).any (fun i => (s.ctx (4 * c + i)).isExch))

/-- A channel stands at an operation boundary: before a command, at a 4 KiB boundary of its destination, or at its end. -/
def Channel.parked (h : Channel) : Bool := h.inFlight = 0 && (match h.cmds with
  | [] => true
  | c :: _ => h.frozen || c.done = 0 || (c.dst.toNat + c.done) % 4096 = 0 || decide (c.total ≤ c.done))

/-- Everything that a switch-out waits for has come about. -/
def State.drained (s : State) (p : Part) : Bool :=
  !s.exchanging p && p.cores.all (fun c =>
    let u := s.core c
    u.vq.isEmpty && u.ch.toList.all (fun h => h.parked) && !((s.clu (cluOf c)).splats.any (fun t => t.key / 4 = c)) &&
      (List.range 4).all (fun i =>
        let x := s.ctx (4 * c + i)
        x.modCnt = 0 && x.sysCnt = 0 && x.relq.isEmpty))

/-- A context as it is saved: a WAITW returns with bit 11, its watch table is empty, a CARWAIT begins afresh. -/
def Ctx.park (x : Ctx) : Ctx :=
  let cs := match x.cs with
    | .ready => CState.savedReady
    | .blocked w => CState.savedBlocked w
    | .held => CState.savedHeld
    | c => c
  { x with cs := cs, reasons := if x.watch.isEmpty then x.reasons else x.reasons ||| 8, watch := [],
           resume := x.resume.filter (fun r => r.2 < carMark) }

/-- A context as it returns. -/
def Ctx.unpark (x : Ctx) : Ctx :=
  { x with cs := match x.cs with
      | .savedReady => .ready
      | .savedBlocked w => .blocked w
      | .savedHeld => .held
      | c => c }

/-- A context's wait as the boundary strikes it (12 Table 12-5): a WAITW returns, in every member of a gang, with a timeout
that has passed; a WFI is done (24 R455); a WAYS is withdrawn. -/
def State.strike (s : State) (k : Nat) : State :=
  let x := s.ctx k
  match x.cs with
  | .blocked (.waitw d) => s.waitwAll k d true
  | .blocked .wfi => s.wfiAll k
  | .blocked (.ways _) => let c := s.core (k / 4); s.setCore (k / 4) { c with ways := c.ways.filter (fun r => r.ctx ≠ k % 4) }
  | _ => s

/-- Entries of a core in a pass: its rest counts as an overrun for them (07 R171). -/
def State.overrun (s : State) (core : Nat) : State :=
  ((s.core core).subs.filter (fun e => e.2.valid && e.2.st = 1)).foldl (fun t e =>
    let b := { e.2 with ovr := true, st := 0 }
    (t.setSub core e.1 b).carDone core e.1 b.word) s

/-- The keys of a partition's contexts. -/
def Part.keys (p : Part) : List Nat := p.cores.flatMap (fun c => [4 * c, 4 * c + 1, 4 * c + 2, 4 * c + 3])

/-- What is taken from a set's cells when they change hands: the rest belongs to the hardware itself. -/
def Core.vacate (c : Core) : Core := { Core.reset with ecc := c.ecc }
def Cell.vacate (u : Cell) : Cell := { Cell.reset with oos := u.oos, dq := u.dq, opEcc := u.opEcc, holding := u.holding }

/-- The L1 ways of a core are written back and invalidated, and its TLB and its cluster's hold no translation of the partition
any longer. -/
def State.coolCore (s : State) (part core : Nat) : State :=
  let s := ((s.core core).l1.map (fun l => l.line)).foldl (fun t l => t.evict core l) s
  let s := s.setCore core { s.core core with tlb := [] }
  let u := s.clu (cluOf core)
  s.setClu (cluOf core) { u with ctlb := u.ctlb.filter (fun e => e.part ≠ part) }

/-! ### Save areas (12 R259) -/

def areaSize : Nat := 0x2C000
/-- The pinned ways of a cluster, from whose start firmware holds savePins for save areas (notes/assumptions/101.md).
DESIGN CHOICE. -/
def pinArea (clu i : Nat) : Nat := pinBase + clu * 0x1000000 + i * areaSize

/-- Areas of the pinned ways of a cluster that stand already, and of the GDDR of a die. -/
def State.pinAreas (s : State) (clu : Nat) : Nat :=
  (s.parts.map (fun p => (p.2.areas.filter (fun a => decide (pinArea clu 0 ≤ a) && decide (a < pinArea (clu + 1) 0))).length)).foldl (fun a n => a + n) 0
def State.gddrAreas (s : State) (die : Nat) : Nat :=
  (s.parts.map (fun p => if p.2.cells.headD 0 / 8192 = die then (p.2.areas.filter isGddr).length else 0)).foldl (fun a n => a + n) 0

/-- The areas of a partition's cells: in the pinned ways that its cluster holds for save areas while
they have room, else in GDDR from SAVEBASE on. `used` counts the pinned areas given so far by cluster, n those in GDDR. -/
def State.placeAreas (s : State) (base : Nat) (used : SMap Nat) (n : Nat) : List Nat → List Nat
  | [] => []
  | c :: t =>
    let clu := cluOf (4 * c)
    let i := (SMap.find used clu).getD (s.pinAreas clu)
    if (i + 1) * areaSize ≤ (s.clu clu).savePins * 0x100000 then pinArea clu i :: s.placeAreas base (SMap.set used clu (i + 1)) n t
    else (base + n * areaSize) :: s.placeAreas base used (n + 1) t
/-- Cells in ascending order, and a list's places put back in the order of the cells as they are listed. -/
def ascend (l : List Nat) : List Nat := sortKeys l
def backTo (cells places : List Nat) : List Nat := cells.map (fun c => ((((ascend cells).zip places).find? (fun e => e.1 = c)).elim 0 Prod.snd))

/-- In ascending cell order, whatever the order of the ranks (12 R259). -/
def State.areasFor (s : State) (cells : List Nat) (desc : List Word) : List Nat := backTo cells (s.placeAreas (bits (desc.getD 5 0) 51 12 * 4096) [] 0 (ascend cells))

/-- The areas of a set are placed when it is created, partition by partition in ascending PARTID: while no partition of the set
has run, those of all that it holds so far are placed anew. -/
def State.placeSet (s : State) (ss : Nat) : State :=
  let v := s.shareSet ss
  if v.current.isSome || v.switching.isSome || v.parts.any (fun q => (s.part q).saved.isSome) then s
  else
    let qs := ascend v.parts
    let s := qs.foldl (fun t q => t.setPart q { t.part q with areas := [] }) s
    qs.foldl (fun t q => let p := t.part q; t.setPart q { p with areas := t.areasFor p.cells p.desc.toList }) s

/-- The areas fit in what firmware reserves for them in GDDR (12 R252). -/
def State.areasFit (s : State) (cells : List Nat) (desc : List Word) : Bool :=
  let g := (s.areasFor cells desc).filter isGddr
  let die := cells.headD 0 / 8192
  g.isEmpty || decide (s.gddrAreas die + g.length ≤ Config.saveReserve die)

/-- What the save engine writes for a cell (12 Table 12-6): the scratch of its cores, the operand slots, the accumulators, and
the records, whose layout the spec does not give. -/
def State.areaBytes (s : State) (cell : Nat) : List Byte :=
  (List.range 4).flatMap (fun i => ((s.scratchBytes (4 * cell + i) 0 (extent (s.core (4 * cell + i)).waym)) ++ List.replicate 0x5000 0).take 0x5000) ++
  Mem.bytes (s.cell cell).slotMem 0 0x4000 ++
  (List.range 512).flatMap (fun e => let p := SMap.get (s.cell cell).acc (0, 0) e; leBytes 4 p.1.toNat ++ leBytes 4 p.2.toNat) ++
  (List.range 0x13000).map (fun i => Config.freeByte (s.free + i))

/-- The save areas of a partition are written, under KEYID 0 and past near memory. -/
def State.saveAreas (s : State) (p : Part) : State :=
  (p.cells.zip p.areas).foldl (fun t e =>
    let t := t.putBytes 0 e.2 (s.areaBytes e.1)
    let t : State := { t with memEcc := t.memEcc.written e.2 areaSize }
    (t.firePhys e.2 areaSize).bump 0x13000) s

/-- A queue of a partition's own cells, as a marker names it. -/
def Part.ownsQueue (p : Part) (q : Nat × Nat × Nat) : Bool := if q.1 = 0 then p.cores.contains (q.2.1 / 4) else q.1 < 4 && p.cells.contains q.2.1

/-- What a marker holds of other queues while a partition is parked: its own queues stand for one whose operations come with
the partition. -/
def Marker.without (m : Marker) (p : Part) (part : Nat) : Marker :=
  { m with queues := m.queues.filter (fun q => !p.ownsQueue q) ++ [(5, part, 1)] }
/-- The marker waits for a parked partition. -/
def Marker.keeps (m : Marker) (part : Nat) : Bool := m.queues.any (fun q => q.1 = 5 && q.2.1 = part)

/-- The outgoing partition of a switch is saved and its cells stand empty. -/
def execSwitchOut (part : Nat) (s : State) : Host.Outcome State Fault Refusal :=
  let p := s.part part
  match p.share with
  | none => .next s
  | some ss =>
    let v := s.shareSet ss
    match v.switching with
    | some (q, false) =>
      if v.current ≠ some part || !s.drained p then .next s
      else
        let s := p.keys.foldl (fun t k => t.strike k) s
        let s := p.cores.foldl (fun t c => (t.overrun c).coolCore part c) s
        let mine := fun (m : Marker) => m.queues.any p.ownsQueue
        let open' := s.markers.filter (fun m => !s.markerMet m)
        let saved : Saved :=
          { ctxs := p.keys.map (fun k => (k, (s.ctx k).park)),
            cores := p.cores.map (fun c => (c, s.core c)),
            cells := p.cells.map (fun c => (c, { s.cell c with catchQ := [], lqNum := (s.cell c).lqNum + (s.cell c).catchQ.length, passing := none, shown := none })),
            markers := open'.filter mine }
        let s : State := { s.saveAreas p with markers := open'.map (fun m => if mine m then m.without p part else m) }
        let s := p.keys.foldl (fun t k => (t.setCtx k Ctx.reset).dropRecords k) s
        let s := p.cores.foldl (fun t c => t.setCore c (t.core c).vacate) s
        let s := p.cells.foldl (fun t c => t.setCell c (t.cell c).vacate) s
        let s := s.setPart part { s.part part with saved := some saved }
        .next (s.setShare ss { v with switching := some (q, true), current := none })
    | _ => .next s

/-- The incoming partition of a switch is restored and its contexts resume; messages held for it come first. A save area
with a failing word keeps it parked (cause 0x35). -/
def execSwitchIn (part : Nat) (s : State) : Host.Outcome State Fault Refusal :=
  let p := s.part part
  match p.share with
  | none => .next s
  | some ss =>
    let v := s.shareSet ss
    if v.switching ≠ some (part, true) then .next s
    else if p.saved.isSome && p.areas.any (fun a => s.memEcc.failing a areaSize) then
      .next ((s.setShare ss { v with switching := none }).firmware part (noticeWords (causeWord (cz 0x35) 13 0 0) 0 0 s.pace 0 part))
    else
      let s : State := match p.saved with
        | none => s
        | some w =>
          let s := w.ctxs.foldl (fun (t : State) e => t.setCtx e.1 e.2.unpark) s
          let s := w.cores.foldl (fun (t : State) e => t.setCore e.1 { e.2 with ecc := (t.core e.1).ecc }) s
          w.cells.foldl (fun (t : State) e =>
            let u := t.cell e.1
            t.setCell e.1 { e.2 with oos := u.oos, dq := u.dq, opEcc := u.opEcc, holding := u.holding }) { s with markers := s.markers.filter (fun m => !m.keeps part) ++ w.markers }
      let s := p.cells.foldl (fun t c => t.setCell c { t.cell c with part := some part }) s
      let s := s.setPart part { s.part part with saved := none }
      let s := s.setShare ss { v with switching := none, current := some part }
      .next (p.cells.foldl (fun t c => t.drainHeld c part (SMap.get (t.cell c).holding [] part)) s)

/-! ### Creating and removing partitions (02 R47, 12 R252) -/

/-- The cells lie on one die. -/
def oneDie (cells : List Nat) : Bool := cells.all (fun c => c / 8192 = cells.headD 0 / 8192)

/-- Firmware may place the partition: `ss` is 0 for cells of its own, else one more than the number of a share set. -/
def State.mayCreate (s : State) (part : Nat) (det : Bool) (ss : Nat) (cells : List Nat) (desc : List Word) : Bool :=
  s.boot = 8 && decide (part < 64) && !(s.part part).live && desc.length = 8 && !cells.isEmpty && cells.all (fun c => s.validCell c) && cells.Nodup &&
  -- no cell of a live partition outside the share set
  s.parts.all (fun q => !q.2.live || q.2.cells.all (fun c => !cells.contains c) || (ss ≠ 0 && q.2.share = some (ss - 1))) &&
  -- at most one deterministic partition's cells on a die
  (!det || s.parts.all (fun q => !q.2.live || !q.2.det || q.2.cells.all (fun c => cells.all (fun e => e / 8192 ≠ c / 8192)))) &&
  (ss = 0 || (oneDie cells && (match SMap.find s.shares (ss - 1) with
    | none => true
    | some v => v.parts.length < 16 && v.cells = cells) && s.areasFit cells desc))

/-- BUDG as firmware gives it, which the spec leaves open; BUDGET stays at or below PERIOD. -/
def newBudget (free : Nat) : Word :=
  let w := Config.freeWord free
  BitVec.ofNat 64 (budPeriod w * 2 ^ 32 + min (budBudget w) (budPeriod w))

/-- Firmware pins ways of a slice: the cluster in [24:16], the ways held for save areas in [15:8], the pinned ways in [7:0], at
most 12 and never fewer than before. The lines of the slice are written back and invalidated first (notes/assumptions/101.md).
DESIGN CHOICE. -/
def State.setPins (s : State) (w : Word) : State :=
  let h := bits w 24 16
  let u := s.clu h
  let n := bits w 7 0
  if 12 < n || n < bits w 15 8 || n < u.pins || bits w 15 8 < u.savePins then s
  else
    let s := if n = u.pins then s else (u.miss.map Prod.fst).foldl (fun t l => t.mergeFill (128 * l)) s
    let u := s.clu h
    s.setClu h { u with pins := n, savePins := bits w 15 8, near := if n = u.pins then u.near else u.near.filter (fun l => !isGddr (128 * l.1)) }

/-- Firmware's bindings for a partition, at most 64 of a host: the host in [31:0], its rights to launch, read, write and flip
in [32] to [35]. -/
def State.bind (s : State) (part : Nat) (l : List Word) : State :=
  l.foldl (fun t w =>
    let h := bits w 31 0
    if 64 ≤ (t.bindings.filter (fun b => b.host = h)).length then t
    else { t with bindings := t.bindings ++ [{ host := h, part := part, launch := bit w 32, read := bit w 33, write := bit w 34, flip := bit w 35 }] }) s

/-- Every context of a partition is Idle. -/
def State.allIdle (s : State) (part : Nat) : Bool := (s.partCtxs (s.part part)).all (fun x => x.cs = .idle)

/-- Firmware changes the mode of a partition that stands, while its contexts are Idle (02 R47). Check heats that
wait stay queued, and none starts while it is deterministic (11 R250, notes/assumptions/116.md). DESIGN CHOICE. -/
def State.changeMode (s : State) (part : Nat) (det : Bool) : State :=
  let p := s.part part
  let clash := s.parts.any (fun q => q.1 ≠ part && q.2.live && q.2.det && q.2.cells.any (fun c => p.cells.any (fun e => e / 8192 = c / 8192)))
  if !s.allIdle part || (det && clash) then s else s.setPart part { p with det := det }

/-- Firmware creates a partition, pins ways for its share set's save areas and writes its bindings; of one that stands, on the
same cells, it changes the mode. -/
def execPartitionCreate (part det ss : Nat) (cells : List Nat) (words : PartitionWords) (s : State) : Host.Outcome State Fault Refusal :=
  if s.boot = 8 && (s.part part).live && (s.part part).cells = cells then .next ((s.changeMode part (det ≠ 0)).bind part words.binds)
  else
  let s0 := s
  let s := words.pins.foldl (fun t w => t.setPins w) s
  if !s.mayCreate part (det ≠ 0) ss cells words.desc then .next s0
  else
    let s := s.bind part words.binds
    let d : Vector Word 8 := Vector.ofFn (fun i : Fin 8 => words.desc.getD i.val 0)
    let p : Part := { Part.reset with live := true, det := det ≠ 0, cells := cells, desc := d }
    if ss = 0 then
      .next ((cells.foldl (fun t c => t.setCell c { t.cell c with part := some part }) (s.setPart part p)).writeRanks part cells)
    else
      let v := SMap.get s.shares { ShareSet.reset with cells := cells, born := s.pace.toNat } (ss - 1)
      let b := newBudget s.free
      let period := budPeriod b
      let p := { p with share := some (ss - 1), areas := s.areasFor cells words.desc, budg := b, remain := budBudget b,
                        period0 := if period = 0 then v.born else v.born + (s.pace.toNat - v.born) / period * period }
      .next (((((s.setPart part p).setShare (ss - 1) { v with parts := v.parts ++ [part] }).placeSet (ss - 1)).bump 1).writeRanks part cells)

/-- A context of a removed partition: nothing is sent for what it leaves behind. -/
def State.wipe (s : State) (k : Nat) : State := s.setCtx k Ctx.reset

/-- Firmware removes a partition; its cores are free, also those left Blocked at SYNC (02 R55). -/
def execPartitionRemoval (part : Nat) (s : State) : Host.Outcome State Fault Refusal :=
  let p := s.part part
  if !p.live then .next s
  else
    let mine := p.cells.filter (fun c => (s.cell c).part = some part)
    let cores := mine.flatMap (fun c => [4 * c, 4 * c + 1, 4 * c + 2, 4 * c + 3])
    let s := cores.foldl (fun t c => (List.range 4).foldl (fun u i => u.wipe (4 * c + i)) ((t.coolCore part c).setCore c (t.core c).vacate)) s
    let s := mine.foldl (fun t c => t.setCell c { (t.cell c).vacate with part := none }) s
    let s := p.cells.foldl (fun t c => t.setCell c { t.cell c with holding := SMap.drop (t.cell c).holding part }) s
    let s : State := { s with clus := s.clus.map (fun kc => (kc.1,
      { kc.2 with records := kc.2.records.filter (fun r => !cores.contains (r.2.1 / 4)), splats := kc.2.splats.filter (fun t => !cores.contains (t.key / 4)),
                  ctlb := kc.2.ctlb.filter (fun e => e.part ≠ part) })) }
    let s := match p.share with
      | none => s
      | some ss =>
        let v := s.shareSet ss
        s.setShare ss { v with parts := v.parts.filter (fun q => q ≠ part), current := if v.current = some part then none else v.current,
                               switching := match v.switching with
                                 | some (q, out) => if q = part then none else some (q, out || v.current = some part)
                                 | none => none }
    -- nothing of the partition's queues is left to wait for
    let gone := fun (q : Nat × Nat × Nat) => (q.1 = 5 && q.2.1 = part) || (decide (q.1 < 4) && (if q.1 = 0 then cores.contains (q.2.1 / 4) else mine.contains q.2.1))
    let s : State := { s with markers := (s.markers.map (fun m => { m with queues := m.queues.filter (fun q => !gone q) })).filter (fun m => !m.queues.isEmpty) }
    .next ({ s with bindings := s.bindings.filter (fun b => b.part ≠ part) }.setPart part Part.reset)

/-! ### Snapshots (12 R271, R272) -/

/-- An external trigger: every partition whose EXT is 1, and firmware. -/
def execSnapshotTrigger (s : State) : Host.Outcome State Fault Refusal :=
  let s := s.parts.foldl (fun t p => if p.2.live && bit p.2.snapctl 4 then t.snapTrigger p.1 else t) s
  .next (if s.extSnap.isSome then s else { s with extSnap := some (s.pace.toNat + 1) })

/-- An entry: kind, coordinate and values in a layout that the spec does not give. -/
def snapEntry (kind coord : Nat) (free : Nat) (v : List Byte) : List Byte :=
  leBytes 2 kind ++ [Config.freeByte free, Config.freeByte (free + 1)] ++ leBytes 4 coord ++ (v ++ List.replicate 56 0).take 56

def countState (s : State) (core : Nat) (p : CState → Bool) : Nat := ((List.range 4).filter (fun i => p (s.ctx (4 * core + i)).cs)).length

/-- Contexts of a core in each state of Table 2-1. -/
def State.stateCounts (s : State) (core : Nat) : List Nat :=
  [countState s core (fun c => c = .idle), countState s core (fun c => c = .ready),
   countState s core (fun c => match c with
     | .blocked _ => true
     | _ => false),
   countState s core (fun c => c = .held),
   countState s core (fun c => match c with
     | .savedReady => true
     | .savedBlocked _ => true
     | .savedHeld => true
     | .frozen => true
     | _ => false)]

def State.coreSnap (s : State) (c : Nat) : List Nat := (s.core c).ecc.corr :: (s.frozenWord c).toNat :: s.stateCounts c
def State.cellSnap (s : State) (c : Nat) : List Nat := [(s.cell c).opEcc.corr, (s.cell c).mq.length, (s.cell c).esw.word.toNat]
def State.sliceSnap (s : State) (u : Nat) : List Nat := [(s.clu u).ecc.corr, (s.clu u).pins, (s.clu u).miss.length]
def State.gateSnap (s : State) (die dir : Nat) : List Nat :=
  let g := (s.die die).gateway dir
  [32 - g.shared s.clock, 4 - g.escape 0 s.clock, 4 - g.escape 1 s.clock] ++ (s.die die).vclk.toList.map (fun x => x.toNat)
def State.shareSnap (s : State) (v : ShareSet) : List Nat :=
  v.parts.flatMap (fun q => [(s.part q).remain, s.deadlineOf q (v.current = some q)]) ++ [v.current.getD 64]

/-- Scores in entries of 56. -/
def scoreEntries (free : Nat) : Nat → List Byte → List (List Byte)
  | 0, _ => []
  | n + 1, b => if b.isEmpty then [] else snapEntry 5 0 free (b.take 56) :: scoreEntries free n (b.drop 56)

/-- The entries of an image of the given cells, by kind and then by coordinate. -/
def State.snapEntries (s : State) (cells : List Nat) (sets : List ShareSet) : List (List Byte) :=
  let cores := cells.flatMap (fun c => [4 * c, 4 * c + 1, 4 * c + 2, 4 * c + 3])
  let clus := (cells.map (fun c => cluOf (4 * c))).eraseDups
  let dies := (cells.map (fun c => dieOf (4 * c))).eraseDups
  let e := fun (k c : Nat) (v : List Nat) => snapEntry k c s.free (Config.snapValues k v)
  cores.map (fun c => e 1 c (s.coreSnap c)) ++ cells.map (fun c => e 2 (4 * c) (s.cellSnap c)) ++
    clus.map (fun u => e 3 (u * 512) (s.sliceSnap u)) ++ dies.flatMap (fun d => (List.range 2).map (fun r => e 4 (stopCoord d (gatewayStop r)) (s.gateSnap d r))) ++
    scoreEntries s.free (cores.length / 56 + 1) (cores.map (fun c => BitVec.ofNat 8 (s.score c))) ++
    sets.map (fun v => e 6 (4 * v.cells.headD 0) (s.shareSnap v))

/-- An image: its header and entries. -/
def snapImage (t : Nat) (es : List (List Byte)) : List Byte :=
  leBytes 8 t ++ leBytes 8 es.length ++ List.replicate 48 0 ++ es.flatten

/-- At tick T the blocks in a partition's scope latch their registers; at 64, those of the whole module for firmware. -/
def execSnapshotLatch (part : Nat) (s : State) : Host.Outcome State Fault Refusal :=
  if part < 64 then
    let p := s.part part
    match p.snapT with
    | none => .next s
    | some t =>
      if s.pace.toNat < t then .next s
      else
        let sets := match p.share with
          | none => []
          | some ss => [s.shareSet ss]
        .next ((s.setPart part { p with snapT := none, image := some (snapImage t (s.snapEntries p.cells sets)) }).bump 2)
  else match s.extSnap with
    | none => .next s
    | some t =>
      if s.pace.toNat < t then .next s
      else
        let cells := (List.range 65536).filter (fun c => c % 128 < 80 && !s.disabled.contains c)
        .next (({ s with extSnap := none, fwImage := snapImage t (s.snapEntries cells (s.shares.map Prod.snd)) } : State).bump 2)

/-- The image is performed: it stands where BUF led at its trigger (24 R435) and SEQ advances. A fault of the buffer goes to the supervisor. -/
def execSnapshotImageDone (part : Nat) (s : State) : Host.Outcome State Fault Refusal :=
  let p := s.part part
  match p.image with
  | none => .next s
  | some b =>
    let base := p.snapBuf
    let seq := (bits p.snapctl 3 0 + 1) % 16
    let die := (s.part part).cells.headD 0 / 8192
    if (s.partHold die part base b.length).isSome then .next s
    else match s.partStore die part base b with
    | (t, none) => .next (t.setPart part { t.part part with image := none, snapctl := (p.snapctl &&& ~~~0xF) ||| BitVec.ofNat 64 seq })
    | (t, some c) => .next ((t.setPart part { t.part part with image := none }).causeNotice part c 13 0 0 0)

end Sys2Proof.Machine
end

