-- ==== Sys2Proof/Machine/Unblock.lean ====
section
/-! DEFINITION. How a Blocked context becomes Ready: its condition clears (02 R23), or an asynchronous cause is taken (12 R265). -/

namespace Sys2Proof.Machine

/-- A counter or completion register has reached a target, or its read faults, for context k. -/
def State.counterMet (s : State) (k : Nat) (va : Word) (target : Nat) : Bool :=
  let t : State := { s with cur := k }
  match t.counterAt false va with
  | .error _ => true
  | .ok p => match t.counterRead p va with
    | .error _ => true
    | .ok r => decide (target ≤ r.1)

/-- A context stands first among those blocked at a queue's end, or nobody is. -/
def Core.firstAt (c : Core) (ctx q : Nat) (push : Bool) : Bool :=
  match c.qwait.find? (fun w => w.2.1 = q && w.2.2 = push) with
  | none => true
  | some w => w.1 = ctx

/-- A queue register has room for a pusher, or an entry for a popper (02 R28, R29). -/
def Core.queueMet (c : Core) (ctx q : Nat) (push : Bool) : Bool :=
  if push then c.mayPush ctx q else c.firstAt ctx q false && !(c.queue q).isEmpty

/-- A stage queue has a place and the context is the next to take it (02 R61). -/
def State.stageRoom (s : State) (k qi : Nat) : Bool :=
  match (s.part (s.partOf (k / 4))).graph with
  | none => true
  | some g => match g.queues[qi]? with
    | none => true
    | some q => !q.full && (decide (q.wait.head? = some k) || q.wait.all (fun w => w = k))

/-- The beats that a CARWAIT waits for have been delivered, or its pass has ended (07 R172). -/
def State.carMet (s : State) (k e want : Nat) : Bool :=
  let x := s.ctx k
  match SMap.find x.resume x.pc.toNat with
  | none => true
  | some v => decide (2 * carMark ≤ v) || (match (s.core (k / 4)).sub e with
    | none => true
    | some b => decide (b.st = 1) && decide (want ≤ b.dlv))

/-- A WAYS of the context itself can complete, or the one it waits for has (03 R64). -/
def State.waysMet (s : State) (k core : Nat) : Bool :=
  match (s.core core).ways with
  | none => true
  | some r => decide (core = k / 4) && decide (r.ctx = k % 4) && s.waysClear core r (affected (s.core core).waym r.new)

/-- The condition that context k waits for has cleared (02 Table 2-1). -/
def State.waitMet (s : State) (k : Nat) (w : Wait) : Bool :=
  let x := s.ctx k
  let c := s.core (k / 4)
  let part := s.part (s.partOf (k / 4))
  match w with
  | .regs l => l.all (fun r => !x.pendR.contains r)
  | .vq => c.vq.length < 8
  | .sector a n => s.sectorFree k a n
  | .vector => s.vecDone k
  | .sequencer => x.seqr.isNone
  | .queue q push => c.queueMet (k % 4) q push
  | .message => c.unsent.length + c.held.length < 8
  | .ack => decide (x.modCnt < 64) && decide (x.sysCnt < 64)
  | .fence scope => s.fenceMet k scope
  | .counter va target => s.counterMet k va target
  | .waitw _ => decide (x.reasons ≠ 0) || x.interrupted || s.timedOut (SMap.get x.resume 0 x.pc.toNat)
  | .wfi => x.wfiMet
  | .mq => (s.cell (k / 16)).mq.length < 16
  | .mqDone => !((s.cell (k / 16)).mq.any (fun o => o.key = k && o.remote.isNone))
  | .channel ch => (c.chan ch).cmds.length < 8
  | .stageQueue q => s.stageRoom k q
  | .sync round => round ≤ part.rounds
  | .pace t => t.toNat ≤ s.pace.toNat
  | .carousel e want => s.carMet k e want
  | .splat => (SMap.find x.resume x.pc.toNat).isSome
  | .ways core => s.waysMet k core
  | .rank r => let e := s.rankEntry (s.partOf (k / 4)) r; !(bit e 63 && bit e 62) && !c.held.any (fun m => m.rank = r)
  | .keys => c.kin.isEmpty
  | .encoder st frame =>
    let d := s.die (dieOf (k / 4))
    decide (SMap.find x.resume x.pc.toNat = some 1) ||
      (!c.fqFrozen && s.mayBegin 4 (dieOf (k / 4)) && decide (d.fq.length < 64) && decide (frame < (s.stream (dieOf (k / 4)) st).closed + 2))
  | .exit => if x.isLeaving then s.quiet k && s.exchangeDone k else s.exitMet k
  | .halt => s.quiet k
  | .exchange sel => if sel then c.xsels.length < 8 else c.xmits.length < 8
  | .slice pa n => s.nearRoom pa n
  | .atomic => x.relq.isEmpty
  | .hold d => s.mayArrive (dieOf (k / 4)) d
  | .precise => !s.vbusy k

/-- What holds a gang back has cleared at every member (02 R34). -/
def State.gangMet (s : State) (k : Nat) (w : Wait) (g : GangRole) : Bool :=
  let ws := g.members.filterMap (fun m => ((s.ctx m).gang.bind (fun r => r.wait)).map (fun v => (m, v)))
  if ws.isEmpty then s.waitMet k w else ws.all (fun p => s.waitMet p.1 p.2)

/-- No member of a gang waits any longer. -/
def Ctx.noWait (x : Ctx) : Ctx := { x with gang := x.gang.map (fun r => { r with wait := none }) }

/-- Every member that waits is in its WAITW. -/
def State.allWaitw (s : State) (g : GangRole) : Bool := g.members.all (fun m => ((s.ctx m).gang.bind (fun r => r.wait)).all (fun v => match v with
  | .waitw _ => true
  | _ => false))

/-- The leader is Ready and no member waits. -/
def State.gangReady (s : State) (key : Nat) (g : GangRole) : State :=
  let s := g.members.foldl (fun (t : State) m => t.setCtx m (t.ctx m).noWait) s
  s.setCtx key { s.ctx key with cs := .ready }

/-- A context that has left its gang, or that FRZ has ended, becomes Idle. -/
def State.leaveDone (s : State) (key : Nat) : State :=
  if (s.ctx key).isLeaving && s.quiet key && s.exchangeDone key then s.endTask key else s

/-- The count that a PACEW returns is the one of the clock in which its context becomes Ready (23 R401). -/
def Ctx.paced (x : Ctx) (p : Word) : Ctx := { x with resume := SMap.set x.resume x.pc.toNat (paceMark + p.toNat) }

/-- The condition clears and the context becomes Ready, a WAITW by returning with what it then reads (04 R105); one that only
ends becomes Idle. -/
def execContextUnblock (key : Nat) (s : State) : Host.Outcome State Fault Refusal :=
  let x := s.ctx key
  match x.cs with
  | .blocked w =>
    if !(match x.gang with
      | some g => s.gangMet key w g
      | none => s.waitMet key w) then .next s
    else if x.isLeaving then .next (s.endTask key)
    else match w, x.gang with
      | .waitw d, none => .next (s.waitwReturn key d (s.timedOut (SMap.get x.resume 0 x.pc.toNat)) x.interrupted)
      | .waitw d, some g =>
        if s.allWaitw g then .next (s.waitwAll key d x.interrupted)
        else .next (s.gangReady key g)
      | .pace _, some g => .next ((g.members.foldl (fun (t : State) m => t.setCtx m ((t.ctx m).paced s.pace)) s).gangReady key g)
      | .pace _, none => .next (s.setCtx key { x.paced s.pace with cs := .ready })
      | _, some g => .next (s.gangReady key g)
      | _, none => .next (s.setCtx key { x with cs := .ready })
  | .held => .next (s.leaveDone key)
  | .frozen => .next (s.leaveDone key)
  | _ => .next s

/-- Where a context that takes an asynchronous cause goes on after SRET: a WAITW returns first, a WFI is done, any other
blocked instruction executes again. -/
def State.boundary (s : State) (k : Nat) : State × Word :=
  let x := s.ctx k
  match x.cs with
  | .blocked (.waitw d) =>
    let t := s.waitwAll k d true
    (t, (t.ctx k).pc)
  | .blocked .wfi => (s.setCtx k (x.advance 4), (x.advance 4).pc)
  | _ => (s.unwait k, x.pc)

/-- The oldest pending cause of a Ready or Blocked context is taken at its next instruction boundary while AIE = 1 and no
deferred fault stands before it. A gang's leader disbands it first; a check heat ends. -/
def execAsynchronousCause (key : Nat) (s : State) : Host.Outcome State Fault Refusal :=
  let x := s.ctx key
  let live := match x.cs with
    | .ready => true
    | .blocked _ => true
    | _ => false
  match x.apend with
  | [] => .next s
  | a :: rest =>
    if !live || !x.st.aie || x.deferred.isSome || x.isLeaving then .next s
    else if x.st.chk then .next (s.endHeat key none)
    else
      let (t, epc) := s.boundary key
      let t := t.disband key
      .next (t.setCtx key (({ t.ctx key with apend := rest } : Ctx).enter epc (causeWord a.what a.src a.coord 0)))

end Sys2Proof.Machine
end

