-- ==== Sys2Proof/Machine/Dispatch.lean ====
section
/-! DEFINITION. The dispatch: one arm for each step of the opcode table. -/

namespace Sys2Proof.Machine

def exec (i : Instr) (s : State) : Host.Outcome State Fault Refusal :=
  match i with
  | .add d a b => Sys2Proof.Machine.execAdd d a b s
  | .sub d a b => Sys2Proof.Machine.execSub d a b s
  | .and d a b => Sys2Proof.Machine.execAnd d a b s
  | .or d a b => Sys2Proof.Machine.execOr d a b s
  | .xor d a b => Sys2Proof.Machine.execXor d a b s
  | .shl d a b => Sys2Proof.Machine.execShl d a b s
  | .shr d a b => Sys2Proof.Machine.execShr d a b s
  | .sha d a b => Sys2Proof.Machine.execSha d a b s
  | .slt d a b => Sys2Proof.Machine.execSlt d a b s
  | .sltu d a b => Sys2Proof.Machine.execSltu d a b s
  | .min d a b => Sys2Proof.Machine.execMin d a b s
  | .max d a b => Sys2Proof.Machine.execMax d a b s
  | .minu d a b => Sys2Proof.Machine.execMinu d a b s
  | .maxu d a b => Sys2Proof.Machine.execMaxu d a b s
  | .seq d a b => Sys2Proof.Machine.execSeq d a b s
  | .sel d a b c => Sys2Proof.Machine.execSel d a b c s
  | .addi d a im => Sys2Proof.Machine.execAddi d a im s
  | .andi d a im => Sys2Proof.Machine.execAndi d a im s
  | .ori d a im => Sys2Proof.Machine.execOri d a im s
  | .xori d a im => Sys2Proof.Machine.execXori d a im s
  | .slti d a im => Sys2Proof.Machine.execSlti d a im s
  | .shli d a sh => Sys2Proof.Machine.execShli d a sh s
  | .shri d a sh => Sys2Proof.Machine.execShri d a sh s
  | .shai d a sh => Sys2Proof.Machine.execShai d a sh s
  | .lui d im => Sys2Proof.Machine.execLui d im s
  | .addpc d im => Sys2Proof.Machine.execAddpc d im s
  | .mul d a b w => Sys2Proof.Machine.execMul d a b w s
  | .mulh d a b w => Sys2Proof.Machine.execMulh d a b w s
  | .mulhu d a b w => Sys2Proof.Machine.execMulhu d a b w s
  | .div d a b w => Sys2Proof.Machine.execDiv d a b w s
  | .divu d a b w => Sys2Proof.Machine.execDivu d a b w s
  | .rem d a b w => Sys2Proof.Machine.execRem d a b w s
  | .remu d a b w => Sys2Proof.Machine.execRemu d a b w s
  | .clz d a => Sys2Proof.Machine.execClz d a s
  | .ctz d a => Sys2Proof.Machine.execCtz d a s
  | .popc d a => Sys2Proof.Machine.execPopc d a s
  | .brev d a => Sys2Proof.Machine.execBrev d a s
  | .bswap d a => Sys2Proof.Machine.execBswap d a s
  | .bfx d a b => Sys2Proof.Machine.execBfx d a b s
  | .bfi d a b => Sys2Proof.Machine.execBfi d a b s
  | .fadd d a b => Sys2Proof.Machine.execFadd d a b s
  | .fsub d a b => Sys2Proof.Machine.execFsub d a b s
  | .fmul d a b => Sys2Proof.Machine.execFmul d a b s
  | .fdiv d a b => Sys2Proof.Machine.execFdiv d a b s
  | .fsqrt d a => Sys2Proof.Machine.execFsqrt d a s
  | .fmin d a b => Sys2Proof.Machine.execFmin d a b s
  | .fmax d a b => Sys2Proof.Machine.execFmax d a b s
  | .fcmp d a b r => Sys2Proof.Machine.execFcmp d a b r s
  | .fclass d a => Sys2Proof.Machine.execFclass d a s
  | .fcvt d a sh x y t => Sys2Proof.Machine.execFcvt d a sh x y t s
  | .ffma d a b c => Sys2Proof.Machine.execFfma d a b c s
  | .ld d a o z => Sys2Proof.Machine.execLd d a o z s
  | .st v a o z => Sys2Proof.Machine.execSt v a o z s
  | .ldx d a b z h => Sys2Proof.Machine.execLdx d a b z h s
  | .stx v a b z h => Sys2Proof.Machine.execStx v a b z h s
  | .pref a => Sys2Proof.Machine.execPref a s
  | .cflush a => Sys2Proof.Machine.execCflush a s
  | .cinv a => Sys2Proof.Machine.execCinv a s
  | .ways d m => Sys2Proof.Machine.execWays d m s
  | .beq a b o => Sys2Proof.Machine.execBeq a b o s
  | .bne a b o => Sys2Proof.Machine.execBne a b o s
  | .blt a b o => Sys2Proof.Machine.execBlt a b o s
  | .bge a b o => Sys2Proof.Machine.execBge a b o s
  | .bltu a b o => Sys2Proof.Machine.execBltu a b o s
  | .bgeu a b o => Sys2Proof.Machine.execBgeu a b o s
  | .jmp im => Sys2Proof.Machine.execJmp im s
  | .jal d im => Sys2Proof.Machine.execJal d im s
  | .jalr d a im => Sys2Proof.Machine.execJalr d a im s
  | .loop a n => Sys2Proof.Machine.execLoop a n s
  | .amo d a b w r p f => Sys2Proof.Machine.execAmo d a b w r p f s
  | .acas d a b w r f => Sys2Proof.Machine.execAcas d a b w r f s
  | .red a b w p f => Sys2Proof.Machine.execRed a b w p f s
  | .cadd d a sh b => Sys2Proof.Machine.execCadd d a sh b s
  | .caddNr a sh b => Sys2Proof.Machine.execCaddNr a sh b s
  | .cwait d a sh b => Sys2Proof.Machine.execCwait d a sh b s
  | .cread d a sh => Sys2Proof.Machine.execCread d a sh s
  | .watch d a => Sys2Proof.Machine.execWatch d a s
  | .waitw d a => Sys2Proof.Machine.execWaitw d a s
  | .fence sh => Sys2Proof.Machine.execFence sh s
  | .qfence a => Sys2Proof.Machine.execQfence a s
  | .bar a sh b => Sys2Proof.Machine.execBar a sh b s
  | .sync => Sys2Proof.Machine.execSync s
  | .pacew d a => Sys2Proof.Machine.execPacew d a s
  | .vaddF32 d a b k => Sys2Proof.Machine.execVaddF32 d a b k s
  | .vsubF32 d a b k => Sys2Proof.Machine.execVsubF32 d a b k s
  | .vmulF32 d a b k => Sys2Proof.Machine.execVmulF32 d a b k s
  | .vfma d a b k => Sys2Proof.Machine.execVfma d a b k s
  | .vminF32 d a b k => Sys2Proof.Machine.execVminF32 d a b k s
  | .vmaxF32 d a b k => Sys2Proof.Machine.execVmaxF32 d a b k s
  | .vabsF32 d a k => Sys2Proof.Machine.execVabsF32 d a k s
  | .vcmpEqF32 m a b k => Sys2Proof.Machine.execVcmpEqF32 m a b k s
  | .vcmpLtF32 m a b k => Sys2Proof.Machine.execVcmpLtF32 m a b k s
  | .vcmpLeF32 m a b k => Sys2Proof.Machine.execVcmpLeF32 m a b k s
  | .vcmpNeF32 m a b k => Sys2Proof.Machine.execVcmpNeF32 m a b k s
  | .vrcp d a k => Sys2Proof.Machine.execVrcp d a k s
  | .vrsq d a k => Sys2Proof.Machine.execVrsq d a k s
  | .vexp2 d a k => Sys2Proof.Machine.execVexp2 d a k s
  | .vlog2 d a k => Sys2Proof.Machine.execVlog2 d a k s
  | .vredAddF32 d a k => Sys2Proof.Machine.execVredAddF32 d a k s
  | .vredMinF32 d a k => Sys2Proof.Machine.execVredMinF32 d a k s
  | .vredMaxF32 d a k => Sys2Proof.Machine.execVredMaxF32 d a k s
  | .vscanAddF32 d a k => Sys2Proof.Machine.execVscanAddF32 d a k s
  | .vscanMinF32 d a k => Sys2Proof.Machine.execVscanMinF32 d a k s
  | .vscanMaxF32 d a k => Sys2Proof.Machine.execVscanMaxF32 d a k s
  | .vtab d a k => Sys2Proof.Machine.execVtab d a k s
  | .vcvt d a k => Sys2Proof.Machine.execVcvt d a k s
  | .vadd d a b k e => Sys2Proof.Machine.execVadd d a b k e s
  | .vsub d a b k e => Sys2Proof.Machine.execVsub d a b k e s
  | .vmul d a b k e => Sys2Proof.Machine.execVmul d a b k e s
  | .vmin d a b k e => Sys2Proof.Machine.execVmin d a b k e s
  | .vmax d a b k e => Sys2Proof.Machine.execVmax d a b k e s
  | .vminU d a b k e => Sys2Proof.Machine.execVminU d a b k e s
  | .vmaxU d a b k e => Sys2Proof.Machine.execVmaxU d a b k e s
  | .vabs d a k e => Sys2Proof.Machine.execVabs d a k e s
  | .vand d a b k => Sys2Proof.Machine.execVand d a b k s
  | .vor d a b k => Sys2Proof.Machine.execVor d a b k s
  | .vxor d a b k => Sys2Proof.Machine.execVxor d a b k s
  | .vshl d a b k e => Sys2Proof.Machine.execVshl d a b k e s
  | .vshr d a b k e => Sys2Proof.Machine.execVshr d a b k e s
  | .vsha d a b k e => Sys2Proof.Machine.execVsha d a b k e s
  | .vpopc d a k => Sys2Proof.Machine.execVpopc d a k s
  | .vcmpEq m a b k e => Sys2Proof.Machine.execVcmpEq m a b k e s
  | .vcmpNe m a b k e => Sys2Proof.Machine.execVcmpNe m a b k e s
  | .vcmpLt m a b k e => Sys2Proof.Machine.execVcmpLt m a b k e s
  | .vcmpLe m a b k e => Sys2Proof.Machine.execVcmpLe m a b k e s
  | .vcmpLtU m a b k e => Sys2Proof.Machine.execVcmpLtU m a b k e s
  | .vcmpLeU m a b k e => Sys2Proof.Machine.execVcmpLeU m a b k e s
  | .vsel d a b k => Sys2Proof.Machine.execVsel d a b k s
  | .vperm d a b k => Sys2Proof.Machine.execVperm d a b k s
  | .vextr d a b => Sys2Proof.Machine.execVextr d a b s
  | .vbcast d a k => Sys2Proof.Machine.execVbcast d a k s
  | .vsort d a b k => Sys2Proof.Machine.execVsort d a b k s
  | .vredAdd d a k => Sys2Proof.Machine.execVredAdd d a k s
  | .vredMin d a k => Sys2Proof.Machine.execVredMin d a k s
  | .vredMax d a k => Sys2Proof.Machine.execVredMax d a k s
  | .vscanAdd d a k => Sys2Proof.Machine.execVscanAdd d a k s
  | .vredOr d a k => Sys2Proof.Machine.execVredOr d a k s
  | .vredAnd d a k => Sys2Proof.Machine.execVredAnd d a k s
  | .vld d a b k => Sys2Proof.Machine.execVld d a b k s
  | .vst v a b k => Sys2Proof.Machine.execVst v a b k s
  | .vldx d a b k e => Sys2Proof.Machine.execVldx d a b k e s
  | .vstx v a b k e => Sys2Proof.Machine.execVstx v a b k e s
  | .vfence => Sys2Proof.Machine.execVfence s
  | .mclaim d a => Sys2Proof.Machine.execMclaim d a s
  | .mrel a => Sys2Proof.Machine.execMrel a s
  | .mload a b f => Sys2Proof.Machine.execMload a b f s
  | .mma b => Sys2Proof.Machine.execMma b s
  | .mmaR a b => Sys2Proof.Machine.execMmaR a b s
  | .mdrain a sh b => Sys2Proof.Machine.execMdrain a sh b s
  | .mzero a => Sys2Proof.Machine.execMzero a s
  | .mgrant d a b => Sys2Proof.Machine.execMgrant d a b s
  | .mstat d a w => Sys2Proof.Machine.execMstat d a w s
  | .cpy d a b c => Sys2Proof.Machine.execCpy d a b c s
  | .cpyt d a b c => Sys2Proof.Machine.execCpyt d a b c s
  | .cpyg d a b c => Sys2Proof.Machine.execCpyg d a b c s
  | .seqw d a b => Sys2Proof.Machine.execSeqw d a b s
  | .seqrel a b => Sys2Proof.Machine.execSeqrel a b s
  | .cardef d a => Sys2Proof.Machine.execCardef d a s
  | .carsub d a b => Sys2Proof.Machine.execCarsub d a b s
  | .cardrop d a => Sys2Proof.Machine.execCardrop d a s
  | .carskip d a => Sys2Proof.Machine.execCarskip d a s
  | .carprom d a => Sys2Proof.Machine.execCarprom d a s
  | .carwait d a b => Sys2Proof.Machine.execCarwait d a b s
  | .carpos d a b => Sys2Proof.Machine.execCarpos d a b s
  | .raytri d a b k => Sys2Proof.Machine.execRaytri d a b k s
  | .raybox d a b k => Sys2Proof.Machine.execRaybox d a b k s
  | .rayhit d a b => Sys2Proof.Machine.execRayhit d a b s
  | .spsort a => Sys2Proof.Machine.execSpsort a s
  | .spsortG d a b => Sys2Proof.Machine.execSpsortG d a b s
  | .spcomp d a b => Sys2Proof.Machine.execSpcomp d a b s
  | .attr d a b => Sys2Proof.Machine.execAttr d a b s
  | .pxout d a b => Sys2Proof.Machine.execPxout d a b s
  | .frsend a b => Sys2Proof.Machine.execFrsend a b s
  | .edge => Sys2Proof.Machine.execEdge s
  | .emode d a => Sys2Proof.Machine.execEmode d a s
  | .krbin a b => Sys2Proof.Machine.execKrbin a b s
  | .vksend a b k => Sys2Proof.Machine.execVksend a b k s
  | .xmit a b l => Sys2Proof.Machine.execXmit a b l s
  | .xsel d a b l => Sys2Proof.Machine.execXsel d a b l s
  | .spawn d a b => Sys2Proof.Machine.execSpawn d a b s
  | .mbox d a b => Sys2Proof.Machine.execMbox d a b s
  | .gang d n => Sys2Proof.Machine.execGang d n s
  | .ungang => Sys2Proof.Machine.execUngang s
  | .repb n => Sys2Proof.Machine.execRepb n s
  | .repgo a => Sys2Proof.Machine.execRepgo a s
  | .enq a b p => Sys2Proof.Machine.execEnq a b p s
  | .deq d a p => Sys2Proof.Machine.execDeq d a p s
  | .yield => Sys2Proof.Machine.execYield s
  | .exit => Sys2Proof.Machine.execExit s
  | .tid d k => Sys2Proof.Machine.execTid d k s
  | .qpush a q => Sys2Proof.Machine.execQpush a q s
  | .qpop d q => Sys2Proof.Machine.execQpop d q s
  | .qlevel d q => Sys2Proof.Machine.execQlevel d q s
  | .ext a k => Sys2Proof.Machine.execExt a k s
  | .exti k im h => Sys2Proof.Machine.execExti k im h s
  | .extrd d k => Sys2Proof.Machine.execExtrd d k s
  | .outrng a b => Sys2Proof.Machine.execOutrng a b s
  | .digrd d h => Sys2Proof.Machine.execDigrd d h s
  | .trap n => Sys2Proof.Machine.execTrap n s
  | .sret => Sys2Proof.Machine.execSret s
  | .sysrd d r => Sys2Proof.Machine.execSysrd d r s
  | .syswr a r => Sys2Proof.Machine.execSyswr a r s
  | .halt => Sys2Proof.Machine.execHalt s
  | .brk => Sys2Proof.Machine.execBrk s
  | .snap => Sys2Proof.Machine.execSnap s
  | .wfi => Sys2Proof.Machine.execWfi s
  | .cNop => Sys2Proof.Machine.execCNop s
  | .cMov d sh => Sys2Proof.Machine.execCMov d sh s
  | .cAdd d sh => Sys2Proof.Machine.execCAdd d sh s
  | .cSub d sh => Sys2Proof.Machine.execCSub d sh s
  | .cAddi d im => Sys2Proof.Machine.execCAddi d im s
  | .cShli d h => Sys2Proof.Machine.execCShli d h s
  | .cAnd d sh => Sys2Proof.Machine.execCAnd d sh s
  | .cLdw d sh o => Sys2Proof.Machine.execCLdw d sh o s
  | .cStw v sh o => Sys2Proof.Machine.execCStw v sh o s
  | .cLdd d sh o => Sys2Proof.Machine.execCLdd d sh o s
  | .cStd v sh o => Sys2Proof.Machine.execCStd v sh o s
  | .cBeqz sh o => Sys2Proof.Machine.execCBeqz sh o s
  | .cBnez sh o => Sys2Proof.Machine.execCBnez sh o s
  | .cJmp o => Sys2Proof.Machine.execCJmp o s
  | .cQpop d q => Sys2Proof.Machine.execCQpop d q s
  | .cVfence => Sys2Proof.Machine.execCVfence s
  | .zeroWord => Sys2Proof.Machine.execZeroWord s
  | .reservedMajor w => Sys2Proof.Machine.execReservedMajor w s
  | .launchMessageArrival src => Sys2Proof.Machine.execLaunchMessageArrival src s
  | .launch core => Sys2Proof.Machine.execLaunch core s
  | .retentionCopy core => Sys2Proof.Machine.execRetentionCopy core s
  | .contextUnblock key => Sys2Proof.Machine.execContextUnblock key s
  | .repetitionSequencerIssue key => Sys2Proof.Machine.execRepetitionSequencerIssue key s
  | .vectorWordPerform core => Sys2Proof.Machine.execVectorWordPerform core s
  | .stageFiring part stage cell => Sys2Proof.Machine.execStageFiring part stage cell s
  | .balancerWindow part => Sys2Proof.Machine.execBalancerWindow part s
  | .replay part => Sys2Proof.Machine.execReplay part s
  | .superstepRoutineStart core => Sys2Proof.Machine.execSuperstepRoutineStart core s
  | .syncRelease part => Sys2Proof.Machine.execSyncRelease part s
  | .exchangeRoutineStart core => Sys2Proof.Machine.execExchangeRoutineStart core s
  | .sliceFill pa keyid => Sys2Proof.Machine.execSliceFill pa keyid s
  | .missRetry clu => Sys2Proof.Machine.execMissRetry clu s
  | .retentionEntry kind idx => Sys2Proof.Machine.execRetentionEntry kind idx s
  | .retentionExit kind idx => Sys2Proof.Machine.execRetentionExit kind idx s
  | .pageWalk core va => Sys2Proof.Machine.execPageWalk core va s
  | .rankWindowAccess cell => Sys2Proof.Machine.execRankWindowAccess cell s
  | .threadMove part rank newCore => Sys2Proof.Machine.execThreadMove part rank newCore s
  | .gatewayHoldRelease die => Sys2Proof.Machine.execGatewayHoldRelease die s
  | .storeAcknowledge key sys => Sys2Proof.Machine.execStoreAcknowledge key sys s
  | .relAtomicDepart key => Sys2Proof.Machine.execRelAtomicDepart key s
  | .waitwTimeout key => Sys2Proof.Machine.execWaitwTimeout key s
  | .copyPerform core ch => Sys2Proof.Machine.execCopyPerform core ch s
  | .loopPacketArrival die idx => Sys2Proof.Machine.execLoopPacketArrival die idx s
  | .xmitPlacement core => Sys2Proof.Machine.execXmitPlacement core s
  | .xselCapture core => Sys2Proof.Machine.execXselCapture core s
  | .ringFlitGrant die dir => Sys2Proof.Machine.execRingFlitGrant die dir s
  | .fabricControlFlit die port flit => Sys2Proof.Machine.execFabricControlFlit die port flit s
  | .fabricReplay die port => Sys2Proof.Machine.execFabricReplay die port s
  | .fabricPacketArrival die port pkt => Sys2Proof.Machine.execFabricPacketArrival die port pkt s
  | .paceTick => Sys2Proof.Machine.execPaceTick s
  | .paceTimestampExchange stamp => Sys2Proof.Machine.execPaceTimestampExchange stamp s
  | .paceClockLost => Sys2Proof.Machine.execPaceClockLost s
  | .carouselGroupSend part => Sys2Proof.Machine.execCarouselGroupSend part s
  | .relayGroupArrival die => Sys2Proof.Machine.execRelayGroupArrival die s
  | .passHeaderArrival cell => Sys2Proof.Machine.execPassHeaderArrival cell s
  | .payloadBeatDelivery cell => Sys2Proof.Machine.execPayloadBeatDelivery cell s
  | .lapCut part => Sys2Proof.Machine.execLapCut part s
  | .lapEnd part => Sys2Proof.Machine.execLapEnd part s
  | .reinstatement part seg => Sys2Proof.Machine.execReinstatement part seg s
  | .splatCommandPerform clu => Sys2Proof.Machine.execSplatCommandPerform clu s
  | .mqOperationPerform cell => Sys2Proof.Machine.execMqOperationPerform cell s
  | .remoteMmaArrival cell => Sys2Proof.Machine.execRemoteMmaArrival cell s
  | .keyUpdateApply core => Sys2Proof.Machine.execKeyUpdateApply core s
  | .edgeProgramStart cell => Sys2Proof.Machine.execEdgeProgramStart cell s
  | .edgePushBatch cell => Sys2Proof.Machine.execEdgePushBatch cell s
  | .edgePullBatch cell => Sys2Proof.Machine.execEdgePullBatch cell s
  | .edgeLevelEnd cell => Sys2Proof.Machine.execEdgeLevelEnd cell s
  | .encoderTileArrival die => Sys2Proof.Machine.execEncoderTileArrival die s
  | .frameClose die stream => Sys2Proof.Machine.execFrameClose die stream s
  | .frameOutput die stream => Sys2Proof.Machine.execFrameOutput die stream s
  | .checkHeatStart part => Sys2Proof.Machine.execCheckHeatStart part s
  | .checkVerdict part slot => Sys2Proof.Machine.execCheckVerdict part slot s
  | .thirdHeatStart part slot => Sys2Proof.Machine.execThirdHeatStart part slot s
  | .scoreDecay => Sys2Proof.Machine.execScoreDecay s
  | .shareSetChoice ss => Sys2Proof.Machine.execShareSetChoice ss s
  | .budgetPeriodStart part => Sys2Proof.Machine.execBudgetPeriodStart part s
  | .switchOut part => Sys2Proof.Machine.execSwitchOut part s
  | .switchIn part => Sys2Proof.Machine.execSwitchIn part s
  | .asynchronousCause key => Sys2Proof.Machine.execAsynchronousCause key s
  | .deferredTrap key => Sys2Proof.Machine.execDeferredTrap key s
  | .frzResume core unit => Sys2Proof.Machine.execFrzResume core unit s
  | .frzEnd core unit => Sys2Proof.Machine.execFrzEnd core unit s
  | .frzRetry core unit => Sys2Proof.Machine.execFrzRetry core unit s
  | .frzAbort core unit => Sys2Proof.Machine.execFrzAbort core unit s
  | .tlbiWrite part v => Sys2Proof.Machine.execTlbiWrite part v s
  | .heatrWrite part v => Sys2Proof.Machine.execHeatrWrite part v s
  | .encoderStreamWrite die reg v => Sys2Proof.Machine.execEncoderStreamWrite die reg v s
  | .formatRegionWrite n reg v => Sys2Proof.Machine.execFormatRegionWrite n reg v s
  | .partitionCreate part det ss cells words => Sys2Proof.Machine.execPartitionCreate part det ss cells words s
  | .snapshotTrigger => Sys2Proof.Machine.execSnapshotTrigger s
  | .snapshotLatch part => Sys2Proof.Machine.execSnapshotLatch part s
  | .snapshotImageDone part => Sys2Proof.Machine.execSnapshotImageDone part s
  | .hostLaunch host tag part mbox hdr => Sys2Proof.Machine.execHostLaunch host tag part mbox hdr s
  | .hostRead host tag part va size => Sys2Proof.Machine.execHostRead host tag part va size s
  | .hostWrite host tag part va data => Sys2Proof.Machine.execHostWrite host tag part va data s
  | .hostBiasFlip host tag part va hb => Sys2Proof.Machine.execHostBiasFlip host tag part va hb s
  | .attestation host tag part nonce => Sys2Proof.Machine.execAttestation host tag part nonce s
  | .recoveryImageChunk req chunk => Sys2Proof.Machine.execRecoveryImageChunk req chunk s
  | .recoveryImageEnd fin => Sys2Proof.Machine.execRecoveryImageEnd fin s
  | .configurationRead host tag part arg => Sys2Proof.Machine.execConfigurationRead host tag part arg s
  | .mgmtBiasFlip host tag part va hb => Sys2Proof.Machine.execMgmtBiasFlip host tag part va hb s
  | .mailboxForward host tag part arg mbox target => Sys2Proof.Machine.execMailboxForward host tag part arg mbox target s
  | .stageGraphDeclaration host tag part desc => Sys2Proof.Machine.execStageGraphDeclaration host tag part desc s
  | .reset => Sys2Proof.Machine.execReset s
  | .powerMeasurement die watts => Sys2Proof.Machine.execPowerMeasurement die watts s
  | .softError kind idx wordIdx double => Sys2Proof.Machine.execSoftError kind idx wordIdx double s
  | .fabricLinkUp die link => Sys2Proof.Machine.execFabricLinkUp die link s
  | .powerLoss => Sys2Proof.Machine.execPowerLoss s
  | .partitionRemoval part => Sys2Proof.Machine.execPartitionRemoval part s

end Sys2Proof.Machine
end

