-- ==== Sys2Proof/Machine/Run.lean ====
section
/-! DEFINITION. How the module moves: fetching and issuing a context's next word, gangs, the passing of time, and which
agent moves when no turn is given (02 R23 to R35, 15 R292, R293, R317; notes/assumptions/8.md, DESIGN CHOICE). -/

namespace Sys2Proof.Machine

/-! ### The next instruction of a context -/

/-- The instruction at va, or the cause that its fetch or its decoding raises (15 R292, R293, R317). -/
def State.fetchInstr (s : State) (k : Nat) (va : Word) : Except CauseRec Instr :=
  if va.getLsbD 0 then .error (czAt 0x07 va)
  else match s.fetchHalf k va with
  | .error c => .error c
  | .ok lo =>
    if !lo.getLsbD 0 then
      match decodeTableWord 16 lo.toNat with
      | some i => .ok i
      | none => .error (cz 0x02)
    else match s.fetchHalf k (va + 2) with
      | .error c => .error c
      | .ok hi => match decodeTableWord 32 (hi ++ lo).toNat with
        | some i => .ok i
        | none => .error (cz 0x02)

/-- A pending scalar register among those a word names (02 R25). -/
def Ctx.pending (x : Ctx) (i : Instr) : Bool := i.wellFormed && (scalarRegs i).any (fun r => x.pendR.contains r)

/-- A trap of the stream of context k, whose gang disbands before entry (02 R35); its vector words come first (12 R262). -/
def State.streamTrap (s : State) (k : Nat) (c : CauseRec) (member : BitVec 3) : State :=
  if s.vbusy k then s.setCtx k { s.ctx k with cs := .blocked .precise }
  else (s.disband k).takeTrap k (s.ctx k).pc c 0 member

/-! ### Gangs (02 R34, R35) -/

/-- A word that decides the path: a follower takes the leader's, and of the word performs the link alone. -/
def pathWord : Instr → Bool
  | .beq .. | .bne .. | .blt .. | .bge .. | .bltu .. | .bgeu .. | .jmp .. | .loop .. | .cBeqz .. | .cBnez .. | .cJmp .. => true
  | _ => false

/-- What member m does with the leader's word. -/
def State.memberExec (s : State) (leader m : Nat) (i : Instr) : Host.Outcome State Fault Refusal :=
  let s : State := { s with cur := m, trapTag := none }
  if m = leader then exec i s
  else
    let s := s.setCx { s.cx with cs := .ready, pc := (s.ctx leader).pc }
    match i with
    | .jalr d _ _ => .next (s.wr 4 d (s.cx.pc + 4))
    | _ => if pathWord i then .next s else exec i s

/-- A member that has passed a BAR while another holds the gang back keeps its add, and passes again at once. -/
def keepBar (i : Instr) (x : Ctx) : Option Ctx :=
  match i with
  | .bar .. => if (SMap.find x.resume x.pc.toNat).isNone then some { x with resume := SMap.set x.resume x.pc.toNat 0 } else none
  | _ => none

/-- How a member's part of a word ended. -/
inductive MemberEnd where
  | done (s : State)
  | waits (s : State) (w : Wait)
  | traps (c : CauseRec)

/-- The part of one member, from the state that the members before it left. -/
def State.memberPart (s : State) (leader m : Nat) (i : Instr) : MemberEnd :=
  if (s.ctx m).pending i then .waits s (.regs (scalarRegs i))
  else match s.memberExec leader m i with
  | .next t =>
    match t.trapTag with
    | some (c, _) => .traps c
    | none => match (t.ctx m).cs with
      | .blocked w => .waits t w
      | _ => .done t
  | .fault _ => .done s
  | .refused _ => .done s

/-- The first trap among the members, by number. -/
def State.gangTrap (leader : Nat) (i : Instr) : List Nat → Nat → State → Option (CauseRec × Nat)
  | [], _, _ => none
  | m :: t, n, s => match s.memberPart leader m i with
    | .traps c => some (c, n)
    | .waits _ _ => State.gangTrap leader i t (n + 1) s
    | .done u => State.gangTrap leader i t (n + 1) u

/-- Whether some member waits. -/
def State.gangWaits (leader : Nat) (i : Instr) : List Nat → State → Bool
  | [], _ => false
  | m :: t, s => match s.memberPart leader m i with
    | .waits _ _ => true
    | .traps _ => State.gangWaits leader i t s
    | .done u => State.gangWaits leader i t u

/-- A follower's part counts as its issue, at its own lag (02 R24, R34). -/
def State.issuedBy (s : State) (k : Nat) : State :=
  let x := s.ctx k
  let s := s.setCtx k { x with lastIssue := s.clock + 1 + 2 * x.gang.elim 0 (fun g => g.member), seqr := x.seqr.map (fun q => { q with own := false }) }
  s.setCore (k / 4) { s.core (k / 4) with issues := s.clock + 1 }

/-- Every member executes the word; followers stay Held behind the leader. -/
def State.gangDo (leader : Nat) (i : Instr) : List Nat → State → State
  | [], s => s
  | m :: t, s => match s.memberPart leader m i with
    | .done u => State.gangDo leader i t (if m = leader then u else (u.setCtx m { u.ctx m with cs := .held }).issuedBy m)
    | _ => State.gangDo leader i t s

/-- The gang is held back: each member that waits has begun its wait and notes it, the others have done nothing. -/
def State.gangHold (leader : Nat) (i : Instr) : List Nat → State → State
  | [], s => s
  | m :: t, s =>
    let held := fun (u : State) (w : Option Wait) =>
      let x := u.ctx m
      u.setCtx m { x with cs := if m = leader then .ready else .held, gang := x.gang.map (fun r => { r with wait := w }) }
    match s.memberPart leader m i with
    | .waits u w => State.gangHold leader i t (held u (some w))
    | .done u => match keepBar i (s.ctx m) with
      | some x => State.gangHold leader i t (held (u.setCtx m x) none)
      | none => State.gangHold leader i t (held s none)
    | .traps _ => State.gangHold leader i t s

/-- After a word the followers stand where the leader stands. -/
def State.gangFollow (s : State) (leader : Nat) (ms : List Nat) : State :=
  let x := s.ctx leader
  ms.foldl (fun t m => if m = leader then t else t.setCtx m { t.ctx m with pc := x.pc, loops := x.loops }) s

/-- The leader's word in every member: a trap of the lowest member that raises one disbands the gang; a wait of one holds
back all. -/
def State.gangWord (s : State) (leader : Nat) (g : GangRole) (i : Instr) : Host.Outcome State Fault Refusal :=
  match State.gangTrap leader i g.members 0 s with
  | some (c, n) => .next (s.streamTrap leader c (BitVec.ofNat 3 n))
  | none =>
    if State.gangWaits leader i g.members s then
      let t := State.gangHold leader i g.members s
      let w := (g.members.filterMap (fun m => (t.ctx m).gang.bind (fun r => r.wait))).headD .vector
      .next { t.setCtx leader { t.ctx leader with cs := .blocked w } with cur := leader }
    else
      let t := State.gangDo leader i g.members s
      .next { t.gangFollow leader g.members with cur := leader }

/-! ### Issue -/

/-- A context uses the issue slot of its core in this clock (02 R24); the fetch of its own stream fills the TLBs and the slices (03 R72, R76). -/
def State.issued (s : State) (k : Nat) (own : Bool) : State :=
  let pc := (s.ctx k).pc
  let s := if own then ((s.tlbFill (k / 4) (s.partOf (k / 4)) pc).fetchTouch (k / 4) pc).fetchTouch (k / 4) (pc + 2) else s
  let x := s.ctx k
  let s := s.setCtx k { x with lastIssue := s.clock + 1,
                               seqr := if own then x.seqr.map (fun q => { q with own := false }) else x.seqr }
  s.setCore (k / 4) { s.core (k / 4) with issues := s.clock + 1 }

/-- A branch that is taken, or a jump (15 R293). -/
def Ctx.takes (x : Ctx) : Instr → Bool
  | .beq a b _ => x.s a = x.s b
  | .bne a b _ => x.s a ≠ x.s b
  | .blt a b _ => (x.s a).slt (x.s b)
  | .bge a b _ => !(x.s a).slt (x.s b)
  | .bltu a b _ => (x.s a).ult (x.s b)
  | .bgeu a b _ => !(x.s a).ult (x.s b)
  | .cBeqz r _ => x.s (creg r) = 0
  | .cBnez r _ => x.s (creg r) ≠ 0
  | .jalr _ a i => !(x.s a + simm i).getLsbD 0
  | .jmp _ | .jal .. | .cJmp _ => true
  | _ => false

/-- What is fetched after a taken branch or jump sees the writes before it. -/
def State.refetch (s : State) (k : Nat) (i : Instr) : State := if (s.ctx k).takes i then s.freshFetch k else s

/-- A decoded word of context k, which moves: it waits for a pending register, or is executed by the context or its gang;
EXIT and UNGANG act once for a gang. -/
def State.perform (s : State) (k : Nat) (i : Instr) : Host.Outcome State Fault Refusal :=
  if (s.ctx k).pending i then .next (s.block (.regs (scalarRegs i)))
  else match (s.ctx k).gang with
    | none => exec i (s.refetch k i)
    | some g => match i with
      | .exit => exec i s
      | .ungang => exec i s
      | _ => (s.refetch k i).gangWord k g i

/-- The next word of a Ready context is fetched, decoded and executed (15 R317). -/
def State.ownWord (s : State) (k : Nat) : Host.Outcome State Fault Refusal :=
  let s : State := { s.issued k true with cur := k, trapTag := none }
  match s.fetchInstr k (s.ctx k).pc with
  | .error c => .next (s.streamTrap k c 0)
  | .ok i => s.perform k i

/-- The turn of a context: a deferred fault, then a pending asynchronous cause, at its instruction boundary; else a word of
its sequencer or of its own stream, alternately where both are ready (02 R32, 12 R263, R265). -/
def State.contextTurn (s : State) (k : Nat) : Host.Outcome State Fault Refusal :=
  let x := s.ctx k
  let own := decide (x.cs = .ready)
  if own && x.deferred.isSome then execDeferredTrap k s
  else if own && x.interrupted then execAsynchronousCause k s
  else if s.seqReady k && !(own && x.seqr.any (fun q => q.own)) then
    execRepetitionSequencerIssue k (s.issued k false)
  else if own then s.ownWord k
  else .next s

/-- A context that can use a turn: Ready, or with a sequencer that can issue. -/
def State.hasTurn (s : State) (k : Nat) : Bool :=
  let x := s.ctx k
  (decide (x.cs = .ready) && !(x.deferred.isSome && s.vbusy k)) || s.seqReady k

/-- A core whose partition is being switched issues nothing, unless an exchange routine of it is running (12 R255). -/
def State.mayIssue (s : State) (core : Nat) : Bool :=
  !s.parking core ||
    ((s.cell (core / 4)).part.isSome && s.exchanging (s.part (s.partOf core)))

/-- The context whose last issue lies furthest in the past, the lowest number among those that have not issued (02 R24). -/
def State.turnOf (s : State) (core : Nat) : Option Nat :=
  if !s.mayIssue core then none
  else ((List.range 4).filter (fun i => s.hasTurn (4 * core + i))).foldl (fun b i =>
    match b with
    | none => some (4 * core + i)
    | some k => if (s.ctx (4 * core + i)).lastIssue < (s.ctx k).lastIssue then some (4 * core + i) else b) none

/-- One clock passes; every fourth is a pace tick, but for a correction of the pace count (00 R3, 06 R162). -/
def State.passClock (s : State) : Host.Outcome State Fault Refusal :=
  if s.pacePeriod ≤ s.pacePhase + 250 then execPaceTick s else .next { s with clock := s.clock + 1, pacePhase := s.pacePhase + 250 }

/-- A core's turn: it issues once in a clock, and time passes until it may. -/
def State.coreTurn (s : State) (core : Nat) (rest : List Turn) : Host.Outcome State Fault Refusal :=
  if s.clock < (s.core core).issues then s.passClock
  else
    let s : State := { s with turns := rest }
    match s.turnOf core with
    | none => .next s
    | some k => s.contextTurn k

/-! ### Which agent moves when no turn is given -/

/-- The first of several steps that changes the state. -/
def State.firstChange (s : State) : List (State → Host.Outcome State Fault Refusal) → Option State
  | [] => none
  | f :: t => match f s with
    | .next u => if u = s then s.firstChange t else some u
    | _ => s.firstChange t

/-- Steps that context k may have due. -/
def State.ctxDue (s : State) (k : Nat) : List (State → Host.Outcome State Fault Refusal) :=
  let x := s.ctx k
  (if x.modCnt = 0 then [] else [execStoreAcknowledge k 0]) ++ (if x.sysCnt = 0 then [] else [execStoreAcknowledge k 1]) ++
  (if x.relq.isEmpty then [] else [execRelAtomicDepart k]) ++
  (if x.deferred.isSome then [execDeferredTrap k] else []) ++
  (match x.cs with
    | .blocked _ => [execAsynchronousCause k, execContextUnblock k]
    | .held => if x.isLeaving then [execContextUnblock k] else []
    | .frozen => if x.isLeaving then [execContextUnblock k] else []
    | _ => [])

/-- Steps that a core's units may have due. -/
def State.coreDue (s : State) (n : Nat) : List (State → Host.Outcome State Fault Refusal) :=
  let c := s.core n
  (if c.vq.isEmpty then [] else [execVectorWordPerform n]) ++
  ((List.range 4).flatMap (fun h => if (c.chan h).cmds.isEmpty then [] else [execCopyPerform n h])) ++
  (if c.unsent.isEmpty then [] else [execLaunchMessageArrival n]) ++
  (if c.launchQ.isEmpty then [] else [execRetentionCopy n, execLaunch n]) ++
  (if c.slist.isSome then [execSuperstepRoutineStart n, execExchangeRoutineStart n] else []) ++
  (if c.xmits.isEmpty then [] else [execXmitPlacement n]) ++ (if c.xsels.isEmpty then [] else [execXselCapture n]) ++
  (if c.kin.isEmpty then [] else [execKeyUpdateApply n])

/-- Steps that a cell's units may have due. -/
def State.cellDue (s : State) (n : Nat) : List (State → Host.Outcome State Fault Refusal) :=
  let u := s.cell n
  (if u.holding.isEmpty && (List.range 4).all (fun i => (s.core (4 * n + i)).held.isEmpty) then [] else [execRankWindowAccess n]) ++
  (if u.catchQ.isEmpty then [] else [execPassHeaderArrival n, execPayloadBeatDelivery n]) ++
  (if u.mmaIn.isEmpty then [] else [execRemoteMmaArrival n]) ++ (if u.mq.isEmpty then [] else [execMqOperationPerform n]) ++
  (if u.gq.isEmpty then [] else [execEdgeProgramStart n]) ++
  (if u.edge.isSome then [execEdgePushBatch n, execEdgePullBatch n, execEdgeLevelEnd n] else [])

/-- Steps that a cluster and a die may have due. -/
def State.cluDue (s : State) (n : Nat) : List (State → Host.Outcome State Fault Refusal) :=
  let u := s.clu n
  (if u.splats.isEmpty then [] else [execSplatCommandPerform n]) ++ (if u.retry.isEmpty then [] else [execMissRetry n]) ++
  u.miss.map (fun m => execSliceFill (m.1 * 128) ((SMap.find u.near m.1).elim 0 (fun l => l.keyid)))
def State.dieDue (s : State) (n : Nat) : List (State → Host.Outcome State Fault Refusal) :=
  let d := s.die n
  (if d.gw.toList.all (fun g => g.q.isEmpty) && d.counts.isEmpty then [] else [execGatewayHoldRelease n]) ++
  ((List.range 2).flatMap (fun r => if ((s.die (ringPrev n r)).gateway r).q.isEmpty then [] else [execRingFlitGrant n r])) ++
  (List.range (d.loopPkts.length + 4 * d.landing.length)).map (fun i => execLoopPacketArrival n i) ++ (if d.relay.isEmpty then [] else [execRelayGroupArrival n]) ++
  (if d.fq.isEmpty then [] else [execEncoderTileArrival n]) ++
  ((List.range 8).flatMap (fun i =>
    let t := s.stream n i
    (if bit t.reg[0] 63 && (t.whole t.closed || (t.early.isNone && t.whole (t.closed + 1)) || decide (t.deadline t.closed ≤ s.pace.toNat)) then [execFrameClose n i] else []) ++
      (if t.out.isEmpty then [] else [execFrameOutput n i])))

/-- Steps that a partition's hardware and firmware may have due. -/
def State.partDue (s : State) (n : Nat) : List (State → Host.Outcome State Fault Refusal) :=
  let p := s.part n
  (match p.graph with
    | none => []
    | some g => (if g.due.isEmpty then [] else [execReplay n]) ++
        ((List.range g.stages.length).flatMap (fun i => (g.stages[i]?.elim [] (fun t => t.cells)).map (fun c => execStageFiring n i c))) ++
        [execBalancerWindow n]) ++
  (if p.cells.isEmpty then [] else [execSyncRelease n]) ++
  (p.car.noticed.map (fun g => execReinstatement n g)) ++
  (if p.car.cdef.isSome then [execLapCut n, execLapEnd n, execCarouselGroupSend n] else []) ++
  (p.slots.map (fun e => execCheckVerdict n e.1)) ++ (p.thirdQ.map (fun i => execThirdHeatStart n i)) ++
  (if p.checkQ.isEmpty then [] else [execCheckHeatStart n]) ++
  (if p.share.isSome then [execBudgetPeriodStart n, execSwitchOut n, execSwitchIn n] else []) ++
  (if p.snapT.isSome then [execSnapshotLatch n] else []) ++ (if p.image.isSome then [execSnapshotImageDone n] else []) ++
  ((s.rankList n).filter (fun e => bit e.2 62 || (s.cell (bits e.2 17 2)).oos)).flatMap (fun e => p.cores.map (fun c => execThreadMove n e.1 c))

/-- Every step that may be due inside the module. -/
def State.due (s : State) : List (State → Host.Outcome State Fault Refusal) :=
  (if s.hwMsgs.isEmpty then [] else [execLaunchMessageArrival (2 ^ 18)]) ++ (if s.mgmt.isEmpty then [] else [State.mgmtStep]) ++ (if s.hostQ.isEmpty then [] else [State.hostStep]) ++
  s.ctxs.flatMap (fun e => s.ctxDue e.1) ++ s.cores.flatMap (fun e => s.coreDue e.1) ++
  s.cells.flatMap (fun e => s.cellDue e.1) ++ s.clus.flatMap (fun e => s.cluDue e.1) ++
  (if s.dies.isEmpty then [] else (List.range 8).flatMap s.dieDue) ++ s.parts.flatMap (fun e => s.partDue e.1) ++
  s.shares.map (fun e => execShareSetChoice e.1) ++ [execScoreDecay] ++ (if s.extSnap.isSome then [execSnapshotLatch 64] else [])

/-- The core that has waited longest among those with a turn in this clock. -/
def State.nextCore (s : State) : Option Nat :=
  ((s.ctxs.map (fun e => e.1 / 4)).eraseDups.filter (fun c => decide ((s.core c).issues ≤ s.clock) && (s.turnOf c).isSome)).foldl
    (fun b c => match b with
      | none => some c
      | some d => if (s.core c).issues < (s.core d).issues then some c else b) none

/-- Bring-up goes on; else a step that is due; else a core issues; else time passes. -/
def State.autonomous (s : State) : Host.Outcome State Fault Refusal :=
  if s.boot = 1 then execReset s
  else if s.boot = 3 then execFabricLinkUp 0 { port := 0, routes := [] } s
  else match s.firstChange s.due with
    | some t => .next t
    | none => match s.nextCore with
      | some c => s.coreTurn c []
      | none => s.passClock

/-! ### A program placed for a context (notes/assumptions/8.md, DESIGN CHOICE) -/

/-- The page of a placed program: its virtual address is its physical address. -/
def placeVa : Nat := 0x10000

/-- The tables that map the page for partition p: five tables from 0x1000 on, every right granted. -/
def State.placeTables (s : State) (p : Nat) : State :=
  let tables := [(0x1000, 0x2001), (0x2000, 0x3001), (0x3000, 0x4001), (0x4000, 0x5001), (0x5008, placeVa + 0x7D + p * 2 ^ 52)]
  let s := tables.foldl (fun (t : State) e => t.putBytes 0 e.1 (leBytes 8 e.2)) s
  let q := s.part p
  s.setPart p { q with desc := q.desc.set 0 0x1000 }

/-- Context k has a place to fetch from. -/
def State.canFetch (s : State) (k : Nat) : Bool :=
  match s.fetchHalf k (s.ctx k).pc, s.fetchHalf k ((s.ctx k).pc + 2) with
  | .ok _, .ok _ => !((s.ctx k).pc.getLsbD 0)
  | _, _ => false

/-- The module runs, with the context's cell in a live partition; a partition of its own where it has none. -/
def State.placePart (s : State) (k : Nat) : State :=
  let s : State := { s with power := true, boot := 8, bootHeld := false }
  match (s.cell (k / 16)).part with
  | some _ => s
  | none =>
    let s := s.setPart 0 { s.part 0 with live := true, cells := k / 16 :: (s.part 0).cells }
    s.setCell (k / 16) { s.cell (k / 16) with part := some 0 }

/-- Bytes stored where context k fetches them. -/
def State.placeBytes (s : State) (k : Nat) (va : Word) : List Byte → State
  | [] => s
  | b :: t =>
    let s := match s.translate (k / 4) (s.partOf (k / 4)) va.toNat with
      | .ok (e, lg) => s.putByte (pteKey e) (pteAddr e + va.toNat % 2 ^ lg) b
      | .error _ => s
    s.placeBytes k (va + 1) t

/-- Context k alone of its core has a turn, and it has it at once. -/
def State.placeTurn (s : State) (k : Nat) : State :=
  let x := s.ctx k
  let s := s.setCtx k { x with cs := .ready, seen := s.wroteNum, deferred := none, apend := [], seqr := none, gang := none, pendR := [], loops := [] }
  let s := ((List.range 4).filter (fun i => 4 * (k / 4) + i ≠ k)).foldl (fun (t : State) i =>
    let o := 4 * (k / 4) + i
    if t.hasTurn o then t.setCtx o { t.ctx o with cs := .frozen, seqr := none } else t) s
  let s := s.setCore (k / 4) { s.core (k / 4) with issues := 0 }
  { s with turns := .issue (k / 4) :: s.turns }

/-- Four bytes of code at the program counter of the context that moves, which the next step fetches. -/
def State.placeCode (s : State) (w : Nat) : State :=
  let k := s.cur
  let s := s.placePart k
  let s := if s.canFetch k then s else
    (s.placeTables ((s.cell (k / 16)).part.getD 0)).setCtx k { s.ctx k with pc := BitVec.ofNat 64 placeVa }
  (s.placeBytes k (s.ctx k).pc (leBytes 4 w)).placeTurn k

/-! ### A step -/

/-- One step: the first turn of the schedule, or the module's own choice. Without power nothing moves until a reset. -/
def State.move (s : State) : Host.Outcome State Fault Refusal :=
  match s.turns with
  | [] => if s.power then s.autonomous else .fault .poweredOff
  | .issue core :: rest => if s.power then s.coreTurn core rest else .fault .poweredOff
  | .event i :: rest =>
    if i.isWord then .next { s with turns := rest }
    else match i with
      | .reset => exec i { s with turns := rest }
      | _ => if s.power then exec i { s with turns := rest } else .fault .poweredOff

end Sys2Proof.Machine
end

