-- ==== Sys2Proof/Machine/Step.lean ====
section
/-! DEFINITION. The step of the module. -/

namespace Sys2Proof.Machine

/-- One step of the module (notes/assumptions/8.md, DESIGN CHOICE). -/
def step (s : State) : Host.Outcome State Fault Refusal := s.move

/-- An instruction of nbits bits placed where the next step fetches it, the bits above nbits zero. -/
def State.withFetchWord (s : State) (nbits w : Nat) : State := s.placeCode (w % 2 ^ nbits)

end Sys2Proof.Machine
end

