-- ==== Sys2Proof/Safety.lean ====
section
/-! DEFINITION. The terms in which statements speak of the machine: the invariant and runs, what an instruction leaves
unchanged, and the results that the spec gives the words, written from its rules over integers and natural numbers. -/

namespace Sys2Proof.Machine

/-! ### Invariant and runs -/

/-- The invariant that every step keeps: physical memory is in its canonical form. -/
abbrev State.Inv (s : State) : Prop := Memory.wf s.mem = true

/-- States that steps reach from a state. -/
inductive Reaches : State → State → Prop where
  | here (s : State) : Reaches s s
  | more (s t u : State) : Reaches s t → step t = .next u → Reaches s u

/-- A run from s stops only where the module has no power. -/
def SafeFrom (s : State) : Prop := ∀ t, Reaches s t → t.power = true → ∃ u, step t = .next u

/-! ### What stays unchanged -/

/-- A context with its program counter, LOOP nest and scalar registers left out. -/
def Ctx.bare (x : Ctx) : Ctx := { x with pc := 0, loops := [], sreg := Vector.replicate 32 0 }

/-- A context with its flags left out as well. -/
def Ctx.bareFlags (x : Ctx) : Ctx := { x.bare with st := { x.st with flags := 0 } }

/-- The module with its contexts left out. -/
def State.bare (s : State) : State := { s with ctxs := [] }

/-- Every byte of physical memory reads as before under every key, and so does every byte of every local array. -/
def SameBytes (s t : State) : Prop :=
  (∀ key pa, t.byteAt key pa = s.byteAt key pa) ∧ (∀ core off, Mem.get (t.core core).arr off = Mem.get (s.core core).arr off)

/-- From s to t only scalar register d, the program counter and the LOOP nest of the current context may have changed. -/
def OnlyReg (s t : State) (d : BitVec 5) : Prop :=
  (∀ r, r ≠ d → (t.ctx s.cur).s r = (s.ctx s.cur).s r) ∧ (t.ctx s.cur).bare = (s.ctx s.cur).bare ∧
  (∀ k, k ≠ s.cur → t.ctx k = s.ctx k) ∧ t.bare = s.bare ∧ SameBytes s t

/-- As OnlyReg, and the five flags may have changed too. -/
def OnlyRegFlags (s t : State) (d : BitVec 5) : Prop :=
  (∀ r, r ≠ d → (t.ctx s.cur).s r = (s.ctx s.cur).s r) ∧ (t.ctx s.cur).bareFlags = (s.ctx s.cur).bareFlags ∧
  (∀ k, k ≠ s.cur → t.ctx k = s.ctx k) ∧ t.bare = s.bare ∧ SameBytes s t

/-! ### Results of integer words, over integers and natural numbers -/

/-- 1 for true, 0 for false. -/
def truth (p : Prop) [Decidable p] : Word := if p then 1 else 0

/-- A result of 64 bits, or of 32 bits sign-extended (bit W of the word). -/
def narrowed (w : BitVec 1) (x : Int) : Word :=
  if w = 0 then BitVec.ofInt 64 x else (BitVec.ofInt 32 x).signExtend 64

/-- An operand of 64 bits, or its low 32 bits, read as signed and as unsigned. -/
def sOperand (w : BitVec 1) (x : Word) : Int := if w = 0 then x.toInt else (x.setWidth 32).toInt
def uOperand (w : BitVec 1) (x : Word) : Nat := if w = 0 then x.toNat else x.toNat % 2 ^ 32
/-- The width of the operands. -/
def opWidth (w : BitVec 1) : Nat := if w = 0 then 64 else 32

/-- Register-register words (22 R349, 23 R395, R399, 24 R416, R417, R422, R431, R457): destination
and value. -/
def regRegResult (x : Ctx) : Instr → Option (BitVec 5 × Word)
  | .add d a b => some (d, BitVec.ofNat 64 ((x.s a).toNat + (x.s b).toNat))
  | .sub d a b => some (d, BitVec.ofInt 64 ((x.s a).toInt - (x.s b).toInt))
  | .and d a b => some (d, x.s a &&& x.s b)
  | .or d a b => some (d, x.s a ||| x.s b)
  | .xor d a b => some (d, x.s a ^^^ x.s b)
  | .shl d a b => some (d, BitVec.ofNat 64 ((x.s a).toNat * 2 ^ ((x.s b).toNat % 64)))
  | .shr d a b => some (d, BitVec.ofNat 64 ((x.s a).toNat / 2 ^ ((x.s b).toNat % 64)))
  | .sha d a b => some (d, BitVec.ofInt 64 ((x.s a).toInt / 2 ^ ((x.s b).toNat % 64)))
  | .slt d a b => some (d, truth ((x.s a).toInt < (x.s b).toInt))
  | .sltu d a b => some (d, truth ((x.s a).toNat < (x.s b).toNat))
  | .min d a b => some (d, BitVec.ofInt 64 (min (x.s a).toInt (x.s b).toInt))
  | .max d a b => some (d, BitVec.ofInt 64 (max (x.s a).toInt (x.s b).toInt))
  | .minu d a b => some (d, BitVec.ofNat 64 (min (x.s a).toNat (x.s b).toNat))
  | .maxu d a b => some (d, BitVec.ofNat 64 (max (x.s a).toNat (x.s b).toNat))
  | .seq d a b => some (d, truth (x.s a = x.s b))
  | .sel d a b c => some (d, if x.s c ≠ 0 then x.s a else x.s b)
  | _ => none

/-- Words with an immediate: sign-extended for ADDI, ANDI and SLTI, zero-extended for ORI and XORI; LUI and ADDPC take 20
bits, times 2^15 and times 2 (22 R350, R351, 23 R394, R399, 24 R423, R424, R457). -/
def immResult (x : Ctx) : Instr → Option (BitVec 5 × Word)
  | .addi d a n => some (d, BitVec.ofInt 64 ((x.s a).toInt + n.toInt))
  | .andi d a n => some (d, x.s a &&& BitVec.ofInt 64 n.toInt)
  | .ori d a n => some (d, x.s a ||| BitVec.ofNat 64 n.toNat)
  | .xori d a n => some (d, x.s a ^^^ BitVec.ofNat 64 n.toNat)
  | .slti d a n => some (d, truth ((x.s a).toInt < n.toInt))
  | .shli d a h => some (d, BitVec.ofNat 64 ((x.s a).toNat * 2 ^ h.toNat))
  | .shri d a h => some (d, BitVec.ofNat 64 ((x.s a).toNat / 2 ^ h.toNat))
  | .shai d a h => some (d, BitVec.ofInt 64 ((x.s a).toInt / 2 ^ h.toNat))
  | .lui d n => some (d, BitVec.ofInt 64 (n.toInt * 2 ^ 15))
  | .addpc d n => some (d, BitVec.ofInt 64 (x.pc.toInt + 2 * n.toInt))
  | _ => none

/-- Multiply and divide (23 R398, 22 R372, 23 R412): division by zero gives all ones, a remainder by zero the dividend,
the quotient is truncated toward zero. -/
def mulDivResult (x : Ctx) : Instr → Option (BitVec 5 × Word)
  | .mul d a b w => some (d, narrowed w (sOperand w (x.s a) * sOperand w (x.s b)))
  | .mulh d a b w => some (d, narrowed w (sOperand w (x.s a) * sOperand w (x.s b) / 2 ^ opWidth w))
  | .mulhu d a b w => some (d, narrowed w ((uOperand w (x.s a) * uOperand w (x.s b) / 2 ^ opWidth w : Nat) : Int))
  | .div d a b w => some (d, narrowed w
      (if sOperand w (x.s b) = 0 then -1 else (sOperand w (x.s a)).tdiv (sOperand w (x.s b))))
  | .divu d a b w => some (d, narrowed w
      (if uOperand w (x.s b) = 0 then -1 else ((uOperand w (x.s a) / uOperand w (x.s b) : Nat) : Int)))
  | .rem d a b w => some (d, narrowed w
      (if sOperand w (x.s b) = 0 then sOperand w (x.s a) else (sOperand w (x.s a)).tmod (sOperand w (x.s b))))
  | .remu d a b w => some (d, narrowed w ((uOperand w (x.s a) % uOperand w (x.s b) : Nat) : Int))
  | _ => none

/-- The numbers of the one bits of a word. -/
def onesOf (v : Word) : List Nat := (List.range 64).filter (fun i => v.getLsbD i)

/-- Counts of bits (22 R356, R358, 23 R402): zeros above the highest one bit, zeros below the lowest, and one bits. -/
def countResult (x : Ctx) : Instr → Option (BitVec 5 × Nat)
  | .clz d a => some (d, if x.s a = 0 then 64 else 63 - (onesOf (x.s a)).getLastD 0)
  | .ctz d a => some (d, (onesOf (x.s a)).headD 64)
  | .popc d a => some (d, (onesOf (x.s a)).length)
  | _ => none

/-! ### Branches and jumps -/

/-- A conditional branch: its length, whether it is taken, and its offset in bytes. -/
def branchOf (x : Ctx) : Instr → Option (Nat × Bool × Int)
  | .beq a b o => some (4, decide (x.s a = x.s b), 2 * o.toInt)
  | .bne a b o => some (4, decide (x.s a ≠ x.s b), 2 * o.toInt)
  | .blt a b o => some (4, decide ((x.s a).toInt < (x.s b).toInt), 2 * o.toInt)
  | .bge a b o => some (4, decide ((x.s b).toInt ≤ (x.s a).toInt), 2 * o.toInt)
  | .bltu a b o => some (4, decide ((x.s a).toNat < (x.s b).toNat), 2 * o.toInt)
  | .bgeu a b o => some (4, decide ((x.s b).toNat ≤ (x.s a).toNat), 2 * o.toInt)
  | .cBeqz r o => some (2, decide (x.s (creg r) = 0), 2 * o.toInt)
  | .cBnez r o => some (2, decide (x.s (creg r) ≠ 0), 2 * o.toInt)
  | .jmp o => some (4, true, 2 * o.toInt)
  | .cJmp o => some (2, true, 2 * o.toInt)
  | _ => none

/-! ### Compressed words -/

/-- The 32-bit word of a compressed word that computes (15 R315): destination and value. -/
def compressedResult (x : Ctx) : Instr → Option (BitVec 5 × Word)
  | .cMov d r => some (creg d, x.s (creg r))
  | .cAdd d r => some (creg d, BitVec.ofNat 64 ((x.s (creg d)).toNat + (x.s (creg r)).toNat))
  | .cSub d r => some (creg d, BitVec.ofInt 64 ((x.s (creg d)).toInt - (x.s (creg r)).toInt))
  | .cAnd d r => some (creg d, x.s (creg d) &&& x.s (creg r))
  | .cAddi d n => some (creg d, BitVec.ofInt 64 ((x.s (creg d)).toInt + n.toInt))
  | .cShli d h => some (creg d, BitVec.ofNat 64 ((x.s (creg d)).toNat * 2 ^ h.toNat))
  | .cNop => some (0, 0)
  | _ => none

/-! ### Loads and stores -/

/-- A scalar load: length of the word, bytes, address, destination, and whether the value is sign-extended. -/
def loadOf (x : Ctx) : Instr → Option (Nat × Nat × Word × BitVec 5 × Bool)
  | .ld d a o z => if z = 7 then none else some (4, 2 ^ (z.toNat % 4), x.s a + o.signExtend 64, d, decide (z.toNat < 4))
  | .ldx d a b z h =>
    if z = 7 ∨ 4 ≤ h.toNat then none else some (4, 2 ^ (z.toNat % 4), x.s a + (x.s b <<< h.toNat), d, decide (z.toNat < 4))
  | .cLdw d r o => some (2, 4, x.s (creg r) + BitVec.ofNat 64 (4 * o.toNat), creg d, true)
  | .cLdd d r o => some (2, 8, x.s (creg r) + BitVec.ofNat 64 (8 * o.toNat), creg d, true)
  | _ => none

/-- A scalar store: length of the word, bytes, address and value. -/
def storeOf (x : Ctx) : Instr → Option (Nat × Nat × Word × Word)
  | .st v a o z => if 4 ≤ z.toNat then none else some (4, 2 ^ z.toNat, x.s a + o.signExtend 64, x.s v)
  | .stx v a b z h =>
    if 4 ≤ z.toNat ∨ 4 ≤ h.toNat then none else some (4, 2 ^ z.toNat, x.s a + (x.s b <<< h.toNat), x.s v)
  | .cStw v r o => some (2, 4, x.s (creg r) + BitVec.ofNat 64 (4 * o.toNat), x.s (creg v))
  | .cStd v r o => some (2, 8, x.s (creg r) + BitVec.ofNat 64 (8 * o.toNat), x.s (creg v))
  | _ => none

/-- The destination of a word that changes nothing but a scalar register and the program counter. -/
def plainDst (x : Ctx) (i : Instr) : Option (BitVec 5) :=
  match regRegResult x i, immResult x i, mulDivResult x i, countResult x i, compressedResult x i with
  | some r, _, _, _, _ => some r.1
  | _, some r, _, _, _ => some r.1
  | _, _, some r, _, _ => some r.1
  | _, _, _, some r, _ => some r.1
  | _, _, _, _, some r => some r.1
  | _, _, _, _, _ => match i with
    | .brev d _ => some d
    | .bswap d _ => some d
    | .bfx d _ _ => some d
    | .bfi d _ _ => some d
    | .extrd d _ => some d
    | _ => none

/-- n bytes as a register value. -/
def extended (n : Nat) (signed : Bool) (v : Nat) : Word :=
  if signed && decide (2 ^ (8 * n - 1) ≤ v) then BitVec.ofInt 64 ((v : Int) - 2 ^ (8 * n)) else BitVec.ofNat 64 v

/-! ### Scalar FP32 words -/

/-- Destination, value and flags of an FP32 word: operands are the low 32 bits of the registers, rounded by FRM (05 R119,
R123 to R125; 23 R376 to R382). -/
def fpResult (x : Ctx) : Instr → Option (BitVec 5 × Nat × BitVec 5)
  | .fadd d a b => some (d, fAdd x.st.frm.toNat ((x.s a).toNat % 2 ^ 32) ((x.s b).toNat % 2 ^ 32))
  | .fsub d a b => some (d, fSub x.st.frm.toNat ((x.s a).toNat % 2 ^ 32) ((x.s b).toNat % 2 ^ 32))
  | .fmul d a b => some (d, fMul x.st.frm.toNat ((x.s a).toNat % 2 ^ 32) ((x.s b).toNat % 2 ^ 32))
  | .fdiv d a b => some (d, fDiv x.st.frm.toNat ((x.s a).toNat % 2 ^ 32) ((x.s b).toNat % 2 ^ 32))
  | .fsqrt d a => some (d, fSqrt x.st.frm.toNat ((x.s a).toNat % 2 ^ 32))
  | .fmin d a b => some (d, fMinMax false ((x.s a).toNat % 2 ^ 32) ((x.s b).toNat % 2 ^ 32))
  | .fmax d a b => some (d, fMinMax true ((x.s a).toNat % 2 ^ 32) ((x.s b).toNat % 2 ^ 32))
  | .fcmp d a b r => some (d, if (fCmp r.toNat ((x.s a).toNat % 2 ^ 32) ((x.s b).toNat % 2 ^ 32)).1 then 1 else 0,
      (fCmp r.toNat ((x.s a).toNat % 2 ^ 32) ((x.s b).toNat % 2 ^ 32)).2)
  | .fclass d a => some (d, fClass ((x.s a).toNat % 2 ^ 32), 0)
  | .ffma d a b c =>
    some (d, fFma x.st.frm.toNat ((x.s a).toNat % 2 ^ 32) ((x.s b).toNat % 2 ^ 32) ((x.s c).toNat % 2 ^ 32))
  | _ => none

/-! ### Vector words -/

/-- The destination and the mask of a word that writes the active lanes of one vector register and nothing else but
flags; a VCVT that converts a block is none of these (24 R439, R441, 21 R343). -/
def laneDst (e5 : Word) : Instr → Option (BitVec 5 × BitVec 3)
  | .vaddF32 d _ _ k | .vsubF32 d _ _ k | .vmulF32 d _ _ k | .vfma d _ _ k | .vminF32 d _ _ k | .vmaxF32 d _ _ k
  | .vand d _ _ k | .vor d _ _ k | .vxor d _ _ k | .vperm d _ _ k => some (d, k)
  | .vabsF32 d _ k | .vrcp d _ k | .vrsq d _ k | .vexp2 d _ k | .vlog2 d _ k | .vscanAddF32 d _ k | .vscanMinF32 d _ k
  | .vscanMaxF32 d _ k | .vpopc d _ k | .vbcast d _ k | .vscanAdd d _ k => some (d, k)
  | .vadd d _ _ k _ | .vsub d _ _ k _ | .vmul d _ _ k _ | .vmin d _ _ k _ | .vmax d _ _ k _ | .vminU d _ _ k _
  | .vmaxU d _ _ k _ | .vshl d _ _ k _ | .vshr d _ _ k _ | .vsha d _ _ k _ => some (d, k)
  | .vabs d _ k _ => some (d, k)
  | .vsort d _ _ k => some (d, k)
  | .vcvt d _ k => if bits e5 7 4 = 6 ∨ bits e5 3 0 = 6 then none else some (d, k)
  | _ => none

/-- An integer word on elements: its registers, mask and element code, and the result over integers (24 R440, R441). -/
def elementOp : Instr → Option (BitVec 5 × BitVec 5 × BitVec 5 × BitVec 3 × BitVec 2 × (Nat → Nat → Nat → Int))
  | .vadd d a b k e => some (d, a, b, k, e, fun _ x y => (x : Int) + y)
  | .vsub d a b k e => some (d, a, b, k, e, fun _ x y => (x : Int) - y)
  | .vmul d a b k e => some (d, a, b, k, e, fun _ x y => (x : Int) * y)
  | .vmin d a b k e => some (d, a, b, k, e, fun n x y => min (signedOf n x) (signedOf n y))
  | .vmax d a b k e => some (d, a, b, k, e, fun n x y => max (signedOf n x) (signedOf n y))
  | .vminU d a b k e => some (d, a, b, k, e, fun _ x y => ((min x y : Nat) : Int))
  | .vmaxU d a b k e => some (d, a, b, k, e, fun _ x y => ((max x y : Nat) : Int))
  | .vabs d a k e => some (d, a, a, k, e, fun n x _ => ((signedOf n x).natAbs : Int))
  | .vshl d a b k e => some (d, a, b, k, e, fun n x y => ((x * 2 ^ (y % n) : Nat) : Int))
  | .vshr d a b k e => some (d, a, b, k, e, fun n x y => ((x / 2 ^ (y % n) : Nat) : Int))
  | .vsha d a b k e => some (d, a, b, k, e, fun n x y => signedOf n x / (2 ^ (y % n) : Nat))
  | _ => none

/-- An integer comparison: mask register written, operands, mask, element code and relation (24 R443). -/
def compareOp : Instr → Option (BitVec 3 × BitVec 5 × BitVec 5 × BitVec 3 × BitVec 2 × (Nat → Nat → Nat → Bool))
  | .vcmpEq m a b k e => some (m, a, b, k, e, fun _ x y => decide (x = y))
  | .vcmpNe m a b k e => some (m, a, b, k, e, fun _ x y => decide (x ≠ y))
  | .vcmpLt m a b k e => some (m, a, b, k, e, fun n x y => decide (signedOf n x < signedOf n y))
  | .vcmpLe m a b k e => some (m, a, b, k, e, fun n x y => decide (signedOf n x ≤ signedOf n y))
  | .vcmpLtU m a b k e => some (m, a, b, k, e, fun _ x y => decide (x < y))
  | .vcmpLeU m a b k e => some (m, a, b, k, e, fun _ x y => decide (x ≤ y))
  | _ => none

/-- Result and flags of an FP32 word in a lane, from the lane's operands, the old destination last (24 R442). -/
def floatLane (mode : Nat) : Instr → Option (BitVec 5 × BitVec 5 × BitVec 5 × BitVec 3 × (Nat → Nat → Nat → Nat × BitVec 5))
  | .vaddF32 d a b k => some (d, a, b, k, fun x y _ => fAdd mode x y)
  | .vsubF32 d a b k => some (d, a, b, k, fun x y _ => fSub mode x y)
  | .vmulF32 d a b k => some (d, a, b, k, fun x y _ => fMul mode x y)
  | .vfma d a b k => some (d, a, b, k, fun x y z => fFma mode x y z)
  | .vminF32 d a b k => some (d, a, b, k, fun x y _ => fMinMax false x y)
  | .vmaxF32 d a b k => some (d, a, b, k, fun x y _ => fMinMax true x y)
  | .vabsF32 d a k => some (d, a, a, k, fun x _ _ => (x % 2 ^ 31, 0))
  | .vrcp d a k => some (d, a, a, k, fun x _ _ => fRcp x)
  | .vrsq d a k => some (d, a, a, k, fun x _ _ => fRsq x)
  | .vexp2 d a k => some (d, a, a, k, fun x _ _ => fExp2 x)
  | .vlog2 d a k => some (d, a, a, k, fun x _ _ => fLog2 x)
  | _ => none

/-- Two values that may be absent, combined: the left operand comes from the lower index (05 R137). -/
def joined (f : Nat → Nat → Nat) : Option Nat → Option Nat → Option Nat
  | some u, some v => some (f u v)
  | some u, none => some u
  | none, r => r

/-- A lane where its mask bit is set. -/
def lanePresent (m : Byte) (v : VReg) (i : Nat) : Option Nat := if m.getLsbD i then some (lane v i) else none

/-- The fixed tree over 2^n lanes from lane i on: each half is reduced, then the two are combined (05 R137). -/
def treeOf (f : Nat → Nat → Nat) (m : Byte) (v : VReg) : Nat → Nat → Option Nat
  | 0, i => lanePresent m v i
  | n + 1, i => joined f (treeOf f m v n i) (treeOf f m v n (i + 2 ^ n))

/-- Lane i of a scan after its first n steps, at the distances 1, 2, 4 (05 R138). -/
def scannedBy (f : Nat → Nat → Nat) (m : Byte) (v : VReg) : Nat → Nat → Option Nat
  | 0, i => lanePresent m v i
  | n + 1, i => if i < 2 ^ n then scannedBy f m v n i else joined f (scannedBy f m v n (i - 2 ^ n)) (scannedBy f m v n i)

/-- The rational number that a finite code stands for. -/
def Dy.rat (d : Dy) : Rat := (d.m : Rat) * (2 : Rat) ^ d.e

/-- The segment of a table that E(6) describes in which x lies: the floor of (x - X0) * 2^(32 - SH), clamped (21 R342). -/
def segmentOf (e6 : Word) (x : Nat) : Nat :=
  match fp32.val x, fp32.val (bits e6 63 32) with
  | .inf neg, _ => if neg then 0 else bits e6 31 24
  | .fin _ u, .fin _ v =>
    (min (max ((u.rat - v.rat) * (2 : Rat) ^ (32 - (bits e6 21 16 : Int))).floor 0) (bits e6 31 24)).toNat
  | _, _ => 0

/-! ### The matrix array -/

/-- n products added to an element pair in ascending k (05 R134, R135). -/
def productsAdded (prod : Nat → Nat) (start : W32 × W32) : Nat → W32 × W32
  | 0 => start
  | n + 1 =>
    let p := productsAdded prod start n
    let r := accAdd p.1.toNat p.2.toNat (prod n)
    (BitVec.ofNat 32 r.1, BitVec.ofNat 32 r.2.1)

end Sys2Proof.Machine
end

