-- ==== Sys2Proof/Certificates/Slice0/Obligations.lean ====
section
/-! DEFINITION. The statements for the provers. -/

section
open Sys2Proof Sys2Proof.Machine

/-! ### Scalar registers and integer words -/

/-- S(d) takes the value, the other registers and all else stay; s0 reads as zero and a write to it is discarded;
outside a LOOP level the program counter moves past the word (15 R295). The frame of the words above: only S(d), the
program counter and the LOOP nest may change; no flag, no byte. -/
def Obligations.RegisterWordFrame : Prop :=
  (∀ (s : State) (len : Nat) (d : BitVec 5) (v : Word),
     (s.wr len d v).cx.s d = (if d = 0 then 0 else v) ∧ OnlyReg s (s.wr len d v) d ∧
     (s.cx.loops = [] → (s.wr len d v).cx.pc = s.cx.pc + BitVec.ofNat 64 len)) ∧
  (∀ (s t : State) (i : Instr) (d : BitVec 5),
     plainDst s.cx i = some d → exec i s = .next t → OnlyReg s t d)

/-- Register-register integer words complete with the results of the rules, over integers and naturals. Words with an
immediate complete with the results of the rules. Multiply, divide and remainder words complete; division by zero
gives all ones and the dividend. Compressed words that compute complete as their 32-bit words, 2 bytes long. The words
that the rules give as examples decode to their instructions. -/
def Obligations.IntegerWords : Prop :=
  (∀ (s : State) (i : Instr) (d : BitVec 5) (v : Word),
     regRegResult s.cx i = some (d, v) → exec i s = .next (s.wr 4 d v)) ∧
  (∀ (s : State) (i : Instr) (d : BitVec 5) (v : Word),
     immResult s.cx i = some (d, v) → exec i s = .next (s.wr 4 d v)) ∧
  (∀ (s : State) (i : Instr) (d : BitVec 5) (v : Word),
     mulDivResult s.cx i = some (d, v) → exec i s = .next (s.wr 4 d v)) ∧
  (∀ (s : State) (i : Instr) (d : BitVec 5) (v : Word),
     compressedResult s.cx i = some (d, v) → exec i s = .next (s.wr 2 d v)) ∧
  decodeTableWord 32 0x100E6283 = some (.sub 5 6 7) ∧ decodeTableWord 32 0x300E6283 = some (.or 5 6 7) ∧
  decodeTableWord 32 0x400E6283 = some (.xor 5 6 7) ∧ decodeTableWord 32 0x500E6283 = some (.shl 5 6 7) ∧
  decodeTableWord 32 0x600E6283 = some (.shr 5 6 7) ∧ decodeTableWord 32 0x700E6283 = some (.sha 5 6 7) ∧
  decodeTableWord 32 0xA00E6283 = some (.min 5 6 7) ∧ decodeTableWord 32 0xB00E6283 = some (.max 5 6 7) ∧
  decodeTableWord 32 0xC00E6283 = some (.minu 5 6 7) ∧ decodeTableWord 32 0xD00E6283 = some (.maxu 5 6 7) ∧
  decodeTableWord 32 0xFFFE9409 = some (.ori 8 9 0x7FFF) ∧ decodeTableWord 32 0x0010840B = some (.xori 8 8 8) ∧
  decodeTableWord 32 0x0020A58D = some (.slti 11 10 16) ∧ decodeTableWord 32 0xFFFE940D = some (.slti 8 9 0x7FFF)

/-- CLZ, CTZ and POPC complete with the counts read off the list of one bits. BREV, BSWAP, BFX and BFI complete; each
result is given bit by bit. The words that the rules give for them decode to their instructions. -/
def Obligations.BitMoveWords : Prop :=
  (∀ (s : State) (i : Instr) (d : BitVec 5) (n : Nat),
     countResult s.cx i = some (d, n) → exec i s = .next (s.wr 4 d (BitVec.ofNat 64 n))) ∧
  (decodeTableWord 32 0x00009417 = some (.clz 8 9) ∧ decodeTableWord 32 0x10009417 = some (.ctz 8 9) ∧
   decodeTableWord 32 0x20009417 = some (.popc 8 9) ∧ decodeTableWord 32 0x30009417 = some (.brev 8 9) ∧
   decodeTableWord 32 0x40009417 = some (.bswap 8 9) ∧ decodeTableWord 32 0x50149417 = some (.bfx 8 9 10)) ∧
  ∀ (s : State) (d a b : BitVec 5),
    (∃ v : Word, exec (.brev d a) s = .next (s.wr 4 d v) ∧ ∀ n, n < 64 → v.getLsbD n = (s.cx.s a).getLsbD (63 - n)) ∧
    (∃ v : Word, exec (.bswap d a) s = .next (s.wr 4 d v) ∧
      ∀ n, n < 64 → v.getLsbD n = (s.cx.s a).getLsbD (8 * (7 - n / 8) + n % 8)) ∧
    (∃ v : Word, exec (.bfx d a b) s = .next (s.wr 4 d v) ∧
      ∀ n, n < 64 → v.getLsbD n =
        (if n ≤ bits (s.cx.s b) 13 8 then (s.cx.s a).getLsbD (bits (s.cx.s b) 5 0 + n)
         else bit (s.cx.s b) 14 && (s.cx.s a).getLsbD (bits (s.cx.s b) 5 0 + bits (s.cx.s b) 13 8))) ∧
    (∃ v : Word, exec (.bfi d a b) s = .next (s.wr 4 d v) ∧
      ∀ n, n < 64 → v.getLsbD n =
        (if bits (s.cx.s b) 5 0 ≤ n ∧ n ≤ bits (s.cx.s b) 5 0 + bits (s.cx.s b) 13 8 then
          (s.cx.s a).getLsbD (n - bits (s.cx.s b) 5 0) else (s.cx.s d).getLsbD n))

/-! ### Control flow -/

/-- Branches and jumps complete: a taken one goes to its target and ends the LOOP levels that do not hold the target,
one that is not taken only moves past the word; nothing else changes. JAL and JALR complete: the link is the address
of the next word and the target is taken from the registers before the link is written; an odd target of JALR traps
with 0x07 and changes nothing but what the trap saves. -/
def Obligations.BranchAndJumpWords : Prop :=
  (∀ (s : State) (i : Instr) (len : Nat) (p : Bool) (off : Int),
     branchOf s.cx i = some (len, p, off) →
     exec i s = .next (if p then
         s.setCx { s.cx with pc := BitVec.ofInt 64 (s.cx.pc.toInt + off),
                             loops := s.cx.loops.dropWhile (fun l =>
                               !decide (l.start ≤ BitVec.ofInt 64 (s.cx.pc.toInt + off) ∧ BitVec.ofInt 64 (s.cx.pc.toInt + off) ≤ l.last)) }
       else s.skip len)) ∧
  (∀ (s : State) (d a : BitVec 5) (o : BitVec 20) (n : BitVec 15),
     exec (.jal d o) s = .next (s.setCx { (s.cx.setS d (s.cx.pc + 4)) with pc := s.cx.pc + BitVec.ofInt 64 (2 * o.toInt) }) ∧
     ((s.cx.s a + BitVec.ofInt 64 n.toInt).getLsbD 0 = false →
       exec (.jalr d a n) s = .next (s.setCx { (s.cx.setS d (s.cx.pc + 4)) with pc := s.cx.s a + BitVec.ofInt 64 n.toInt })) ∧
     ((s.cx.s a + BitVec.ofInt 64 n.toInt).getLsbD 0 = true →
       exec (.jalr d a n) s = .next (s.stopped (.trap (cz 0x07)))))

/-- LOOP completes: with a count of zero it goes past the body; else it opens a level. With three levels open it traps
with 0x06; at the last word of an open level, or over one, with 0x02; where a word of its body cannot be fetched, with the
cause of that fetch. The body's end is found by the lengths of its words. At the last word of the
innermost level a count above 1 falls by 1 and the body runs again; at 1 the level ends; any other word only moves on. -/
def Obligations.LoopNest : Prop :=
  (∀ (s : State) (a : BitVec 5) (n : BitVec 15) (last : Word) (len : Nat),
     n ≠ 0 → s.cx.loops.length < 3 → s.cx.loops.all (fun l => l.last ≠ s.cx.pc) = true →
     s.wordsFrom s.cur (n.toNat - 1) (s.cx.pc + 4) = .ok (last, len) →
     s.cx.loops.all (fun l => !(s.cx.pc + 4 ≤ l.last && l.last ≤ last)) = true →
     exec (.loop a n) s = .next (s.setCx (if s.cx.s a = 0 then { s.cx with pc := last + BitVec.ofNat 64 len }
       else { s.cx with pc := s.cx.pc + 4, loops := { start := s.cx.pc + 4, last := last, rem := s.cx.s a } :: s.cx.loops }))) ∧
  (∀ (s : State) (a : BitVec 5) (n : BitVec 15), n ≠ 0 →
     (3 ≤ s.cx.loops.length → exec (.loop a n) s = .next (s.stopped (.trap (cz 0x06)))) ∧
     (s.cx.loops.length < 3 → (∃ l ∈ s.cx.loops, l.last = s.cx.pc) → exec (.loop a n) s = .next (s.stopped (.trap (cz 0x02)))) ∧
     (s.cx.loops.length < 3 → (∀ l ∈ s.cx.loops, l.last ≠ s.cx.pc) →
       (∀ c, s.wordsFrom s.cur (n.toNat - 1) (s.cx.pc + 4) = .error c →
         exec (.loop a n) s = .next (s.stopped (.trap c))) ∧
       (∀ last len, s.wordsFrom s.cur (n.toNat - 1) (s.cx.pc + 4) = .ok (last, len) →
         (∃ l ∈ s.cx.loops, s.cx.pc + 4 ≤ l.last ∧ l.last ≤ last) →
         exec (.loop a n) s = .next (s.stopped (.trap (cz 0x02)))))) ∧
  (∀ (x : Ctx) (l : LoopLevel) (t : List LoopLevel) (len : Nat), x.loops = l :: t →
     (l.last = x.pc → 1 < l.rem.toNat → x.advance len = { x with pc := l.start, loops := { l with rem := l.rem - 1 } :: t }) ∧
     (l.last = x.pc → l.rem.toNat ≤ 1 → x.advance len = { x with pc := x.pc + BitVec.ofNat 64 len, loops := t }) ∧
     (l.last ≠ x.pc → x.advance len = { x with pc := x.pc + BitVec.ofNat 64 len }))

/-! ### FP32 words -/

/-- FP32 words complete: the result is zero-extended, the flags are added to those that stand; nothing else changes.
FCVT completes for the codes of Table 15-14 and traps with 0x02 for any other; the result goes to S(d) and the flags
are added. FCLASS gives one bit of ten for every code. -/
def Obligations.FloatingPointWords : Prop :=
  (∀ (s : State) (i : Instr) (d : BitVec 5) (v : Nat) (f : BitVec 5),
     fpResult s.cx i = some (d, v, f) →
     ∃ t, exec i s = .next t ∧ t.cx.s d = (if d = 0 then 0 else BitVec.ofNat 64 v) ∧
       t.cx.st = { s.cx.st with flags := s.cx.st.flags ||| f } ∧ OnlyRegFlags s t d ∧
       (s.cx.loops = [] → t.cx.pc = s.cx.pc + 4)) ∧
  (∀ (s : State) (d a : BitVec 5) (sat : BitVec 1) (x : BitVec 4) (y : BitVec 5) (rtz : BitVec 1),
     (fcvtCodes sat x y rtz = false → exec (.fcvt d a sat x y rtz) s = .next (s.stopped (.trap (cz 0x02)))) ∧
     (fcvtCodes sat x y rtz = true → ∃ t, exec (.fcvt d a sat x y rtz) s = .next t ∧ OnlyRegFlags s t d ∧
       t.cx.s d = (if d = 0 then 0 else (fcvtWord s.cx.st.frm.toNat x.toNat y.toNat (sat = 1) (rtz = 1) (s.cx.s a)).1) ∧
       t.cx.st.flags = s.cx.st.flags ||| (fcvtWord s.cx.st.frm.toNat x.toNat y.toNat (sat = 1) (rtz = 1) (s.cx.s a)).2)) ∧
  (∀ x : Nat, x < 2 ^ 32 → ∃ k, k < 10 ∧ fClass x = 2 ^ k)

/-! ### Memory words -/

/-- Scalar loads complete when the address is reached, no queued vector word touches its sectors and no stored word
fails: the little-endian bytes of the place, extended, go to S(d). A load from the core's own scratch completes with
the bytes of the ways that are scratch, and changes no byte; no vector word, key update or atomic of the context stands before
it then. -/
def Obligations.LoadWords : Prop :=
  (∀ (s : State) (i : Instr) (len n : Nat) (va : Word) (d : BitVec 5) (sg : Bool) (p : Place) (b : List Byte),
     loadOf s.cx i = some (len, n, va, d, sg) → s.reach s.cur (Req.load n) va = .ok p → s.ordered s.cur va n = .ok () →
     s.readPlace s.cur p n va = .ok b →
     exec i s = .next ((s.afterRead s.curCore p n va).wr len d (extended n sg (leNat b)))) ∧
  (∀ (s : State) (i : Instr) (len n : Nat) (va : Word) (d : BitVec 5) (sg : Bool),
     loadOf s.cx i = some (len, n, va, d, sg) → s.cx.st.chk = false → va.toNat % n = 0 → va.toNat < 0x10000 →
     va.toNat + n ≤ extent (s.core s.curCore).waym → s.ordered s.cur va n = .ok () →
     (s.core s.curCore).ways = none → (s.core s.curCore).ecc = Ecc.reset → s.cx.relq = [] →
     ∃ t, exec i s = .next t ∧
       t.cx.s d = (if d = 0 then 0 else extended n sg (leNat (s.scratchBytes s.curCore va.toNat n))) ∧ OnlyReg s t d)

/-- Scalar stores complete when the address is reached, the sectors are free, no earlier store of the context waits for a rank
in transit and a place under the acknowledge count is free: the little-endian bytes stand at the place, and the operation counts. A store to physical memory puts the bytes of
the value at the address in ascending order. -/
def Obligations.StoreWords : Prop :=
  (∀ (s u : State) (i : Instr) (len n : Nat) (va v : Word) (p : Place),
     storeOf s.cx i = some (len, n, va, v) → s.reach s.cur (Req.store n) va = .ok p → s.ordered s.cur va n = .ok () →
     s.heldStore s.cur (2 ^ 20) = none → s.ackRoom s.cur p = .ok () → s.writePlace s.cur p (leBytes n v.toNat) va = .ok u →
     exec i s = .next ((u.addAck s.cur p).skip len)) ∧
  (∀ (s u : State) (k n : Nat) (pa key : Nat) (ctr unc hb : Bool) (va v : Word),
     s.writePlace k (.phys pa key ctr unc hb) (leBytes n v.toNat) va = .ok u →
     (∀ j, j < n → u.byteAt key (pa + j) = BitVec.ofNat 8 (v.toNat / 256 ^ j)) ∧
     (∀ a, a < pa ∨ pa + n ≤ a → u.byteAt key a = s.byteAt key a))

/-- The frame of the stores: no register or flag changes, and no byte but the n bytes at the place that the address
reaches; a store that waits or faults, before its place is reached or after, changes none. Under another key a byte of the
same sector may read otherwise. In a check heat a store changes no array: its bytes stand in its slot's shadow store. The
frame of the loads: no byte of memory or of an array changes, and no register but S(d); a load that traps or waits
changes none. -/
def Obligations.MemoryWordFrame : Prop :=
  (∀ (s t : State) (i : Instr) (len n : Nat) (va v : Word),
     storeOf s.cx i = some (len, n, va, v) → s.cx.st.chk = false → exec i s = .next t →
     (t.ctx s.cur).sreg = s.cx.sreg ∧ (t.ctx s.cur).vreg = s.cx.vreg ∧ (t.ctx s.cur).mreg = s.cx.mreg ∧
     (t.ctx s.cur).ereg = s.cx.ereg ∧ (t.ctx s.cur).st.flags = s.cx.st.flags ∧
     (∀ pa key ctr unc hb, s.reach s.cur (Req.store n) va = .ok (.phys pa key ctr unc hb) →
       (∀ a, a < pa ∨ pa + n ≤ a → t.byteAt key a = s.byteAt key a) ∧
       (∀ other a, a / 32 ≠ pa / 32 → a / 32 ≠ (pa + n - 1) / 32 → t.byteAt other a = s.byteAt other a) ∧
       (∀ core off, Mem.get (t.core core).arr off = Mem.get (s.core core).arr off)) ∧
     (∀ core off, s.reach s.cur (Req.store n) va = .ok (.array core off) →
       (∀ key a, t.byteAt key a = s.byteAt key a) ∧
       (∀ c o, c ≠ core ∨ o < off ∨ off + n ≤ o → Mem.get (t.core c).arr o = Mem.get (s.core c).arr o)) ∧
     (∀ e, s.reach s.cur (Req.store n) va = .error e → SameBytes s t) ∧
     (∀ p, s.reach s.cur (Req.store n) va = .ok p →
       (s.ordered s.cur va n ≠ .ok () ∨ s.heldStore s.cur (2 ^ 20) ≠ none ∨ s.ackRoom s.cur p ≠ .ok () ∨
         ∃ e, s.writePlace s.cur p (leBytes n v.toNat) va = .error e) → SameBytes s t)) ∧
  (∀ (s t : State) (i : Instr) (len n : Nat) (va v : Word) (a : Nat),
     storeOf s.cx i = some (len, n, va, v) → s.cx.st.chk = true → s.reach s.cur (Req.store n) va = .ok (.shadow a) →
     exec i s = .next t →
     (∀ core off, Mem.get (t.core core).arr off = Mem.get (s.core core).arr off) ∧
     (∀ pt j r, s.retSlot s.cur = some (pt, j, r) → s.ordered s.cur va n = .ok () → s.heldStore s.cur (2 ^ 20) = none →
       (r.put a (leBytes n v.toNat)).sectors ≤ 8192 →
       SMap.find (t.part pt).slots j = some (r.put a (leBytes n v.toNat)) ∧ (t.ctx s.cur).sreg = s.cx.sreg ∧
       (t.ctx s.cur).st = s.cx.st ∧ (t.ctx s.cur).pc = (s.cx.advance len).pc)) ∧
  (∀ (s t : State) (i : Instr) (len n : Nat) (va : Word) (d : BitVec 5) (sg : Bool),
     loadOf s.cx i = some (len, n, va, d, sg) → s.cx.st.chk = false → exec i s = .next t →
     SameBytes s t ∧ (∀ r, r ≠ d → (t.ctx s.cur).s r = s.cx.s r) ∧ (t.ctx s.cur).vreg = s.cx.vreg ∧
     (t.ctx s.cur).mreg = s.cx.mreg ∧ (t.ctx s.cur).ereg = s.cx.ereg ∧ (t.ctx s.cur).st.flags = s.cx.st.flags)

/-- An address that is no multiple of the access size traps with 0x20 and the address, before any other check. -/
def Obligations.AlignmentTraps : Prop :=
  ∀ (s : State) (i : Instr) (n : Nat) (va : Word),
    ((∃ len d sg, loadOf s.cx i = some (len, n, va, d, sg)) ∨ (∃ len v, storeOf s.cx i = some (len, n, va, v))) →
    va.toNat % n ≠ 0 → exec i s = .next (s.stopped (.trap (czAt 0x20 va)))

/-- What the address checks let pass: the address is canonical, and a physical place lies in a page of the context's own
partition whose entry grants the access, and the user level where the context runs there; it is no counter page where
those are refused. -/
def Obligations.ReachIsProtected : Prop :=
  ∀ (s : State) (k : Nat) (q : Req) (va : Word) (pa key : Nat) (ctr unc hb : Bool),
    s.reach k q va = .ok (.phys pa key ctr unc hb) →
    spaceOf va = .translated ∧ va.toNat % q.size = 0 ∧ s.backed pa = true ∧
    ∃ e lg, s.translate (k / 4) (s.partOf (k / 4)) va.toNat = .ok (e, lg) ∧ pteOwner e = s.partOf (k / 4) ∧
      (q.r = true → pteR e = true) ∧ (q.w = true → pteW e = true) ∧ ((s.ctx k).st.priv = 0 → pteU e = true) ∧
      (q.noCtr = true → pteCtr e = false) ∧ pa = pteAddr e + va.toNat % 2 ^ lg ∧ key = pteKey e

/-- PREF completes on every address and traps on none: it moves past its word and changes no register and no byte.
CFLUSH and CINV complete on a line of a readable page that is not host-bias, once the context's earlier accesses to the line are
performed and where no dirty word of it fails: no L1 way of the module holds dirty bytes of the line afterwards, and neither does
its home slice; after CINV no L1 way of the module and no home slice holds the line at all. Each counts as an operation of the
context that its home is to acknowledge. -/
def Obligations.CacheWords : Prop :=
  (∀ (s : State) (a : BitVec 5), ∃ t, exec (.pref a) s = .next t ∧ SameBytes s t ∧
     (t.ctx s.cur).pc = (s.cx.advance 4).pc ∧
     ∀ k, (t.ctx k).sreg = (s.ctx k).sreg ∧ (t.ctx k).vreg = (s.ctx k).vreg ∧ (t.ctx k).mreg = (s.ctx k).mreg ∧
       (t.ctx k).ereg = (s.ctx k).ereg ∧ (t.ctx k).st = (s.ctx k).st) ∧
  (∀ (s : State) (a : BitVec 5) (pa key : Nat) (ctr unc : Bool),
     canonical (s.cx.s a) = true → spaceOf (s.cx.s a) = .translated → s.cx.isWork = false → s.cx.st.chk = false →
     s.transPlace s.curCore s.curPart (s.cx.st.priv = 0) (Req.load 1) (s.cx.s a) = .ok (.phys pa key ctr unc false) →
     s.cx.modCnt < 64 → s.cx.relq = [] → s.dirtyFailing (pa / 128) = false →
     s.ordered s.cur (BitVec.ofNat 64 ((s.cx.s a).toNat / 128 * 128)) 128 = .ok () →
     (∃ t, exec (.cflush a) s = .next t ∧ (t.ctx s.cur).pc = (s.cx.advance 4).pc ∧ (t.ctx s.cur).modCnt = s.cx.modCnt + 1 ∧
       SameBytes s t ∧ (∀ kc ∈ t.cores, ∀ l ∈ kc.2.l1, l.line = pa / 128 → l.dirty = 0) ∧
       ∀ l, SMap.find (t.clu (homeClu pa)).near (pa / 128) = some l → l.dirty = 0) ∧
     (∃ t, exec (.cinv a) s = .next t ∧ (t.ctx s.cur).pc = (s.cx.advance 4).pc ∧ (t.ctx s.cur).modCnt = s.cx.modCnt + 1 ∧
       SameBytes s t ∧ (∀ c, ∀ l ∈ (t.core c).l1, l.line ≠ pa / 128) ∧
       (isGddr pa = true → SMap.find (t.clu (homeClu pa)).near (pa / 128) = none)))

/-! ### Atomics, counters and waiting -/

/-- AMO and ACAS without release, and in a check heat any, complete where their place is reached: memory is read and
written as one access, and S(d) takes the old value. An ACAS that fails is an operation of its die as one that writes is. What an AMO writes over an old value of 8 bytes: the operand, the
sum, the bits, the least or the greatest; an ACAS writes only where the old value is the one expected. -/
def Obligations.AtomicWords : Prop :=
  (∀ (s u : State) (i : Instr) (va : Word) (r : RelAtomic) (p : Place) (b : List Byte),
     ((∃ d a x w o op f, i = .amo d a x w o op f ∧ op.toNat ≤ 8 ∧ (o.getLsbD 1 = false ∨ s.cx.st.chk = true) ∧
         va = s.cx.s a + 8 * f.setWidth 64 ∧ r = atomOperands s.cx d x w false op.toNat ∧
         s.reach s.cur (Req.atomic (if w = 0 then 8 else 4) (o = 0 && d ≠ 0)) va = .ok p) ∨
      (∃ d a x w o f, i = .acas d a x w o f ∧ (o.getLsbD 1 = false ∨ s.cx.st.chk = true) ∧
         va = s.cx.s a + 8 * f.setWidth 64 ∧ r = atomOperands s.cx d x w true 0 ∧
         s.reach s.cur (Req.atomic (if w = 0 then 8 else 4) (o = 0 && d ≠ 0)) va = .ok p)) →
     s.ordered s.cur va (if r.wide then 8 else 4) = .ok () → s.ackRoom s.cur p = .ok () →
     s.readPlace s.cur p (if r.wide then 8 else 4) va = .ok b →
     (match r.newValue (leNat b) with
       | none => s.mayArrive (dieOf (s.cur / 4)) (p.die (s.cur / 4)) = true ∧
           u = (s.afterRead (s.cur / 4) p (if r.wide then 8 else 4) va).stampTo (dieOf (s.cur / 4)) (p.die (s.cur / 4))
       | some v => s.writePlace s.cur p (leBytes (if r.wide then 8 else 4) v) va = .ok u) →
     exec i s = .next ((u.setCtx s.cur ((u.ctx s.cur).setS r.d
       (if r.wide then BitVec.ofNat 64 (leNat b) else (BitVec.ofNat 32 (leNat b)).signExtend 64))).skip 4)) ∧
  (∀ (x y e : Word) (pl : Place) (d : BitVec 5),
     let r := fun (op : Nat) (cas : Bool) =>
       (({ place := pl, va := 0, user := false, ord := 0, wide := true, op := op, cas := cas, v := y.toNat, e := e.toNat, d := d } : RelAtomic).newValue x.toNat).map (BitVec.ofNat 64)
     r 0 false = some y ∧ r 1 false = some (x + y) ∧ r 2 false = some (x &&& y) ∧ r 3 false = some (x ||| y) ∧
     r 4 false = some (x ^^^ y) ∧ r 5 false = some (if x.toInt ≤ y.toInt then x else y) ∧
     r 6 false = some (if y.toInt ≤ x.toInt then x else y) ∧ r 7 false = some (if x.toNat ≤ y.toNat then x else y) ∧
     r 8 false = some (if y.toNat ≤ x.toNat then x else y) ∧ r 0 true = (if x = e then some y else none))

/-- RED completes where its place is reached: the old value is combined at its home and no register changes; a check
heat does not perform it. A .rel or .ar atomic departs at once where nothing of the context is unacknowledged; else the
context goes on: the atomic is held in the network interface with its operands, counts as an operation of its home's scope,
and S(d) is pending. It departs, oldest first, when the module count holds nothing but held atomics. -/
def Obligations.ReductionAndReleaseAtomics : Prop :=
  (∀ (s : State) (a b : BitVec 5) (w : BitVec 1) (op : BitVec 4) (f : BitVec 3),
     (op.toNat ≤ 7 ∨ (op.toNat ≤ 10 ∧ w = 1)) →
     (s.cx.st.chk = true → exec (.red a b w op f) s = .next (s.skip 4)) ∧
     (∀ (u : State) (p : Place) (old : List Byte) (va : Word), s.cx.st.chk = false → va = s.cx.s a + 8 * f.setWidth 64 →
       s.reach s.cur (Req.atomic (if w = 0 then 8 else 4) false) va = .ok p →
       s.ordered s.cur va (if w = 0 then 8 else 4) = .ok () → s.ackRoom s.cur p = .ok () →
       s.readPlace s.cur p.atHome (if w = 0 then 8 else 4) va = .ok old →
       s.writePlace s.cur p.atHome (leBytes (if w = 0 then 8 else 4) (redValue op.toNat (if w = 0 then 8 else 4) (leNat old)
         ((s.cx.s b).toNat % 256 ^ (if w = 0 then 8 else 4)))) va = .ok u →
       exec (.red a b w op f) s = .next ((u.addAck s.cur p).skip 4))) ∧
  (∀ (s : State) (d a x : BitVec 5) (w : BitVec 1) (op : BitVec 4) (f : BitVec 3) (o : BitVec 2) (va : Word) (p : Place),
     op.toNat ≤ 8 → o.getLsbD 1 = true → s.cx.st.chk = false → va = s.cx.s a + 8 * f.setWidth 64 →
     s.reachAny s.cur (Req.atomic (if w = 0 then 8 else 4) false) va = .ok p →
     s.ordered s.cur va (if w = 0 then 8 else 4) = .ok () → s.ackRoom s.cur p = .ok () → s.fenceMet s.cur 0 = true →
     (∃ r : RelAtomic, r = { atomOperands s.cx d x w false op.toNat with place := p, va := va, user := s.cx.st.priv = 0, ord := o } ∧
       (∀ u, s.cx.modCnt = 0 → s.cx.relq = [] → s.atomicLate s.cur r = some u → exec (.amo d a x w o op f) s = .next (u.skip 4)) ∧
       (s.cx.modCnt ≠ 0 → ∃ y, y = { s.cx with relq := s.cx.relq ++ [r], pendR := if d = 0 then s.cx.pendR else d :: s.cx.pendR } ∧
         exec (.amo d a x w o op f) s = .next ((s.setCx (match p.counted s.curCore with
           | none => y
           | some sys => y.addAck sys)).skip 4)))) ∧
  (∀ (s u : State) (k : Nat) (r : RelAtomic) (t : List RelAtomic), (s.ctx k).relq = r :: t →
     (s.ctx k).modCnt = (s.ctx k).heldUnder (k / 4) false →
     (s.setCtx k (match r.place.counted (k / 4) with
       | none => { s.ctx k with relq := t }
       | some sys => ({ s.ctx k with relq := t } : Ctx).subAck sys)).atomicLate k r = some u →
     exec (.relAtomicDepart k) s = .next u)

/-- CADD and CADD.nr add without wrapping past 2^64 - 1; CADD waits for the fence of its scope and gives the old value;
CADD.nr does not wait for it, writes no register and counts as an operation in flight under the count of its home. Both move
past their word, and no register but S(d) changes. CREAD and CWAIT give the value seen, CWAIT once the target is reached; they are
operations of their die. -/
def Obligations.CounterWords : Prop :=
  ∀ (s : State) (d a b : BitVec 5) (sc : BitVec 3) (p : Place) (old : List Byte),
    sc ≠ 7 → s.cx.st.chk = false →
    (∀ u, s.counterAt true (s.cx.s a) = .ok p → s.fenceMet s.cur sc.toNat = true → s.ackRoom s.cur p = .ok () →
      s.readPlace (s.curCore * 4) p 8 (s.cx.s a) = .ok old →
      s.writePlace (s.curCore * 4) p (leBytes 8 (min (leNat old + (s.cx.s b).toNat) (2 ^ 64 - 1))) (s.cx.s a) = .ok u →
      (∃ t, exec (.cadd d a sc b) s = .next t ∧ t.mem = u.mem ∧ t.cx.s d = (if d = 0 then 0 else BitVec.ofNat 64 (leNat old)) ∧
        (∀ r, r ≠ d → t.cx.s r = s.cx.s r) ∧ t.cx.vreg = s.cx.vreg ∧ t.cx.mreg = s.cx.mreg ∧ t.cx.ereg = s.cx.ereg ∧
        t.cx.st = s.cx.st ∧ t.cx.modCnt = s.cx.modCnt ∧ t.cx.sysCnt = s.cx.sysCnt ∧ t.cx.pc = (s.cx.advance 4).pc)) ∧
    (s.counterAt true (s.cx.s a) = .ok p → s.fenceMet s.cur sc.toNat = false →
      exec (.cadd d a sc b) s = .next (s.block (.fence sc.toNat))) ∧
    (∀ u, s.counterAt true (s.cx.s a) = .ok p → s.ackRoom s.cur p = .ok () →
      s.readPlace (s.curCore * 4) p 8 (s.cx.s a) = .ok old →
      s.writePlace (s.curCore * 4) p (leBytes 8 (min (leNat old + (s.cx.s b).toNat) (2 ^ 64 - 1))) (s.cx.s a) = .ok u →
      (∃ t, exec (.caddNr a sc b) s = .next t ∧ t.mem = u.mem ∧ t.cx.sreg = s.cx.sreg ∧ t.cx.vreg = s.cx.vreg ∧
        t.cx.mreg = s.cx.mreg ∧ t.cx.ereg = s.cx.ereg ∧ t.cx.st = s.cx.st ∧ t.cx.pc = (s.cx.advance 4).pc ∧
        t.cx.modCnt = s.cx.modCnt + (if p.counted s.curCore = some false then 1 else 0) ∧
        t.cx.sysCnt = s.cx.sysCnt + (if p.counted s.curCore = some true then 1 else 0))) ∧
    (s.counterAt false (s.cx.s a) = .ok p → s.fenceMet s.cur sc.toNat = true →
      s.readPlace s.cur p 8 (s.cx.s a) = .ok old → s.mayArrive (dieOf s.curCore) (p.die s.curCore) = true →
      exec (.cread d a sc) s = .next ((s.stampTo (dieOf s.curCore) (p.die s.curCore)).wr 4 d (BitVec.ofNat 64 (leNat old))) ∧
      exec (.cwait d a sc b) s = .next (if (s.cx.s b).toNat ≤ leNat old then
          (s.stampTo (dieOf s.curCore) (p.die s.curCore)).wr 4 d (BitVec.ofNat 64 (leNat old))
        else s.block (.counter (s.cx.s a) (s.cx.s b).toNat)))

/-- BAR adds 1 once; it completes when the counter has reached the next multiple of the group's size above the old
value, and otherwise remembers that target while it waits. SYNC joins the next round once and completes when that
round has been released. -/
def Obligations.BarrierAndSyncWords : Prop :=
  (∀ (s : State) (a b : BitVec 5) (sc : BitVec 3) (p : Place),
     sc ≠ 7 → (s.cx.s b).toNat ≠ 0 → (s.cx.s b).toNat ≤ 2 ^ 32 → s.counterAt true (s.cx.s a) = .ok p →
     (∀ old u, SMap.find s.cx.resume s.cx.pc.toNat = none → s.fenceMet s.cur sc.toNat = true →
       s.counterAdd s.curCore p 1 (s.cx.s a) = .ok (old, u) →
       exec (.bar a sc b) s = .next (if (old / (s.cx.s b).toNat + 1) * (s.cx.s b).toNat ≤ old + 1 then u.skip 4
         else u.blockWith ((old / (s.cx.s b).toNat + 1) * (s.cx.s b).toNat)
           (.counter (s.cx.s a) ((old / (s.cx.s b).toNat + 1) * (s.cx.s b).toNat)))) ∧
     (∀ target b', SMap.find s.cx.resume s.cx.pc.toNat = some target → s.readPlace s.cur p 8 (s.cx.s a) = .ok b' →
       s.mayArrive (dieOf s.curCore) (p.die s.curCore) = true → target ≤ leNat b' →
       exec (.bar a sc b) s = .next ((s.stampTo (dieOf s.curCore) (p.die s.curCore)).forget.skip 4))) ∧
  (∀ (s : State), (s.part s.curPart).det = false → s.cx.st.chk = false →
     (SMap.find s.cx.resume s.cx.pc.toNat = none → s.fenceMet s.cur 5 = true →
       ∃ t, exec .sync s = .next t ∧ (t.core s.curCore).joined = (s.core s.curCore).joined + 1 ∧
         t.cx.cs = .blocked (.sync ((s.core s.curCore).joined + 1))) ∧
     (∀ n, SMap.find s.cx.resume s.cx.pc.toNat = some n → n ≤ (s.part s.curPart).rounds →
       exec .sync s = .next (s.forget.skip 4)))

/-- FENCE completes once the scope's condition holds and changes nothing; VFENCE and C.VFENCE once no vector word of
the context is left; YIELD at once; PACEW when the tick has come, with the pace count of the clock in which it issues, or in which its context
becomes Ready; WFI when a cause is due or a
watch has fired; QFENCE at once, with a marker of the queues it names, each with the operations it has accepted.
A WAITW with nothing to wait for returns 0; one with a reason returns the fired entries in bits 7 to 0 and the reasons in bits
12 to 8; one whose tick has passed returns with bit 10, when it executes again and when the timeout comes to the blocked
context; each disarms every entry. WATCH arms a free entry on the sector of a scratch address, on the completion registers or
on a sector of memory and gives its index, gives the index of an entry that watches the target already, and gives all ones
when all eight are in use. That the free entry is the lowest is the model's choice (notes/assumptions/92.md, DESIGN CHOICE). -/
def Obligations.WaitAndWatchWords : Prop :=
  (∀ (s : State) (sc : BitVec 3), sc ≠ 7 → s.fenceMet s.cur sc.toNat = true → exec (.fence sc) s = .next (s.skip 4)) ∧
  (∀ (s : State), s.vbusy s.cur = false → s.cx.seqr = none → s.cx.deferred = none → exec .vfence s = .next (s.skip 4)) ∧
  (∀ (s : State), s.vbusy s.cur = false → s.cx.seqr = none → s.cx.deferred = none → exec .cVfence s = .next (s.skip 2)) ∧
  (∀ (s : State), exec .yield s = .next (s.skip 4)) ∧
  (∀ (s : State) (d a : BitVec 5), s.cx.isWork = false → s.cx.st.pure = false →
     (SMap.find s.cx.resume s.cx.pc.toNat = none → (s.cx.s a).toNat ≤ s.pace.toNat → exec (.pacew d a) s = .next (s.wr 4 d s.pace)) ∧
     (∀ v, SMap.find s.cx.resume s.cx.pc.toNat = some v → exec (.pacew d a) s = .next (s.forget.wr 4 d (BitVec.ofNat 64 v)))) ∧
  (∀ (s : State) (k : Nat) (tick : Word), (s.ctx k).cs = .blocked (.pace tick) → (s.ctx k).gang = none →
     SMap.find (s.ctx k).resume leaving = none → tick.toNat ≤ s.pace.toNat →
     ∃ t, exec (.contextUnblock k) s = .next t ∧ (t.ctx k).cs = .ready ∧
       (SMap.find (t.ctx k).resume (s.ctx k).pc.toNat).map (BitVec.ofNat 64) = some s.pace) ∧
  (∀ (s : State), s.cx.interrupted = true ∨ s.cx.watch.any (fun e => e.fired) = true → exec .wfi s = .next (s.skip 4)) ∧
  (∀ (s : State) (a : BitVec 5), s.cx.st.chk = true ∨ s.cx.s a = 0 → (s.cx.s a).toNat < 256 → exec (.qfence a) s = .next (s.skip 4)) ∧
  (∀ (s : State) (a : BitVec 5), s.cx.st.chk = false → s.cx.s a ≠ 0 → (s.cx.s a).toNat < 256 →
     ∃ m, exec (.qfence a) s = .next (({ s with markers := s.markers.filter (fun k => !s.markerMet k) ++ [m] } : State).skip 4) ∧
       ∀ kind unit n, (kind, unit, n) ∈ m.queues ↔ n = s.accepted kind unit ∧
         ((kind = 0 ∧ ∃ c, c < 4 ∧ bit (s.cx.s a) c = true ∧ unit = s.curCore * 4 + c) ∨
          (kind = 1 ∧ bit (s.cx.s a) 4 = true ∧ unit = s.curCell) ∨ (kind = 2 ∧ bit (s.cx.s a) 5 = true ∧ unit = s.curCell) ∨
          (kind = 3 ∧ bit (s.cx.s a) 6 = true ∧ unit = s.curCell) ∨ (kind = 4 ∧ bit (s.cx.s a) 7 = true ∧ unit = dieOf s.curCore))) ∧
  (∀ (s : State) (d a : BitVec 5), s.cx.s a = 0 → s.cx.st.chk = false → s.cx.reasons = 0 → s.cx.watch = [] → s.cx.apend = [] →
     SMap.find s.cx.resume s.cx.pc.toNat = none →
     ∃ t, exec (.waitw d a) s = .next t ∧ t.cx.s d = 0 ∧ t.cx.pc = (s.cx.advance 4).pc) ∧
  (∀ (s : State) (d a : BitVec 5), s.cx.s a = 0 → s.cx.st.chk = false → s.cx.reasons ≠ 0 → s.cx.apend = [] → d ≠ 0 →
     (∀ e ∈ s.cx.watch, e.idx < 8) → SMap.find s.cx.resume s.cx.pc.toNat = none →
     ∃ t, exec (.waitw d a) s = .next t ∧ t.cx.pc = (s.cx.advance 4).pc ∧ t.cx.watch = [] ∧ t.cx.reasons = 0 ∧
       (∀ i, i < 8 → (t.cx.s d).getLsbD i = s.cx.watch.any (fun e => e.fired && decide (e.idx = i))) ∧
       (∀ i, i < 5 → (t.cx.s d).getLsbD (8 + i) = s.cx.reasons.getLsbD i)) ∧
  (∀ (s : State) (d a : BitVec 5) (tick : Nat), s.cx.isWork = false → s.cx.st.pure = false → s.cx.st.chk = false → d ≠ 0 →
     SMap.find s.cx.resume s.cx.pc.toNat = some tick → tick ≠ 0 → tick ≤ s.pace.toNat →
     ∃ t, exec (.waitw d a) s = .next t ∧ t.cx.pc = (s.cx.advance 4).pc ∧ t.cx.watch = [] ∧ (t.cx.s d).getLsbD 10 = true) ∧
  (∀ (s : State) (k : Nat) (d : BitVec 5) (tick : Nat), (s.ctx k).cs = .blocked (.waitw d) → (s.ctx k).gang = none → d ≠ 0 →
     SMap.find (s.ctx k).resume (s.ctx k).pc.toNat = some tick → tick ≠ 0 → tick ≤ s.pace.toNat →
     ∃ t, exec (.waitwTimeout k) s = .next t ∧ (t.ctx k).cs = .ready ∧ (t.ctx k).pc = ((s.ctx k).advance 4).pc ∧
       (t.ctx k).watch = [] ∧ ((t.ctx k).s d).getLsbD 10 = true) ∧
  (∀ (s : State) (d a : BitVec 5) (off e : Nat), spaceOf (s.cx.s a) = .scratch → (s.core s.curCore).ways = none →
     (s.cx.s a).toNat + 1 ≤ extent (s.core s.curCore).waym →
     off = scratchIdx (s.core s.curCore).waym (s.cx.s a).toNat / 32 →
     (s.cx.watch.find? (fun e => e.tgt = .scratch s.curCore off)).map (fun e => e.idx) = some e →
     exec (.watch d a) s = .next (s.wr 4 d (BitVec.ofNat 64 e))) ∧
  (∀ (s : State) (d a : BitVec 5) (off n : Nat), spaceOf (s.cx.s a) = .scratch → (s.core s.curCore).ways = none →
     (s.cx.s a).toNat + 1 ≤ extent (s.core s.curCore).waym →
     off = scratchIdx (s.core s.curCore).waym (s.cx.s a).toNat / 32 →
     s.cx.watch.find? (fun e => e.tgt = .scratch s.curCore off) = none →
     (List.range 8).find? (fun i => !(s.cx.watch.any (fun e => e.idx = i))) = some n →
     exec (.watch d a) s = .next ((s.setCx { s.cx with watch := s.cx.watch ++ [{ idx := n, tgt := .scratch s.curCore off, fired := false }] }).wr 4 d (BitVec.ofNat 64 n))) ∧
  (∀ (s : State) (d a : BitVec 5) (off : Nat), spaceOf (s.cx.s a) = .scratch → (s.core s.curCore).ways = none →
     (s.cx.s a).toNat + 1 ≤ extent (s.core s.curCore).waym →
     off = scratchIdx (s.core s.curCore).waym (s.cx.s a).toNat / 32 →
     s.cx.watch.find? (fun e => e.tgt = .scratch s.curCore off) = none →
     (List.range 8).find? (fun i => !(s.cx.watch.any (fun e => e.idx = i))) = none →
     exec (.watch d a) s = .next (s.wr 4 d (-1))) ∧
  (∀ (s : State) (d a : BitVec 5) (n : Nat), spaceOf (s.cx.s a) = .completion → (s.cx.s a).toNat % 2 ^ 56 < 32 → s.cx.isWork = false →
     s.cx.watch.find? (fun e => e.tgt = .completion) = none →
     (List.range 8).find? (fun i => !(s.cx.watch.any (fun e => e.idx = i))) = some n →
     exec (.watch d a) s = .next ((s.setCx { s.cx with watch := s.cx.watch ++ [{ idx := n, tgt := .completion, fired := false }] }).wr 4 d (BitVec.ofNat 64 n))) ∧
  (∀ (s : State) (d a : BitVec 5) (n pa key : Nat) (ctr unc : Bool), spaceOf (s.cx.s a) = .translated → s.cx.isWork = false →
     s.transPlace s.curCore s.curPart (s.cx.st.priv = 0) (Req.load 1) (s.cx.s a) = .ok (.phys pa key ctr unc false) →
     (unc = false ∨ ctr = true) → s.cx.watch.find? (fun e => e.tgt = .phys (pa / 32) ctr) = none →
     (List.range 8).find? (fun i => !(s.cx.watch.any (fun e => e.idx = i))) = some n →
     ∃ t, exec (.watch d a) s = .next t ∧ t.cx.s d = (if d = 0 then 0 else BitVec.ofNat 64 n) ∧ t.cx.pc = (s.cx.advance 4).pc ∧
       t.cx.watch.any (fun e => e.idx = n && e.tgt = .phys (pa / 32) ctr) = true ∧ t.mem = s.mem)

/-! ### Vector words -/

/-- Every vector-class word that passes its checks issues: it enters the vector queue with the values it read, its
scalar destination becomes pending, and the context goes on; a full queue blocks it. Where a vector-class word traps
at issue: an ill-formed word, conversion word or table word with 0x02, a bad frame word with 0x41, a scratch address
that is misaligned with 0x20 and one outside the extent with 0x21, VKSEND of a work routine with 0x2C; a well-formed
word of the others passes. -/
def Obligations.VectorIssue : Prop :=
  (∀ (s : State) (i : Instr) (f : Option (BitVec 5) × Option (BitVec 5) × Option (BitVec 5)),
     vecSpec i = some f → s.vecChecks s.cur i (s.cx.so f.1) (s.cx.so f.2.1) = .ok () →
     ((s.core s.curCore).vq.length < 8 →
       exec i s = .next (((s.setCore s.curCore { s.core s.curCore with vq := (s.core s.curCore).vq ++
           [{ key := s.cur, pc := s.cx.pc, instr := i, x := s.cx.so f.1, y := s.cx.so f.2.1, e5 := s.cx.e 5, e6 := s.cx.e 6,
              e7 := s.cx.e 7, frm := s.cx.st.frm, krb := (s.core s.curCore).krb0, fromSeq := false }] }).setCx
         (s.cx.pend f.2.2)).skip 4)) ∧
     (8 ≤ (s.core s.curCore).vq.length → exec i s = .next (s.block .vq))) ∧
  (∀ (s : State),
     (∀ i f, vecSpec i = some f → i.wellFormed = false → exec i s = .next (s.stopped (.trap (cz 0x02)))) ∧
     (∀ d a k, vcvtOk (s.cx.e 5) d a k = false → exec (.vcvt d a k) s = .next (s.stopped (.trap (cz 0x02)))) ∧
     (∀ d a k, vtabOk (s.cx.e 6) = false → exec (.vtab d a k) s = .next (s.stopped (.trap (cz 0x02)))) ∧
     (∀ d a b, d.toNat ≤ 29 → a.toNat ≤ 30 → (s.core s.curCore).ways = none → frameOk (s.cx.e 7) = false →
       exec (.attr d a b) s = .next (s.stopped (.trap (cz 0x41)))) ∧
     (∀ d a b k, d.toNat ≤ 29 → a.toNat ≤ 24 → (s.core s.curCore).ways = none → (s.cx.s b).toNat % 64 ≠ 0 →
       exec (.raytri d a b k) s = .next (s.stopped (.trap (czAt 0x20 (s.cx.s b))))) ∧
     (∀ d a b k, a.toNat ≤ 24 → (s.core s.curCore).ways = none → (s.cx.s b).toNat % 8 = 0 → s.inScratch s.curCore (s.cx.s b).toNat 24 = false →
       exec (.raybox d a b k) s = .next (s.stopped (.trap (czAt 0x21 (s.cx.s b))))) ∧
     (∀ a b k, s.cx.isWork = true → exec (.vksend a b k) s = .next (s.stopped (.trap (cz 0x2C)))) ∧
     (∀ i f, vecSpec i = some f → i.wellFormed = true →
       (match i with
         | .vcvt .. | .vtab .. | .raytri .. | .raybox .. | .attr .. | .pxout .. | .vksend .. => False
         | _ => True) →
       s.vecChecks s.cur i (s.cx.so f.1) (s.cx.so f.2.1) = .ok ()))

/-- The vector unit performs the oldest word of a core: a word that touches no memory changes its context as its result
says and its scalar destination is pending no more. VLD and VLDX put into each active lane the value their access reads,
zero-extended, and change no byte; a VST or VSTX of one active lane writes as a store does. VTAB gives each active lane
b * x + a of the segment its operand lies in, rounded once, and a quiet NaN for a NaN. A fault found in a word is
deferred, and the context's later words in the queue change nothing. -/
def Obligations.VectorPerform : Prop :=
  ∀ (s : State) (core : Nat) (w : VWord) (t : List VWord),
    (s.core core).vq = w :: t → (s.core core).xsels = [] → (s.core core).ways = none → core = w.key / 4 →
    (∀ z, (s.ctx w.key).vecPure w.instr w.x w.y w.e5 w.frm.toNat = some z →
      exec (.vectorWordPerform core) s =
        .next ((s.setCore core { s.core core with vq := t }).setCtx w.key (z.unpend (vecDst w.instr)))) ∧
    (∀ (u : State) (d a b : BitVec 5) (m : BitVec 3) (n : Nat) (addr : Nat → Word), u = s.setCore core { s.core core with vq := t } →
      (∀ r ∈ (s.ctx w.key).relq, r.ord ≠ 3) →
      ((w.instr = .vld d a b m ∧ n = 4 ∧ ∀ i, addr i = w.x + w.y + BitVec.ofNat 64 (4 * i)) ∨
       (∃ e, w.instr = .vldx d a b m e ∧ e ≠ 3 ∧ n = 4 / 2 ^ e.toNat ∧
          ∀ i, addr i = w.x + BitVec.ofNat 64 (lane ((s.ctx w.key).v b) i))) →
      ∀ val : Nat → Nat, (∀ i, i < 8 → ((s.ctx w.key).m m).getLsbD i = true → ∃ p bs,
          u.reach w.key (Req.load n) (addr i) = .ok p ∧ u.readPlace w.key p n (addr i) = .ok bs ∧ leNat bs = val i) →
        ∃ z, exec (.vectorWordPerform core) s = .next z ∧ SameBytes s z ∧ (z.ctx w.key).sreg = (s.ctx w.key).sreg ∧
          (∀ r, r ≠ d → (z.ctx w.key).v r = (s.ctx w.key).v r) ∧ ∀ i, i < 8 → lane ((z.ctx w.key).v d) i =
            if ((s.ctx w.key).m m).getLsbD i then val i % 2 ^ 32 else lane ((s.ctx w.key).v d) i) ∧
    (∀ (u z : State) (v a b : BitVec 5) (m : BitVec 3) (n i : Nat) (va : Word) (p : Place),
      u = s.setCore core { s.core core with vq := t } →
      ((w.instr = .vst v a b m ∧ n = 4 ∧ va = w.x + w.y + BitVec.ofNat 64 (4 * i)) ∨
       (∃ e, w.instr = .vstx v a b m e ∧ e ≠ 3 ∧ n = 4 / 2 ^ e.toNat ∧
          va = w.x + BitVec.ofNat 64 (lane ((s.ctx w.key).v b) i))) →
      (∀ r ∈ (s.ctx w.key).relq, r.ord ≠ 3) → u.heldStore w.key (2 ^ 20) = none →
      i < 8 → (∀ j, j < 8 → (((s.ctx w.key).m m).getLsbD j = true ↔ j = i)) → (s.ctx w.key).modCnt < 64 → (s.ctx w.key).sysCnt < 64 →
      u.reach w.key (Req.store n) va = .ok p →
      u.writePlace w.key p (leBytes n (lane ((s.ctx w.key).v v) i)) va = .ok z →
      ∃ y, exec (.vectorWordPerform core) s = .next y ∧ y.mem = z.mem ∧ (∀ c, (y.core c).arr = (z.core c).arr) ∧
        (y.ctx w.key).sreg = (s.ctx w.key).sreg ∧ (y.ctx w.key).vreg = (s.ctx w.key).vreg ∧ (y.ctx w.key).mreg = (s.ctx w.key).mreg) ∧
    (∀ (u : State) (d a : BitVec 5) (m : BitVec 3) (ent : Nat → Nat × Nat), u = s.setCore core { s.core core with vq := t } →
      w.instr = .vtab d a m → (s.ctx w.key).relq = [] → bits w.e6 15 0 % 8 = 0 →
      u.inScratch core (bits w.e6 15 0) (8 * (bits w.e6 31 24 + 1)) = true →
      (∀ j, j ≤ bits w.e6 31 24 → ∃ p bs,
        u.reach w.key (Req.load 8) (BitVec.ofNat 64 (bits w.e6 15 0 + 8 * j)) = .ok p ∧
        u.readPlace w.key p 8 (BitVec.ofNat 64 (bits w.e6 15 0 + 8 * j)) = .ok bs ∧ ent j = (leNat (bs.take 4), leNat (bs.drop 4))) →
      ∃ z, exec (.vectorWordPerform core) s = .next z ∧ SameBytes s z ∧ (z.ctx w.key).sreg = (s.ctx w.key).sreg ∧
        (∀ r, r ≠ d → (z.ctx w.key).v r = (s.ctx w.key).v r) ∧ ∀ i x, i < 8 → x = lane ((s.ctx w.key).v a) i →
          lane ((z.ctx w.key).v d) i =
            if ((s.ctx w.key).m m).getLsbD i then
              (match fp32.val x with
                | .nan .. => fp32.quiet x % 2 ^ 32
                | _ => (fFma 0 (ent (segmentOf w.e6 x)).2 x (ent (segmentOf w.e6 x)).1).1 % 2 ^ 32)
            else lane ((s.ctx w.key).v d) i) ∧
    (∀ c, (s.setCore core { s.core core with vq := t }).vecDo w = .error (.trap c) →
      ∃ u, exec (.vectorWordPerform core) s = .next u ∧ (u.ctx w.key).deferred = some (w.pc, c) ∧
        (u.ctx w.key).seqr = none ∧ (u.core core).vq.all (fun v => v.key ≠ w.key) = true ∧
        (u.ctx w.key).sreg = (s.ctx w.key).sreg ∧ (u.ctx w.key).vreg = (s.ctx w.key).vreg ∧ u.mem = s.mem)

/-- The frame of the vector words that write lanes: only the active lanes of the destination change, no other register,
and a comparison changes only its mask register. -/
def Obligations.VectorFrame : Prop :=
  ∀ (x z : Ctx) (i : Instr) (u y e5 : Word) (mode : Nat), x.vecPure i u y e5 mode = some z →
    (∀ d k, laneDst e5 i = some (d, k) →
      (∀ n, n < 8 → (x.m k).getLsbD n = false → lane (z.v d) n = lane (x.v d) n) ∧ (∀ r, r ≠ d → z.v r = x.v r) ∧
      z.sreg = x.sreg ∧ z.mreg = x.mreg ∧ z.ereg = x.ereg ∧ z.pc = x.pc ∧ z.cs = x.cs) ∧
    (∀ m a b k e f, compareOp i = some (m, a, b, k, e, f) →
      z.vreg = x.vreg ∧ z.sreg = x.sreg ∧ (∀ r, r ≠ m → z.m r = x.m r) ∧ z.st = x.st ∧ z.pc = x.pc)

/-- Integer words on elements of 8, 16 or 32 bits: each element of an active lane is the exact result modulo the
element's width, and no flag changes. A comparison sets the bit of an active lane when the relation holds for all its
elements, and clears every other bit. -/
def Obligations.VectorElements : Prop :=
  ∀ (x : Ctx) (i : Instr) (u y e5 : Word) (mode : Nat),
    (∀ d a b k e f, elementOp i = some (d, a, b, k, e, f) → e ≠ 3 → ∃ z, x.vecPure i u y e5 mode = some z ∧ z.st = x.st ∧
      ∀ n j, n < 8 → (x.m k).getLsbD n = true → j < 2 ^ e.toNat →
        ((elem (32 / 2 ^ e.toNat) (lane (z.v d) n) j : Nat) : Int) =
          f (32 / 2 ^ e.toNat) (elem (32 / 2 ^ e.toNat) (lane (x.v a) n) j) (elem (32 / 2 ^ e.toNat) (lane (x.v b) n) j) %
            2 ^ (32 / 2 ^ e.toNat)) ∧
    (∀ m a b k e f, compareOp i = some (m, a, b, k, e, f) → e ≠ 3 → ∃ z, x.vecPure i u y e5 mode = some z ∧
      ∀ n, n < 8 → (z.m m).getLsbD n = ((x.m k).getLsbD n && (List.range (2 ^ e.toNat)).all (fun j =>
        f (32 / 2 ^ e.toNat) (elem (32 / 2 ^ e.toNat) (lane (x.v a) n) j) (elem (32 / 2 ^ e.toNat) (lane (x.v b) n) j))))

/-- FP32 words on lanes: each active lane takes the result of its operands under the rounding mode, and the flags of the
active lanes are added; a comparison sets the bit of an active lane when the relation holds. Logic, bit counts, selection,
permutation, broadcast, extraction, the integer sum and its scan, lane by lane; the least and the greatest, the
disjunction and the conjunction of the active lanes; the reductions and the scans of FP32 lanes over the fixed tree and
the fixed steps of the active lanes, a reduction's result being the identity where no lane is active. VSORT puts the values of
the active lanes into ascending order of their digit, equal digits in their old order. VCVT gives each active lane the
conversion of its low bits, clamped between integer codes; a block is encoded into 32 codes and a scale, and decoded. -/
def Obligations.VectorLanes : Prop :=
  ∀ (x : Ctx) (u y e5 : Word) (mode : Nat) (d a b : BitVec 5) (k : BitVec 3) (n : Nat), n < 8 →
    (∀ i f, floatLane mode i = some (d, a, b, k, f) → ∃ z, x.vecPure i u y e5 mode = some z ∧
      ((x.m k).getLsbD n = true → lane (z.v d) n = (f (lane (x.v a) n) (lane (x.v b) n) (lane (x.v d) n)).1 % 2 ^ 32) ∧
      z.st.flags = x.st.flags ||| ((List.range 8).filter (fun l => (x.m k).getLsbD l)).foldl
        (fun g l => g ||| (f (lane (x.v a) l) (lane (x.v b) l) (lane (x.v d) l)).2) 0) ∧
    (∀ i m rel, ((i = .vcmpEqF32 m a b k ∧ rel = 0) ∨ (i = .vcmpLtF32 m a b k ∧ rel = 1) ∨ (i = .vcmpLeF32 m a b k ∧ rel = 2) ∨
        (i = .vcmpNeF32 m a b k ∧ rel = 3)) → ∃ z, x.vecPure i u y e5 mode = some z ∧ z.vreg = x.vreg ∧ z.sreg = x.sreg ∧
      (z.m m).getLsbD n = ((x.m k).getLsbD n && (fCmp rel (lane (x.v a) n) (lane (x.v b) n)).1)) ∧
    (∀ i f id, ((i = .vredAddF32 d a k ∧ f = fAdd mode ∧ id = 0) ∨ (i = .vredMinF32 d a k ∧ f = fMinMax false ∧ id = 0x7F800000) ∨
        (i = .vredMaxF32 d a k ∧ f = fMinMax true ∧ id = 0xFF800000)) → ∃ z, x.vecPure i u y e5 mode = some z ∧ z.vreg = x.vreg ∧
      (x.m k = 0 → z.s d = if d = 0 then 0 else BitVec.ofNat 64 id) ∧
      (x.m k = 255 → z.s d = if d = 0 then 0 else BitVec.ofNat 64
        (f (f (f (lane (x.v a) 0) (lane (x.v a) 1)).1 (f (lane (x.v a) 2) (lane (x.v a) 3)).1).1
           (f (f (lane (x.v a) 4) (lane (x.v a) 5)).1 (f (lane (x.v a) 6) (lane (x.v a) 7)).1).1).1) ∧
      (∀ r, treeOf (fun p q => (f p q).1) (x.m k) (x.v a) 3 0 = some r → z.s d = if d = 0 then 0 else BitVec.ofNat 64 r)) ∧
    (∀ i f, ((i = .vscanAddF32 d a k ∧ f = fAdd mode) ∨ (i = .vscanMinF32 d a k ∧ f = fMinMax false) ∨
        (i = .vscanMaxF32 d a k ∧ f = fMinMax true)) → ∃ z, x.vecPure i u y e5 mode = some z ∧ z.sreg = x.sreg ∧
      ((x.m k).getLsbD n = true → ∃ r, scannedBy (fun p q => (f p q).1) (x.m k) (x.v a) 3 n = some r ∧
        lane (z.v d) n = r % 2 ^ 32)) ∧
    (∀ i f, ((i = .vand d a b k ∧ f = Nat.land) ∨ (i = .vor d a b k ∧ f = Nat.lor) ∨ (i = .vxor d a b k ∧ f = Nat.xor)) →
      ∃ z, x.vecPure i u y e5 mode = some z ∧ z.st = x.st ∧
        ((x.m k).getLsbD n = true → lane (z.v d) n = f (lane (x.v a) n) (lane (x.v b) n))) ∧
    (∃ z, x.vecPure (.vpopc d a k) u y e5 mode = some z ∧ z.st = x.st ∧ ((x.m k).getLsbD n = true →
      lane (z.v d) n = ((List.range 32).filter (fun j => (lane (x.v a) n).testBit j)).length)) ∧
    (∃ z, x.vecPure (.vsort d a b k) u y e5 mode = some z ∧ z.st = x.st ∧
      ((x.m k).getLsbD n = false → lane (z.v d) n = lane (x.v d) n) ∧
      ∀ src dst dig, src = ((List.range 8).filter (fun l => (x.m k).getLsbD l)).map (fun l => lane (x.v a) l) →
        dst = ((List.range 8).filter (fun l => (x.m k).getLsbD l)).map (fun l => lane (z.v d) l) →
        dig = (fun v => v / 256 ^ (y.toNat % 4) % 256) →
        dst.Perm src ∧ dst.Pairwise (fun p q => dig p ≤ dig q) ∧ ∀ g, dst.filter (fun p => dig p = g) = src.filter (fun p => dig p = g)) ∧
    (vcvtOk e5 d a k = true → bits e5 7 4 ≠ 6 → bits e5 3 0 ≠ 6 → ∃ z, x.vecPure (.vcvt d a k) u y e5 mode = some z ∧
      ((x.m k).getLsbD n = true →
        if intCode (bits e5 3 0) = true ∧ intCode (bits e5 7 4) = true then
          lane (z.v d) n < 2 ^ intWidth (bits e5 7 4) ∧
          signedOf (intWidth (bits e5 7 4)) (lane (z.v d) n) = max (-2 ^ (intWidth (bits e5 7 4) - 1))
            (min (2 ^ (intWidth (bits e5 7 4) - 1) - 1) (signedOf (intWidth (bits e5 3 0)) (lane (x.v a) n)))
        else lane (z.v d) n = (fcvtWord mode (bits e5 7 4) (bits e5 3 0) (bit e5 8) (bit e5 9)
          (BitVec.ofNat 64 (lane (x.v a) n))).1.toNat % 2 ^ codeWidth (bits e5 7 4))) ∧
    (vcvtOk e5 d a k = true → bits e5 7 4 = 6 → ∃ z, x.vecPure (.vcvt d a k) u y e5 mode = some z ∧
      ∀ vals, vals = (List.range 32).map (fun q => lane (x.v (BitVec.ofNat 5 (a.toNat + q / 8))) (q % 8)) →
        (∀ q, q < 32 → lane (z.v d) (q / 8) / 16 ^ (q % 8) % 16 = (encodeBlock (bits e5 11 10) vals).1.getD q 0) ∧
        lane (z.v d) 4 = (encodeBlock (bits e5 11 10) vals).2.1 ∧ lane (z.v d) 5 = 0 ∧ lane (z.v d) 6 = 0 ∧ lane (z.v d) 7 = 0) ∧
    (vcvtOk e5 d a k = true → bits e5 3 0 = 6 → ∃ z, x.vecPure (.vcvt d a k) u y e5 mode = some z ∧ z.st = x.st ∧
      ∀ q, q < 32 → lane (z.v (BitVec.ofNat 5 (d.toNat + q / 8))) (q % 8) =
        decodeCode (lane (x.v a) 4 % 256) (lane (x.v a) (q / 8) / 16 ^ (q % 8) % 16)) ∧
    (∀ i f id, ((i = .vredMin d a k ∧ f = (fun p q => signedOf 32 p ≤ signedOf 32 q) ∧ id = 0x7FFFFFFF) ∨
        (i = .vredMax d a k ∧ f = (fun p q => signedOf 32 q ≤ signedOf 32 p) ∧ id = 0x80000000)) →
      ∃ z r, x.vecPure i u y e5 mode = some z ∧ z.s d = (if d = 0 then 0 else sextN 32 r) ∧ (x.m k = 0 → r = id) ∧
        ((x.m k).getLsbD n = true → f r (lane (x.v a) n)) ∧
        (x.m k ≠ 0 → ∃ l, l < 8 ∧ (x.m k).getLsbD l = true ∧ r = lane (x.v a) l)) ∧
    (∃ z, x.vecPure (.vredOr d a k) u y e5 mode = some z ∧ z.s d = if d = 0 then 0 else
      sextN 32 ((((List.range 8).filter (fun l => (x.m k).getLsbD l)).map (fun l => lane (x.v a) l)).foldl Nat.lor 0)) ∧
    (∃ z, x.vecPure (.vredAnd d a k) u y e5 mode = some z ∧ z.s d = if d = 0 then 0 else
      sextN 32 ((((List.range 8).filter (fun l => (x.m k).getLsbD l)).map (fun l => lane (x.v a) l)).foldl Nat.land 0xFFFFFFFF)) ∧
    (∃ z, x.vecPure (.vsel d a b k) u y e5 mode = some z ∧
      lane (z.v d) n = if (x.m k).getLsbD n then lane (x.v a) n else lane (x.v b) n) ∧
    (∃ z, x.vecPure (.vperm d a b k) u y e5 mode = some z ∧
      ((x.m k).getLsbD n = true → lane (z.v d) n = lane (x.v a) (lane (x.v b) n % 8))) ∧
    (∃ z, x.vecPure (.vbcast d a k) u y e5 mode = some z ∧ ((x.m k).getLsbD n = true → lane (z.v d) n = u.toNat % 2 ^ 32)) ∧
    (∃ z, x.vecPure (.vextr d a b) u y e5 mode = some z ∧
      z.s d = if d = 0 then 0 else BitVec.ofNat 64 (lane (x.v a) (y.toNat % 8))) ∧
    (∃ z, x.vecPure (.vredAdd d a k) u y e5 mode = some z ∧ z.s d = if d = 0 then 0 else
      sextN 32 ((((List.range 8).filter (fun l => (x.m k).getLsbD l)).map (fun l => lane (x.v a) l)).sum)) ∧
    (∃ z, x.vecPure (.vscanAdd d a k) u y e5 mode = some z ∧ ((x.m k).getLsbD n = true → lane (z.v d) n =
      (((List.range (n + 1)).filter (fun l => (x.m k).getLsbD l)).map (fun l => lane (x.v a) l)).sum % 2 ^ 32))

/-! ### The matrix array, copies and the repetition sequencer -/

/-- Matrix words that queue an operation issue when their operands are good: the operation stands last in the cell's mq
with the values it read; with 16 operations queued they wait. -/
def Obligations.MatrixQueueWords : Prop :=
  ∀ (s : State) (i : Instr) (x y : Word),
    ((∃ a, i = .mrel a ∧ x = s.cx.s a ∧ y = 0 ∧ x.toNat < 2 ^ 16) ∨
     (∃ a, i = .mzero a ∧ x = s.cx.s a ∧ y = 0 ∧ x.toNat < 2 ^ 8) ∨
     (∃ a b f, i = .mload a b f ∧ x = s.cx.s a ∧ y = s.cx.s b ∧ f.toNat ≤ 6 ∧ y.toNat < 16 ∧ x.toNat % 128 = 0 ∧
        spaceOf x ≠ .rank ∧ (SMap.find (s.cell s.curCell).claims y.toNat = some (s.cur, none)) ∧ s.cx.isWork = false ∧
        s.engineFree s.cur = .ok ()) ∨
     (∃ b, i = .mma b ∧ x = 0 ∧ y = s.cx.s b ∧
        mmaOk (s.cx.e 0) (s.cx.e 1) (s.cx.e 2) (mshape (s.cx.e 0) (s.cx.e 1) (s.cx.e 2) (if b = 0 then none else some y)) = true ∧
        (slotsUsed (mshape (s.cx.e 0) (s.cx.e 1) (s.cx.e 2) (if b = 0 then none else some y))).all
          (fun o => ((s.cell s.curCell).held s.cur).contains o) = true) ∨
     (∃ a sat b, i = .mdrain a sat b ∧ x = s.cx.s a ∧ y = s.cx.s b ∧ shapeOk (s.cx.e 0) (s.cx.e 2) = true ∧
        drainBytes (bits (s.cx.e 2) 11 8) ≠ 0 ∧ x.toNat % drainBytes (bits (s.cx.e 2) 11 8) = 0 ∧
        y.toNat % drainBytes (bits (s.cx.e 2) 11 8) = 0 ∧ (s.cx.e 3).toNat % 8 = 0 ∧
        s.drainInScratch s.curCore (mshape (s.cx.e 0) (s.cx.e 1) (s.cx.e 2) none) x y = true ∧ s.cx.isWork = false ∧
        (s.core s.curCore).ways = none ∧ s.engineFree s.cur = .ok ())) →
    ((s.cell s.curCell).mq.length < 16 → exec i s = .next ((s.setCell s.curCell { s.cell s.curCell with
        mq := (s.cell s.curCell).mq ++
          [{ instr := i, key := s.cur, task := s.cx.taskNum, pc := s.cx.pc, x := x, y := y, e0 := s.cx.e 0, e1 := s.cx.e 1,
             e2 := s.cx.e 2, e3 := s.cx.e 3, priv := s.cx.st.priv, num := (s.cell s.curCell).mqNum, remote := none, kAt := none }],
        mqNum := (s.cell s.curCell).mqNum + 1 }).skip 4)) ∧
    (16 ≤ (s.cell s.curCell).mq.length → exec i s = .next (s.block .mq))

/-- MCLAIM, MGRANT, MSTAT and MMA.r complete. MCLAIM claims all the slots it names and returns 0, or none and the ones
that are not free; MGRANT returns a capability of the cell whose rights are bits 9 and 8 of its operand, or all ones where the cell
has eight grants; MSTAT returns the values of Table 9-6, and MSTAT.wait blocks while an operation of the context is queued; MMA.r
sends its command to the cell that the capability names, on any die, and waits while something that precedes it there has not
been applied. -/
def Obligations.MatrixScalarWords : Prop :=
  ∀ (s : State) (d a b : BitVec 5) (w : BitVec 1),
    ((s.cx.s a).toNat < 2 ^ 16 →
      (∀ t, t = (maskSlots (s.cx.s a)).filter (fun o => (s.cell s.curCell).claims.any (fun e => e.1 = o && e.2.1 ≠ s.cur)) →
        (t = [] → ∃ u, exec (.mclaim d a) s = .next u ∧ u.cx = (s.cx.setS d 0).advance 4 ∧ SameBytes s u ∧
          ∀ o, SMap.find (u.cell s.curCell).claims o =
            if o ∈ maskSlots (s.cx.s a) then some (s.cur, none) else SMap.find (s.cell s.curCell).claims o) ∧
        (t ≠ [] → exec (.mclaim d a) s = .next (s.wr 4 d (slotMask t))))) ∧
    ((s.cx.s a).toNat < 2 ^ 16 → (s.cx.s b).toNat < 2 ^ 12 → (maskSlots (s.cx.s a)).all (fun o => ((s.cell s.curCell).held s.cur).contains o) = true →
      (s.cx.st.chk = false → (s.cell s.curCell).grants.length < 8 →
        ∃ u g, exec (.mgrant d a b) s = .next u ∧ (u.cell s.curCell).grants = (s.cell s.curCell).grants ++ [g] ∧
          g.slots = (s.cx.s a).toNat ∧ g.key = s.cur ∧ g.part = s.curPart ∧ g.rights = bits (s.cx.s b) 9 8 ∧ g.accs = bits (s.cx.s b) 7 0 ∧
          u.cx = (s.cx.setS d (g.word s.curCell)).advance 4 ∧ SameBytes s u) ∧
      (s.cx.st.chk = true ∨ 8 ≤ (s.cell s.curCell).grants.length → exec (.mgrant d a b) s = .next (s.wr 4 d (-1)))) ∧
    ((s.cell s.curCell).mq.any (fun o => o.key = s.cur && o.remote.isNone) = true → w = 1 →
      exec (.mstat d a w) s = .next (s.block .mqDone)) ∧
    (w = 0 ∨ (s.cell s.curCell).mq.all (fun o => o.key ≠ s.cur || o.remote.isSome) = true →
      ∃ v, exec (.mstat d a w) s = .next (s.wr 4 d v) ∧
        (s.cx.s a = 0 → v = (slotMask (s.cell s.curCell).taken <<< 16) ||| slotMask ((s.cell s.curCell).held s.cur)) ∧
        (s.cx.s a = 1 → v = BitVec.ofNat 64 ((s.cell s.curCell).mq.filter (fun o => o.key = s.cur && o.remote.isNone)).length) ∧
        (s.cx.s a = 2 → v = BitVec.ofNat 64 ((s.cell s.curCell).mq.length + 256 * (s.cell s.curCell).mqFrozen.toNat)) ∧
        (3 ≤ (s.cx.s a).toNat → v = 0)) ∧
    (mmaOk (s.cx.e 0) (s.cx.e 1) (s.cx.e 2) (mshape (s.cx.e 0) (s.cx.e 1) (s.cx.e 2) (if b = 0 then none else some (s.cx.s b))) = true →
      (s.cx.e 3).toNat % 8 = 0 → s.validCell (bits (s.cx.s a) 31 16) = true → s.cx.isWork = false →
      (s.cx.st.chk = true → exec (.mmaR a b) s = .next (s.skip 4)) ∧
      (s.cx.st.chk = false → s.engineFree s.cur = .ok () →
        (s.mayArrive (dieOf s.curCore) (bits (s.cx.s a) 31 16 / 8192) = true →
          ∃ u op, exec (.mmaR a b) s = .next u ∧
            (u.cell (bits (s.cx.s a) 31 16)).mmaIn = (s.cell (bits (s.cx.s a) 31 16)).mmaIn ++ [op] ∧ op.key = s.cur ∧
            op.x = s.cx.s a ∧ op.y = s.cx.s b ∧ op.e0 = s.cx.e 0 ∧ op.e1 = s.cx.e 1 ∧ op.e2 = s.cx.e 2 ∧ op.e3 = s.cx.e 3 ∧
            op.remote = some s.curPart ∧ u.cx = s.cx.advance 4 ∧ SameBytes s u) ∧
        (s.mayArrive (dieOf s.curCore) (bits (s.cx.s a) 31 16 / 8192) = false →
          exec (.mmaR a b) s = .next (s.block (.hold (bits (s.cx.s a) 31 16 / 8192))))))

/-- A cell's mq performs its oldest operation: MZERO clears the accumulators its mask names, MREL ends the context's
claims of the slots it names. MMA adds to each output element, zeroed first where Z is set, the products of its rows in ascending k, a
K-step for each event, and leaves the mq after the last; no other element and no operand byte changes. MLOAD from scratch copies
eight lines into its slot, each tagged with its format, or plain, with a zero sideband or, for the 4-bit family, with its eight
scale bytes; from translated memory each line keeps its sideband and, for FMT 0, its tag. MDRAIN writes the rounded sum of each element
pair at the element's scratch address and keeps the accumulators. A remote command with a live grant joins the mq, and without one is
refused with 0x53. -/
def Obligations.MatrixPerform : Prop :=
  ∀ (s : State) (cell : Nat) (op : MqOp) (t : List MqOp),
    (op.remote = none → (s.cell cell).mq = op :: t → (s.cell cell).mqFrozen = false → s.markers = [] → s.parking (cell * 4) = false →
      (s.core (op.key / 4)).ways = none →
      (∀ a, op.instr = .mzero a → op.kAt = none → ∃ u, exec (.mqOperationPerform cell) s = .next u ∧ (u.cell cell).mq = t ∧
        ∀ n, SMap.get (u.cell cell).acc (0, 0) n = if bit op.x (n / 64) then (0, 0) else SMap.get (s.cell cell).acc (0, 0) n) ∧
      (∀ a, op.instr = .mrel a → op.kAt = none → ∃ u, exec (.mqOperationPerform cell) s = .next u ∧ (u.cell cell).mq = t ∧
        ∀ o, o < 16 → bit op.x o = true → ((u.cell cell).held op.key).contains o = false) ∧
      (∀ b sh k0 n, op.instr = .mma b → sh = mshape op.e0 op.e1 op.e2 (if b = 0 then none else some op.y) →
        shapeOk op.e0 op.e2 = true → k0 = op.kAt.elim 0 Prod.fst → (op.kAt = none → (s.cell cell).mmaCheck sh = .ok ()) →
        n = min (sh.k - k0) ((s.cell cell).kStep sh) → ∃ u, exec (.mqOperationPerform cell) s = .next u ∧
          (∀ c ∈ mcells sh, ∀ fa fb, (sh.k ≠ 0 → (s.cell cell).lineFmt (sh.aSlot + c.aOff) c.aRow sh.fa sh.ak0 sh.k = some fa ∧
              (s.cell cell).lineFmt (sh.bSlot + c.bOff) c.bRow sh.fb sh.bk0 sh.k = some fb) →
            SMap.get (u.cell cell).acc (0, 0) (accKey sh.h c) = productsAdded
              (fun j => (prodVal ((s.cell cell).element (sh.aSlot + c.aOff) c.aRow fa (sh.ak0 + k0 + j))
                ((s.cell cell).element (sh.bSlot + c.bOff) c.bRow fb (sh.bk0 + k0 + j))).1)
              (if sh.z = true ∧ k0 = 0 then (0, 0) else SMap.get (s.cell cell).acc (0, 0) (accKey sh.h c)) n) ∧
          (∀ q, (∀ c ∈ mcells sh, accKey sh.h c ≠ q) → SMap.get (u.cell cell).acc (0, 0) q = SMap.get (s.cell cell).acc (0, 0) q) ∧
          (sh.k ≤ k0 + n → (u.cell cell).mq = t) ∧
          (k0 + n < sh.k → ∃ o, (u.cell cell).mq = o :: t ∧ o.kAt.map Prod.fst = some (k0 + n)) ∧
          (u.cell cell).slotMem = (s.cell cell).slotMem) ∧
      (∀ a b f, op.instr = .mload a b f → op.kAt = none → f.toNat ≤ 6 → s.cmdChk op.key op.task = false → spaceOf op.x = .scratch →
        op.x.toNat % 128 = 0 → s.inScratch (op.key / 4) op.x.toNat (if f = 6 then 0x440 else 1024) = true →
        (s.core (op.key / 4)).ecc = Ecc.reset → ∃ u, exec (.mqOperationPerform cell) s = .next u ∧ (u.cell cell).mq = t ∧ SameBytes s u ∧
          (∀ r, r < 8 →
            Mem.bytes (u.cell cell).slotMem (bits op.y 3 0 * 1024 + 128 * r) 128 = s.scratchBytes (op.key / 4) (op.x.toNat + 128 * r) 128 ∧
            SMap.get (u.cell cell).slotTag (0, 0) (bits op.y 3 0 * 8 + r) = (f.toNat, if f = 6 then
              BitVec.ofNat 64 (leNat (s.scratchBytes (op.key / 4) (op.x.toNat + 0x400 + 8 * r) 8)) else 0)) ∧
          ∀ n, n < bits op.y 3 0 * 1024 ∨ bits op.y 3 0 * 1024 + 1024 ≤ n →
            Mem.get (u.cell cell).slotMem n = Mem.get (s.cell cell).slotMem n) ∧
      (∀ a b f z, op.instr = .mload a b f → op.kAt = none → s.mload cell op f.toNat (bits op.y 3 0) 8 0 = (z, none) → (z.cell cell).mq = op :: t →
        ∃ u, exec (.mqOperationPerform cell) s = .next u ∧ (u.cell cell).mq = t ∧ (u.cell cell).slotMem = (z.cell cell).slotMem ∧
          (u.cell cell).slotTag = (z.cell cell).slotTag ∧ u.mem = z.mem) ∧
      (∀ f slot n r p bs tag, f ≠ 6 → s.placeOf op.key (s.cmdChk op.key op.task) (op.priv = 0) (Req.load 128) (op.x + BitVec.ofNat 64 (128 * r)) = .ok p →
        s.readPlace op.key p 128 (op.x + BitVec.ofNat 64 (128 * r)) = .ok bs → s.placeTag op.key p = tag →
        s.mload cell op f slot (n + 1) r = State.mload
          ((s.afterRead (op.key / 4) p 128 (op.x + BitVec.ofNat 64 (128 * r))).setCell cell
            (((s.afterRead (op.key / 4) p 128 (op.x + BitVec.ofNat 64 (128 * r))).cell cell).putLine slot r bs (if f = 0 then tag.1 else f, tag.2)))
          cell op f slot n (r + 1)) ∧
      (∀ a sat b sh g, op.instr = .mdrain a sat b → op.kAt = none → sh = mshape op.e0 op.e1 op.e2 none → shapeOk op.e0 op.e2 = true →
        fmtOf sh.outFmt = some g → op.e3 = 0 → s.cmdChk op.key op.task = false → op.x.toNat % drainBytes sh.outFmt = 0 →
        op.y.toNat % drainBytes sh.outFmt = 0 → s.drainInScratch (op.key / 4) sh op.x op.y = true → (s.core (op.key / 4)).ecc = Ecc.reset →
        ∃ u, exec (.mqOperationPerform cell) s = .next u ∧ (u.cell cell).mq = t ∧ (u.cell cell).acc = (s.cell cell).acc ∧ u.mem = s.mem ∧
          ∀ addr : MCell → Nat, (∀ c, addr c = (op.x + BitVec.ofNat 64 c.row * op.y + BitVec.ofNat 64 (c.col * drainBytes sh.outFmt)).toNat) →
            (∀ c ∈ mcells sh, (∀ e ∈ mcells sh, e ≠ c → addr e + drainBytes sh.outFmt ≤ addr c ∨ addr c + drainBytes sh.outFmt ≤ addr e) →
              u.scratchBytes (op.key / 4) (addr c) (drainBytes sh.outFmt) = leBytes (drainBytes sh.outFmt) (drainVal g (sat = 1)
                (SMap.get (s.cell cell).acc (0, 0) (accKey sh.h c)).1.toNat (SMap.get (s.cell cell).acc (0, 0) (accKey sh.h c)).2.toNat).1) ∧
            ∀ o, o < extent (s.core (op.key / 4)).waym → (∀ c ∈ mcells sh, o < addr c ∨ addr c + drainBytes sh.outFmt ≤ o) →
              u.scratchBytes (op.key / 4) o 1 = s.scratchBytes (op.key / 4) o 1)) ∧
    (op.remote = none → (s.cell cell).mq = op :: t → (s.cell cell).mqFrozen = true → exec (.mqOperationPerform cell) s = .next s) ∧
    (∀ p a b, (s.cell cell).mmaIn = op :: t → op.remote = some p → op.instr = .mmaR a b → SMap.get (s.cell cell).holding [] p = [] →
      (s.cell cell).part = some p → (s.cell cell).mq.length < 16 →
      ((s.cell cell).grantFor cell op p (mshape op.e0 op.e1 op.e2 (if b = 0 then none else some op.y)) = true →
        exec (.remoteMmaArrival cell) s = .next (s.setCell cell { s.cell cell with
          mmaIn := t
          mq := (s.cell cell).mq ++ [{ op with num := (s.cell cell).mqNum }]
          mqNum := (s.cell cell).mqNum + 1 })) ∧
      ((s.cell cell).grants = [] →
        exec (.remoteMmaArrival cell) s = .next ((s.setCell cell { s.cell cell with mmaIn := t }).postTo p (cell * 4) op.key op.task 10 (cz 0x53))))

/-- The three copy forms issue when the checks on their registers hold: one command enters the channel with the
registers as they stand, and S(d) takes its identifier, which counts the channel's commands from 0. With 8 queued they
wait. The end of a copy, when its bytes are written and acknowledged: first the baton, then the post, each nothing where its
register is 0, and then the command leaves its channel and the completion register holds its identifier plus 1. A frozen channel performs nothing; a fault
freezes it at the command. -/
def Obligations.CopyCommands : Prop :=
  (∀ (s : State) (i : Instr) (form : Nat) (d a b : BitVec 5) (c : BitVec 2),
     ((i = .cpy d a b c ∧ form = 0) ∨ (i = .cpyt d a b c ∧ form = 1) ∨ (i = .cpyg d a b c ∧ form = 2)) →
     (s.cx.isWork = true → exec i s = .next (s.stopped (.trap (cz 0x2C)))) ∧
     (s.cx.isWork = false → copyChecks form s.cx.ereg (s.cx.s a) (s.cx.s b) = .ok () → s.engineFree s.cur = .ok () →
       (((s.core s.curCore).chan c.toNat).cmds.length < 8 →
         ∃ t cmd, exec i s = .next t ∧ ((t.core s.curCore).chan c.toNat).cmds = ((s.core s.curCore).chan c.toNat).cmds ++ [cmd] ∧
           cmd.id = ((s.core s.curCore).chan c.toNat).next ∧ cmd.form = form ∧ cmd.dst = s.cx.s a ∧ cmd.src = s.cx.s b ∧
           cmd.e = s.cx.ereg ∧ cmd.key = s.cur ∧ cmd.done = 0 ∧
           ((t.core s.curCore).chan c.toNat).next = ((s.core s.curCore).chan c.toNat).next + 1 ∧
           t.cx = (s.cx.setS d (BitVec.ofNat 64 cmd.id)).advance 4 ∧ t.mem = s.mem) ∧
       (8 ≤ ((s.core s.curCore).chan c.toNat).cmds.length → exec i s = .next (s.block (.channel c.toNat))))) ∧
  (∀ (s : State) (core ch : Nat) (cmd : CopyCmd) (t : List CopyCmd),
     ch < 4 → ((s.core core).chan ch).cmds = cmd :: t → s.markers = [] → (s.core core).ways = none → s.parking core = false →
     (((s.core core).chan ch).frozen = true → exec (.copyPerform core ch) s = .next s) ∧
     (((s.core core).chan ch).frozen = false → cmd.total ≤ cmd.done → cmd.total ≠ 0 → ((s.core core).chan ch).inFlight = 0 →
       ((cmd.phase = 0 ∧ cmd.e[2] = 0) ∨ (cmd.phase = 1 ∧ cmd.e[4] = 0)) →
       ∃ u, exec (.copyPerform core ch) s = .next u ∧ ((u.core core).chan ch).cmds = { cmd with phase := cmd.phase + 1 } :: t ∧
         ((u.core core).chan ch).compl = ((s.core core).chan ch).compl ∧ u.mem = s.mem) ∧
     (((s.core core).chan ch).frozen = false → cmd.phase = 2 → cmd.total ≤ cmd.done → cmd.total ≠ 0 →
       ((s.core core).chan ch).inFlight = 0 →
       ∃ u, exec (.copyPerform core ch) s = .next u ∧ ((u.core core).chan ch).cmds = t ∧
         ((u.core core).chan ch).compl = cmd.id + 1 ∧ u.mem = s.mem) ∧
     (∀ u, ((s.core core).chan ch).frozen = false → s.copyStep core ch cmd = .ok u → exec (.copyPerform core ch) s = .next u) ∧
     (((s.core core).chan ch).frozen = false → (s.ctx cmd.key).st.chk = false → ∀ z, s.copyStep core ch cmd = .error (.trap z) →
       ∃ u, exec (.copyPerform core ch) s = .next u ∧ ((u.core core).chan ch).frozen = true ∧ ((u.core core).chan ch).cmds = cmd :: t))

/-- REPB captures its words and goes past them; a count of 0 or above 16, or a word that may not be captured, traps with 0x05 and
leaves the buffer empty, and a captured word that fails its decoding traps with 0x02. REPGO starts the sequencer with the window of
E(0), does nothing at a count of 0, and traps with 0x05 on an empty buffer, a window beyond v31 or a count above 65535. Both wait
for a running sequencer. The sequencer's event issues the word at its place in the body with each vector register of the window
rotated by the iteration, and goes on to the next word, the next iteration, or its end. -/
def Obligations.RepetitionWords : Prop :=
  ∀ (s : State) (n : BitVec 6) (a : BitVec 5),
    (s.cx.seqr = none → (n = 0 ∨ 16 < n.toNat) →
      exec (.repb n) s = .next ((s.setCx { s.cx with rep := [] }).stopped (.trap (cz 0x05)))) ∧
    (s.cx.seqr ≠ none → exec (.repb n) s = .next (s.block .sequencer)) ∧
    (∀ l, s.cx.seqr = none → n ≠ 0 → n.toNat ≤ 16 → s.capture s.cur (s.cx.pc + 4) n.toNat = .ok l →
      (l.all (fun p => (capturedInstr p.2).isSome) = true → (∀ e ∈ s.cx.loops, e.last ≠ s.cx.pc) →
        exec (.repb n) s = .next (s.setCx { s.cx with rep := l, pc := s.cx.pc + BitVec.ofNat 64 (4 + 4 * n.toNat) })) ∧
      (l.any (fun p => (capturedInstr p.2).isNone) = true →
        exec (.repb n) s = .next ((s.setCx { s.cx with rep := [] }).stopped (.trap (cz 0x02))))) ∧
    (∀ c, s.cx.seqr = none → n ≠ 0 → n.toNat ≤ 16 → s.capture s.cur (s.cx.pc + 4) n.toNat = .error c → c.code = 0x05 →
      exec (.repb n) s = .next ((s.setCx { s.cx with rep := [] }).stopped (.trap c))) ∧
    (s.cx.rep = [] → exec (.repgo a) s = .next (s.stopped (.trap (cz 0x05)))) ∧
    (s.cx.rep ≠ [] → (32 < bits (s.cx.e 0) 63 59 + (bits (s.cx.e 0) 58 54 + 1) ∨ 65535 < (s.cx.s a).toNat) →
      exec (.repgo a) s = .next (s.stopped (.trap (cz 0x05)))) ∧
    (s.cx.rep ≠ [] → bits (s.cx.e 0) 63 59 + (bits (s.cx.e 0) 58 54 + 1) ≤ 32 → (s.cx.s a).toNat ≤ 65535 → s.cx.seqr ≠ none →
      exec (.repgo a) s = .next (s.block .sequencer)) ∧
    (s.cx.rep ≠ [] → bits (s.cx.e 0) 63 59 + (bits (s.cx.e 0) 58 54 + 1) ≤ 32 → (s.cx.s a).toNat ≤ 65535 → s.cx.seqr = none →
      exec (.repgo a) s = .next (if s.cx.s a = 0 then s.skip 4 else (s.setCx { s.cx with
        seqr := some { own := false, count := (s.cx.s a).toNat, iter := 0, idx := 0,
                       wb := bits (s.cx.e 0) 63 59, ws := bits (s.cx.e 0) 58 54 + 1, stp := bits (s.cx.e 0) 53 49 } }).skip 4)) ∧
    (∀ q pc w i t, s.cx.seqr = some q → s.cx.rep[q.idx]? = some (pc, w) → s.cx.cs = .ready → capturedInstr w = some i →
      s.seqWord s.cur pc (renameV q.rename i) = some (.ok t) →
      exec (.repetitionSequencerIssue s.cur) s = .next (t.setCtx s.cur { (t.ctx s.cur) with seqr := q.next s.cx.rep.length })) ∧
    (∀ (q : Sequencer) (r : BitVec 5) (len : Nat), 0 < q.ws → q.wb + q.ws ≤ 32 →
      (q.rename r).toNat = (if q.wb ≤ r.toNat ∧ r.toNat < q.wb + q.ws
        then q.wb + (r.toNat - q.wb + q.iter * q.stp) % q.ws else r.toNat) ∧
      (q.idx + 1 < len → ∃ z, q.next len = some z ∧ z.idx = q.idx + 1 ∧ z.iter = q.iter ∧ z.count = q.count) ∧
      (len ≤ q.idx + 1 → q.iter + 1 < q.count → ∃ z, q.next len = some z ∧ z.idx = 0 ∧ z.iter = q.iter + 1 ∧ z.count = q.count) ∧
      (len ≤ q.idx + 1 → q.count ≤ q.iter + 1 → q.next len = none))

/-- SEQW waits for the LAND counter of its buffer and returns the buffer's address; SEQREL adds 1 to FREE when its turn has
come, and nothing when it is past. -/
def Obligations.StagedBufferWords : Prop :=
  ∀ (s r : State) (d a b : BitVec 5) (t : Staged) (k : Nat) (p q : Place) (v : Nat),
    s.staged (s.cx.s a) = .ok t → k = (s.cx.s b).toNat % t.depth → s.fenceMet s.cur 6 = true →
    (s.counterAt false (BitVec.ofNat 64 (t.lands + 8 * k)) = .ok p → s.counterAt false (BitVec.ofNat 64 t.free) = .ok q →
      ((s.cx.s b).toNat / t.depth + 1) * t.unit < 2 ^ 64 → s.counterRead p (BitVec.ofNat 64 (t.lands + 8 * k)) = .ok (v, r) →
      exec (.seqw d a b) s = .next (if ((s.cx.s b).toNat / t.depth + 1) * t.unit ≤ v
        then r.wr 4 d (BitVec.ofNat 64 (t.base + k * 2 ^ t.sz))
        else s.block (.counter (BitVec.ofNat 64 (t.lands + 8 * k)) (((s.cx.s b).toNat / t.depth + 1) * t.unit)))) ∧
    (s.counterAt false (BitVec.ofNat 64 (t.lands + 8 * k)) = .ok p → s.counterAt true (BitVec.ofNat 64 t.free) = .ok q →
      s.counterRead q (BitVec.ofNat 64 t.free) = .ok (v, r) →
      ((s.cx.s b).toNat < v → exec (.seqrel a b) s = .next (r.skip 4)) ∧
      (v < (s.cx.s b).toNat → exec (.seqrel a b) s = .next (s.block (.counter (BitVec.ofNat 64 t.free) (s.cx.s b).toNat))) ∧
      (∀ u old, v = (s.cx.s b).toNat → r.counterAdd r.curCore q 1 (BitVec.ofNat 64 t.free) = .ok (old, u) →
        exec (.seqrel a b) s = .next (u.skip 4)))

/-! ### The carousel -/

/-- CARDEF, CARSUB and CARDROP complete with their statuses. CARDEF is privileged; an address of 0 stops the carousel at
the lap's end; a definition that is refused gives its status, one that is accepted is taken at once, where no definition stands, or at
the lap's end. CARSUB takes the lowest free entry; CARDROP frees its entry and returns its status word. That the word is the one
that stood before, with V = 1, is the model's choice (notes/assumptions/112.md, DESIGN CHOICE). -/
def Obligations.CarouselEntryWords : Prop :=
  ∀ (s : State) (d a b : BitVec 5), s.cx.st.chk = false → s.cx.isWork = false →
    (s.cx.st.priv ≠ 1 → exec (.cardef d a) s = .next (s.stopped (.trap (cz 0x03)))) ∧
    (s.cx.st.priv = 1 → s.engineFree s.cur = .ok () →
      (s.cx.s a = 0 → exec (.cardef d a) s = .next ((if (s.part s.curPart).car.cdef.isNone then s
        else s.setCar s.curPart { (s.part s.curPart).car with next := some none }).wr 4 d 0)) ∧
      (∀ e, s.cx.s a ≠ 0 → (s.cx.s a).toNat % 64 = 0 → canonical (s.cx.s a) = true → s.carRead (s.cx.s a) = .ok (.error e) →
        exec (.cardef d a) s = .next (s.wr 4 d e)) ∧
      (∀ n, s.cx.s a ≠ 0 → (s.cx.s a).toNat % 64 = 0 → canonical (s.cx.s a) = true → s.carRead (s.cx.s a) = .ok (.ok n) →
        ∃ t, exec (.cardef d a) s = .next t ∧ t.cx.s d = 0 ∧ (∀ r, r ≠ d → t.cx.s r = s.cx.s r) ∧ t.cx.pc = (s.cx.advance 4).pc ∧
          SameBytes s t ∧
          ((s.part s.curPart).car.cdef.isSome = true → (t.part s.curPart).car = { (s.part s.curPart).car with next := some (some n) }) ∧
          ((s.part s.curPart).car.cdef = none → (t.part s.curPart).car.cdef = some n ∧ (t.part s.curPart).car.next = none ∧
            (t.part s.curPart).car.lap = (s.part s.curPart).car.lap ∧ (t.part s.curPart).car.inGap = true ∧
            (t.part s.curPart).car.promos = [] ∧ (t.part s.curPart).car.ready = s.clock + 1))) ∧
    (∀ mask, (s.cx.s b).toNat % 32 = 0 → s.inScratch s.curCore (s.cx.s b).toNat 32 = true → s.engineFree s.cur = .ok () →
      (s.core s.curCore).ways = none → (s.core s.curCore).subs = [] → s.scrRead s.cur (s.cx.s b).toNat 4 = .ok mask →
      ((s.part s.curPart).car.nseg ≤ bits (s.cx.s a) 11 0 → exec (.carsub d a b) s = .next (s.wr 4 d (-2))) ∧
      (bits (s.cx.s a) 11 0 < (s.part s.curPart).car.nseg → e4Tk (s.cx.e 4) = 3 → maskBits mask ≠ [] →
        s.targetOk s.curCore ((s.part s.curPart).car.head (bits (s.cx.s a) 11 0)).1 ((s.part s.curPart).car.cdef.elim 0 (fun c => c.g))
          { valid := true, reg := s.clock, fin := 0, seg := bits (s.cx.s a) 11 0, mask := mask, e4 := s.cx.e 4, e5 := s.cx.e 5,
            e6 := s.cx.e 6, st := 0, ovr := false, busy := false, gone := false, mal := false, dlv := 0, rel := 0, passes := 0,
            posted := 0, key := s.cur, task := s.cx.taskNum, user := s.cx.st.priv = 0 } = true →
        ∃ t q, exec (.carsub d a b) s = .next t ∧ t.cx = (s.cx.setS d 0).advance 4 ∧ (t.core s.curCore).sub 0 = some q ∧
          q.seg = bits (s.cx.s a) 11 0 ∧ q.mask = mask ∧ q.e4 = s.cx.e 4 ∧ q.key = s.cur)) ∧
    (∀ q, SMap.find (s.core s.curCore).subs (bits (s.cx.s a) 5 0) = some q → q.valid = true → q.st ≠ 2 →
      ∃ t, exec (.cardrop d a) s = .next t ∧ t.cx.s d = (if d = 0 then 0 else q.word) ∧
        (t.core s.curCore).sub (bits (s.cx.s a) 5 0) = none) ∧
    ((s.core s.curCore).subs = [] → exec (.cardrop d a) s = .next (s.wr 4 d 0))

/-- CARSKIP, CARPROM, CARWAIT and CARPOS complete: a request for a segment gives 0 and stands, a skip requested after the clock of a
cut that is not settled for the cut that follows; one for a segment the carousel does not have gives 1, a promotion without a budget
3, with 64 pending 2, and the order of the statuses of CARPROM is the model's choice (notes/assumptions/112.md, DESIGN CHOICE). CARWAIT
waits for 8 beats beyond the count it releases, or for the pass's end, and is Blocked until then; it gives the entry's status word, and
all ones where there is no entry. CARPOS reads the lap, the pass, an entry's status word, the roll call and the skip state; that a
core whose cell has seen no pass reads all ones is the model's choice (notes/assumptions/33.md). -/
def Obligations.CarouselRequestWords : Prop :=
  ∀ (s : State) (d a b : BitVec 5) (c : Carousel), s.cx.st.chk = false → s.cx.isWork = false → c = (s.part s.curPart).car →
    exec (.carskip d a) s = .next (if c.nseg ≤ bits (s.cx.s a) 11 0 then s.wr 4 d 1
      else if c.settled = false ∧ c.cutAt.any (fun t => decide (t < s.clock)) = true then
        (s.setCar s.curPart { c with skipNext := if bits (s.cx.s a) 11 0 ∈ c.skipNext then c.skipNext
                                                 else c.skipNext ++ [bits (s.cx.s a) 11 0] }).wr 4 d 0
      else if (SMap.find c.skipReq (bits (s.cx.s a) 11 0)).isSome then s.wr 4 d 0
      else (s.setCar s.curPart { c with skipReq := SMap.set c.skipReq (bits (s.cx.s a) 11 0) s.clock }).wr 4 d 0) ∧
    exec (.carprom d a) s = .next (if c.nseg ≤ bits (s.cx.s a) 11 0 then s.wr 4 d 1
      else if (s.part s.curPart).promx = 0 then s.wr 4 d 3
      else if c.promos.any (fun r => r.2.2 = bits (s.cx.s a) 11 0) then s.wr 4 d 0
      else if 64 ≤ c.promos.length then s.wr 4 d 2
      else (s.setCar s.curPart { c with promos := promInsert (s.clock, s.curCore, bits (s.cx.s a) 11 0) c.promos }).wr 4 d 0) ∧
    (s.cx.resume = [] → (s.core s.curCore).subs = [] → ∃ t, exec (.carwait d a b) s = .next t ∧ t.cx.s d = (if d = 0 then 0 else -1) ∧
      t.cx.pc = (s.cx.advance 4).pc) ∧
    (∀ q, s.cx.resume = [] → (s.cx.s a).toNat < 64 → SMap.find (s.core s.curCore).subs (s.cx.s a).toNat = some q → q.valid = true →
      (q.st = 2 → s.clock ≤ q.fin) →
      (q.st = 2 ∨ (q.st = 1 ∧ min (bits (s.cx.s b) 13 0 + 8) (c.len q.seg + 1) ≤ q.dlv) →
        ∃ t, exec (.carwait d a b) s = .next t ∧ t.cx.s d = (if d = 0 then 0 else q.word) ∧ t.cx.cs = s.cx.cs ∧
          t.cx.pc = (s.cx.advance 4).pc) ∧
      (q.st = 0 ∨ q.st = 3 ∨ (q.st = 1 ∧ q.dlv < min (bits (s.cx.s b) 13 0 + 8) (c.len q.seg + 1)) →
        ∃ t, exec (.carwait d a b) s = .next t ∧ t.cx.pc = s.cx.pc ∧
          t.cx.cs = .blocked (.carousel (s.cx.s a).toNat (min (bits (s.cx.s b) 13 0 + 8) (c.len q.seg + 1))))) ∧
    (∀ v : Word,
      ((s.cx.s b = 0 ∧ v = BitVec.ofNat 64 c.lap) ∨
       (s.cx.s b = 1 ∧ v = ((s.cell s.curCell).shown.map Passing.word).getD (-1)) ∨
       (s.cx.s b = 2 ∧ SMap.find (s.core s.curCore).subs (bits (s.cx.s a) 5 0) = none ∧ v = 0) ∨
       (s.cx.s b = 2 ∧ ∃ q, SMap.find (s.core s.curCore).subs (bits (s.cx.s a) 5 0) = some q ∧ v = Sub.word
         (if q.valid = true ∧ q.st = 2 ∧ q.fin < s.clock then (if e4Repeat q.e4 then { q with st := 0 } else { q with valid := false })
          else q)) ∨
       (s.cx.s b = 3 ∧ v = BitVec.ofNat 64 (SMap.get c.roll 0 (bits (s.cx.s a) 11 0))) ∨
       (s.cx.s b = 4 ∧ v = BitVec.ofNat 64 ((if bits (s.cx.s a) 11 0 ∈ c.skipped then 2 else 0) +
         (if (SMap.find c.skipReq (bits (s.cx.s a) 11 0)).isSome ∨ bits (s.cx.s a) 11 0 ∈ c.skipNext then 1 else 0)))) →
      ∃ t, exec (.carpos d a b) s = .next t ∧ t.cx = (s.cx.setS d v).advance 4 ∧ SameBytes s t)

/-- The carousel's own steps. A group of the pass in progress is sent when its clock and its turn have come and the relays have
room: its beats, eight at most, stand last in the catch queue of every cell of the source's die, in the order of the pass, the
header first, and its first payload beat carries the line as memory holds it now, or zeros where that read faults; the next group
waits G clocks. At a boundary the next base pass of ORDER begins, and the last of the lap marks the cut. A whole relayed group
reaches the cells of its die. The cut settles the roll call and the skip requests due; the lap's end raises the lap count, and
an accepted definition takes over there, or the carousel stops; a reinstatement joins the passes due in this lap and the next. -/
def Obligations.CarouselSourceSteps : Prop :=
  ∀ (s : State) (part : Nat) (c : Carousel), c = (s.part part).car →
    (c.cdef = none → exec (.carouselGroupSend part) s = .next s ∧ exec (.lapEnd part) s = .next s) ∧
    (s.clock < c.ready → exec (.carouselGroupSend part) s = .next s) ∧
    (∀ d cur src, c.cdef = some d → c.cur = some cur → c.ready ≤ s.clock → src = (s.part part).dies.headD 0 →
      s.carTurn src part = true → s.relayRoom part = true → (s.part part).cells.Nodup → 8 * c.sent < c.len cur.seg + 2 →
      ∃ u, exec (.carouselGroupSend part) s = .next u ∧ (u.part part).car.ready = s.clock + d.g ∧
        (u.part part).car.sent = c.sent + 1 ∧
        (u.part part).car.cur = (if c.len cur.seg + 2 ≤ 8 * (c.sent + 1) then none else some cur) ∧
        (u.part part).car.slot = (if c.len cur.seg + 2 ≤ 8 * (c.sent + 1) then c.slot + 1 else c.slot) ∧
        ∃ bs : List Beat, bs.length = min 8 (c.len cur.seg + 2 - 8 * c.sent) ∧
          (∀ x ∈ (s.part part).cells, x / 8192 = src → (u.cell x).catchQ = (s.cell x).catchQ ++ bs) ∧
          (∀ i bt, bs[i]? = some bt → bt.place = 8 * c.sent + i ∧ bt.seg = cur.seg ∧ bt.len = c.len cur.seg ∧ bt.lap = c.lap ∧
            bt.slot = c.slot ∧ bt.part = part ∧ bt.promoted = cur.promoted ∧ bt.reinstated = cur.reinstated) ∧
          (∀ i bt, bs[i]? = some bt → 8 * c.sent + i = max 1 (8 * c.sent) →
            (∀ v g, s.beatRead part (d.table.getD cur.seg 0 + BitVec.ofNat 64 (128 * (8 * c.sent + i))) = .ok (v, g) →
              bt.data = g.1 ∧ bt.tag = g.2.1 ∧ bt.sb = g.2.2) ∧
            (∀ z, s.beatRead part (d.table.getD cur.seg 0 + BitVec.ofNat 64 (128 * (8 * c.sent + i))) = .error z →
              bt.data = List.replicate 128 0 ∧ bt.tag = 0 ∧ bt.sb = 0))) ∧
    (∀ va pa key hb tag, s.partPlace part false va = .ok (pa, key, hb) → s.memFailing pa 128 = false → s.lineTag key pa = .ok tag →
      ∃ v, s.beatRead part va = .ok (v, s.physBytes key pa 128, tag)) ∧
    (∀ d seg rest, c.cdef = some d → c.cur = none → c.ready ≤ s.clock → c.inGap = false → c.reinst = [] → c.promos = [] →
      c.left = seg :: rest → s.carTurn ((s.part part).dies.headD 0) part = true → s.relayRoom part = true → s.carLive part = true →
      (s.part part).cells.Nodup →
      ∃ u, exec (.carouselGroupSend part) s = .next u ∧ (u.part part).car.left = rest ∧ (u.part part).car.ready = s.clock + d.g ∧
        (u.part part).car.cutAt = (if rest = [] then some s.clock else none) ∧
        ∀ x ∈ (s.part part).cells, x / 8192 = (s.part part).dies.headD 0 → ∃ bt, (u.cell x).catchQ[(s.cell x).catchQ.length]? = some bt ∧
          bt.num = none ∧ bt.seg = seg ∧ bt.lap = c.lap ∧ (bt.cut = true ↔ rest = [])) ∧
    (∀ die g, (s.die die).relay.find? groupWhole = some g → ∃ u, exec (.relayGroupArrival die) s = .next u ∧
      (u.die die).relay = (s.die die).relay.erase g ∧
      ∀ b x, g.head? = some b → x ∈ (s.part b.part).cells → x / 8192 = die → (s.part b.part).cells.Nodup →
        (u.cell x).catchQ = (s.cell x).catchQ ++ g) ∧
    (∀ t, c.cutAt = some t → c.settled = false → t < s.clock → (∀ x ∈ (s.part part).cells, (s.cell x).rolled s.clock = true) →
      ∃ u, exec (.lapCut part) s = .next u ∧ (u.part part).car.settled = true ∧
        (u.part part).car.grants = ((c.skipReq.filter (fun r => decide (r.2 ≤ t))).map Prod.fst).filter
          (fun x => SMap.get (u.part part).car.roll 0 x = 0) ∧
        (u.part part).car.skipReq = c.skipNext.foldl (fun m x => SMap.set m x s.clock) (c.skipReq.filter (fun r => !(decide (r.2 ≤ t)))) ∧
        (u.part part).car.skipNext = []) ∧
    (∀ d, c.cdef = some d → c.inGap = false → c.settled = true → c.left = [] → c.cur = none → c.reinst = [] → c.ready ≤ s.clock →
      c.base ≠ 0 → s.beatsOut part = false → d.lapctr = 0 →
      ∃ u, exec (.lapEnd part) s = .next u ∧ (u.part part).car.lap = c.lap + 1 ∧ (u.part part).car.inGap = true ∧
        s.clock < (u.part part).car.ready ∧
        (c.next = none → (u.part part).car.cdef = some d ∧ (u.part part).car.skipped = c.grants ∧ (u.part part).car.reinst = c.reinstNext) ∧
        (∀ n, c.next = some n → (u.part part).car.cdef = n ∧ (u.part part).car.next = none ∧ (u.part part).car.skipped = [] ∧
          (u.part part).car.reinst = [] ∧ (u.part part).car.promos = [])) ∧
    (∀ seg, seg ∈ c.noticed →
      ∃ u, exec (.reinstatement part seg) s = .next u ∧ seg ∉ (u.part part).car.noticed ∧
        (seg ∈ c.skipped → seg ∉ c.reinstated → (u.part part).car.reinst = c.reinst ++ [seg]) ∧
        (seg ∈ c.grants → seg ∉ c.reinstNext → (u.part part).car.reinstNext = c.reinstNext ++ [seg]))

/-- The catch unit of a cell: a header becomes the pass that passes; a beat of it is counted, and after its last beat no
pass has the slot. A beat of no pass that passes is dropped. A frozen unit performs nothing. For the one entry of a cell for
the segment of a pass: the header makes it catch, busy where its slots are read or not claimed; a mailbox entry sends the launch header
at its address with the segment and the lap. A beat goes to the basket's place for it, or sets OVR where the basket has none; to the
line of the named slot, with its tag and sideband; or through the walker, which leaves at a ray's hit word the least key of the hits
among the beat's primitives. After the last beat the entry is served, or waits again where it overran. -/
def Obligations.CatchUnitSteps : Prop :=
  ∀ (s : State) (cell : Nat) (b : Beat) (t : List Beat), (s.cell cell).catchQ = b :: t →
    ((s.cell cell).lqFrozen = true → exec (.passHeaderArrival cell) s = .next s ∧ exec (.payloadBeatDelivery cell) s = .next s) ∧
    ((s.cell cell).lqFrozen = false → s.markers = [] → (∀ i, i < 4 → (s.core (4 * cell + i)).subs = []) →
      (b.num = none → b.cut = false → (s.cell cell).part = some b.part →
        ∃ u, exec (.passHeaderArrival cell) s = .next u ∧ (u.cell cell).catchQ = t ∧
          (u.cell cell).passing = some { head := b, arrived := 0, payload := [] } ∧ (u.cell cell).hdrAt = some (b.seg, s.clock)) ∧
      (∀ j, b.num = some j →
        ((s.cell cell).passing = none → exec (.payloadBeatDelivery cell) s =
          .next (s.setCell cell { s.cell cell with catchQ := t, lqNum := (s.cell cell).lqNum + 1 })) ∧
        (∀ p, (s.cell cell).passing = some p → (s.cell cell).part = some b.part → p.head.part = b.part → p.head.slot = b.slot →
          p.head.lap = b.lap → ∃ u, exec (.payloadBeatDelivery cell) s = .next u ∧ (u.cell cell).catchQ = t ∧
            (u.cell cell).passing = if j = p.head.len then none
              else some { head := p.head, arrived := j + 1, payload := p.payload ++ b.data }))) ∧
    (∀ core e q, (s.cell cell).lqFrozen = false → s.markers = [] → (s.cell cell).part = some b.part → core / 4 = cell →
      (∀ i, i < 4 → (s.core (4 * cell + i)).subs = if 4 * cell + i = core then [(e, q)] else []) → q.valid = true → q.seg = b.seg →
      (s.core core).ways = none → (s.core core).ecc = Ecc.reset →
      (b.num = none → b.cut = false → q.st = 0 →
        (q.reg = s.clock → e4Tk q.e4 ≠ 2 ∨ (s.core core).unsent.length < 8 →
          ∃ u, exec (.passHeaderArrival cell) s = .next u ∧ (u.core core).subs = [(e, { q with st := 3 })]) ∧
        (q.reg ≠ s.clock → e4Tk q.e4 ≠ 2 → ∃ u, exec (.passHeaderArrival cell) s = .next u ∧ (u.cell cell).catchQ = t ∧
          (u.core core).subs = [(e, { q with
            st := 1, dlv := 0, rel := 0, posted := 0, ovr := false, mal := false,
            busy := decide (e4Tk q.e4 = 1) && ((s.cell cell).reading (e4Addr q.e4) || !(s.cell cell).claimedBy core (e4Addr q.e4)) })]) ∧
        (q.reg ≠ s.clock → e4Tk q.e4 = 2 → s.inScratch core (e4Addr q.e4) 64 = true → canonical q.e5 = true → (s.core core).unsent.length < 8 →
          ∃ u m, exec (.passHeaderArrival cell) s = .next u ∧ (u.core core).unsent = (s.core core).unsent ++ [m] ∧ m.mbox = q.e5 ∧
            m.hdr = launchOf b (leWords 8 (s.scratchBytes core (e4Addr q.e4) 64)) ∧ m.part = b.part)) ∧
      (∀ j p, b.num = some j → (s.cell cell).passing = some p → p.head.part = b.part → p.head.slot = b.slot → p.head.lap = b.lap →
        q.st = 1 → q.ovr = false → q.busy = false → e4Cpost q.e4 = false → b.data.length = 128 →
        (e4Tk q.e4 = 0 → j < q.rel + e4Beats q.e4 → s.inScratch core (e4Addr q.e4) (128 * e4Beats q.e4) = true →
          ∃ u r, exec (.payloadBeatDelivery cell) s = .next u ∧ (u.core core).subs = [(e, r)] ∧ r.dlv = q.dlv + 1 ∧
            u.scratchBytes core (e4Addr q.e4 + 128 * (j % e4Beats q.e4)) 128 = b.data ∧
            (if j = p.head.len then r.st = 2 ∧ r.passes = min (q.passes + 1) (2 ^ 30 - 1) else r.st = 1 ∧ r.passes = q.passes)) ∧
        (e4Tk q.e4 = 0 → q.rel + e4Beats q.e4 ≤ j →
          ∃ u r, exec (.payloadBeatDelivery cell) s = .next u ∧ (u.core core).subs = [(e, r)] ∧ r.ovr = true ∧ r.dlv = q.dlv ∧
            r.passes = q.passes ∧ r.st = (if j = p.head.len then 0 else 1) ∧ SameBytes s u) ∧
        (∀ o, e4Tk q.e4 = 1 → (maskSlots (BitVec.ofNat 64 (e4Addr q.e4)))[j / 8]? = some o →
          ∃ u r, exec (.payloadBeatDelivery cell) s = .next u ∧ (u.core core).subs = [(e, r)] ∧ r.dlv = q.dlv + 1 ∧
            Mem.bytes (u.cell cell).slotMem (o * 1024 + j % 8 * 128) 128 = b.data ∧
            SMap.get (u.cell cell).slotTag (0, 0) (o * 8 + j % 8) = (b.tag, b.sb)) ∧
        (∀ i ray, e4Tk q.e4 = 3 → e4Any q.e4 = false → maskBits q.mask = [i] → p.head.nodes = 0 → j < 64 →
          s.inScratch core (e4Addr q.e4 + 32 * i) 32 = true → s.inScratch core (q.hit i) 8 = true →
          ray = words32 8 (s.scratchBytes core (e4Addr q.e4 + 32 * i) 32) →
          ∃ u r, exec (.payloadBeatDelivery cell) s = .next u ∧ (u.core core).subs = [(e, r)] ∧ r.dlv = q.dlv + 1 ∧ r.mal = q.mal ∧
            leNat (u.scratchBytes core (q.hit i) 8) = ([2 * j, 2 * j + 1].filter (fun n => decide (n < p.head.prims))).foldl (fun k n =>
              match rayTri ray (words32 9 (((p.payload ++ b.data).drop (64 * n)).take 36)) with
                | some (tn, _, _) => if tn < 0x80000000 then min k (tn * 2 ^ 32 + p.head.seg * 2 ^ 20 + n) else k
                | none => k) (leNat (s.scratchBytes core (q.hit i) 8)))))

/-! ### Rays, splats, pixels, edge programs and the scheduled exchange -/

/-- RAYHIT keeps the least key at its word: it completes with the old key, as an AMO minimum, and a key whose t is negative
or not a number stores nothing and gives back the key itself. -/
def Obligations.RayHitWord : Prop :=
  ∀ (s : State) (d a b : BitVec 5) (p : Place), s.cx.isWork = false → (s.cx.st.pure && d ≠ 0) = false →
    s.reach s.cur (Req.atomic 8 false) (s.cx.s a) = .ok p →
    ((0x80000000 ≤ bits (s.cx.s b) 63 32 ∨ (bits (s.cx.s b) 63 32 / 0x800000 = 0xFF ∧ bits (s.cx.s b) 63 32 % 0x800000 ≠ 0)) →
      exec (.rayhit d a b) s = .next (s.wr 4 d (s.cx.s b))) ∧
    (∀ old u, bits (s.cx.s b) 63 32 ≤ 0x7F800000 → s.cx.st.pure = false → s.ordered s.cur (s.cx.s a) 8 = .ok () →
      s.ackRoom s.cur p = .ok () → s.readPlace s.cur p 8 (s.cx.s a) = .ok old →
      s.writePlace s.cur p (leBytes 8 (min (leNat old) (s.cx.s b).toNat)) (s.cx.s a) = .ok u →
      exec (.rayhit d a b) s = .next ((u.setCtx s.cur ((u.ctx s.cur).setS d (BitVec.ofNat 64 (leNat old)))).skip 4))

/-- The splat words join their cluster's queue and keep the context Blocked until the splat unit has performed the command;
then they complete with its result. SPSORT, the G form and SPCOMP trap with 0x41 on areas that do not fit. FRSEND puts its
tile on the encoder's queue. -/
def Obligations.SplatAndFrameWords : Prop :=
  ∀ (s : State) (d a b : BitVec 5),
    (s.splatAreas (s.cx.e 6) = false → SMap.find s.cx.resume s.cx.pc.toNat = none → (s.core s.curCore).ways = none →
      exec (.spsort a) s = .next (s.stopped (.trap (cz 0x41))) ∧ exec (.spcomp d a b) s = .next (s.stopped (.trap (cz 0x41))) ∧
      (bits (s.cx.s d) 62 32 = 0 → exec (.spsortG d a b) s = .next (s.stopped (.trap (cz 0x41))))) ∧
    (∀ v, SMap.find s.cx.resume s.cx.pc.toNat = some v →
      exec (.spsort a) s = .next (s.forget.skip 4) ∧
      exec (.spsortG d a b) s = .next (s.forget.wr 4 d (BitVec.ofNat 64 v)) ∧
      exec (.spcomp d a b) s = .next (s.forget.wr 4 d (BitVec.ofNat 64 v))) ∧
    (s.splatAreas (s.cx.e 6) = true → (s.cx.s a).toNat ≤ bits (s.cx.e 6) 63 48 → SMap.find s.cx.resume s.cx.pc.toNat = none →
      s.vbusy s.cur = false → s.cx.seqr = none → s.cx.deferred = none → (s.core s.curCore).ways = none → s.engineFree s.cur = .ok () →
      (s.clu (cluOf s.curCore)).splats = [] → ∃ t c, exec (.spsort a) s = .next t ∧ (t.clu (cluOf s.curCore)).splats = [c] ∧
        c.instr = .spsort a ∧ c.key = s.cur ∧ c.x = s.cx.s a ∧ t.cx.cs = .blocked .splat) ∧
    (∀ data, s.cx.isWork = false → (s.cx.s a).toNat % 2048 = 0 → s.inScratch s.curCore (s.cx.s a).toNat 2048 = true →
      s.frDescOk (dieOf s.curCore) (s.cx.s b) = true → s.cx.st.chk = false → SMap.find s.cx.resume s.cx.pc.toNat = none →
      s.vbusy s.cur = false → s.cx.seqr = none → s.cx.deferred = none → (s.core s.curCore).ways = none →
      s.ordered s.cur (s.cx.s a) 2048 = .ok () → s.cx.relq = [] → s.markers = [] →
      (s.core s.curCore).fqFrozen = false → (s.die (dieOf s.curCore)).fq.length < 64 →
      bits (s.cx.s b) 63 32 < (s.stream (dieOf s.curCore) (bits (s.cx.s b) 26 24)).closed + 2 →
      s.scrRead s.cur (s.cx.s a).toNat 256 = .ok data →
      ∃ t f, exec (.frsend a b) s = .next t ∧ (t.die (dieOf s.curCore)).fq = (s.die (dieOf s.curCore)).fq ++ [f] ∧
        f.stream = bits (s.cx.s b) 26 24 ∧ f.frame = bits (s.cx.s b) 63 32 ∧ f.ty = bits (s.cx.s b) 17 9 ∧
        f.tx = bits (s.cx.s b) 8 0 ∧ f.data = data ∧ t.cx = s.cx.advance 4) ∧
    (∀ clu c t v u, (s.clu clu).splats = c :: t → (s.setClu clu { s.clu clu with splats := t }).splatEffect c = .ok (u, v) →
      exec (.splatCommandPerform clu) s = .next (u.setCtx c.key { u.ctx c.key with resume := SMap.set (u.ctx c.key).resume c.pc.toNat v }))

/-- KRBIN sets the core's key registers when no update waits, and traps with 0x02 on fields that are not good; EDGE puts
its program on the cell's gq; EMODE returns EDGESW, and while a program runs its request becomes pending. -/
def Obligations.EdgeWords : Prop :=
  ∀ (s : State) (d a b : BitVec 5), s.cx.st.chk = false →
    (krbOk (s.cx.s a) (s.cx.s b) = false → exec (.krbin a b) s = .next (s.stopped (.trap (cz 0x02)))) ∧
    (krbOk (s.cx.s a) (s.cx.s b) = true → exec (.krbin a b) s = .next (if (s.core s.curCore).kin = [] then
      (s.setCore s.curCore { s.core s.curCore with krb0 := s.cx.s a, krb1 := s.cx.s b }).skip 4 else s.block .keys)) ∧
    (edgeOk s.cx.ereg (s.core s.curCore).krb0 (s.part s.curPart).cells.length = false →
      exec .edge s = .next (s.stopped (.trap (cz 0x42)))) ∧
    (edgeOk s.cx.ereg (s.core s.curCore).krb0 (s.part s.curPart).cells.length = true → s.cx.isWork = false →
      (s.part s.curPart).det = false → s.engineFree s.cur = .ok () →
      ∃ t g, exec .edge s = .next t ∧ (t.cell s.curCell).gq = (s.cell s.curCell).gq ++ [g] ∧ g.key = s.cur ∧ g.e = s.cx.ereg ∧
        g.s = s.cx.sreg ∧ g.krb0 = (s.core s.curCore).krb0 ∧ t.cx = s.cx.advance 4) ∧
    ((s.part s.curPart).det = false → (s.cx.s a).toNat < 4 → exec (.emode d a) s = .next
      ((if s.cx.s a ≠ 0 ∧ (s.cell s.curCell).esw.run = true then s.setCell s.curCell
          { s.cell s.curCell with esw := { (s.cell s.curCell).esw with pend := (s.cx.s a).setWidth 2 } }
        else s).wr 4 d (s.cell s.curCell).esw.word))

/-- XMIT and XSEL issue in an exchange routine, in time and in a cycle of their stop: XMIT holds the 64 bytes it
reads, XSEL its scratch address, with S(d) pending. Anywhere else they trap with 0x54, and too late with 0x55; a follower of a gang issues 2i clocks after its
leader. In its
cycle a held XMIT places its flit; a held XSEL writes the flit that passes to scratch and gives 1, and without one
gives 0 and writes nothing; S(d) is then pending no more. -/
def Obligations.Exchange : Prop :=
  (∀ (s : State) (d a b l : BitVec 5) (e p now : Nat), s.cx.st.chk = false → now = s.clock + 2 * s.cx.gang.elim 0 (fun g => g.member) →
     (s.cx.isExch = false → exec (.xmit a b l) s = .next (s.stopped (.trap (cz 0x54))) ∧
       exec (.xsel d a b l) s = .next (s.stopped (.trap (cz 0x54)))) ∧
     (s.cx.isExch = true → (s.die (dieOf s.curCore)).exE = some e → (s.cx.s b).toNat < 2 ^ 12 → stopPos s.curCore l.toNat = some p →
       (p + (s.cx.s b).toNat) % 2 = 0 → (s.cx.s a).toNat % 64 = 0 → s.inScratch s.curCore (s.cx.s a).toNat 64 = true →
       (s.core s.curCore).ways = none → s.cx.relq = [] →
       (e + (s.cx.s b).toNat / 2 < now + 4 → exec (.xmit a b l) s = .next (s.stopped (.trap (cz 0x55)))) ∧
       (∀ data, now + 4 ≤ e + (s.cx.s b).toNat / 2 → s.ordered s.cur (s.cx.s a) 64 = .ok () →
         (s.core s.curCore).xmits.length < 8 → s.scrRead s.cur (s.cx.s a).toNat 8 = .ok data →
         exec (.xmit a b l) s = .next ((s.setCore s.curCore { s.core s.curCore with xmits := (s.core s.curCore).xmits ++
           [{ loop := l.toNat, cycle := (s.cx.s b).toNat, data := data, addr := (s.cx.s a).toNat, d := 0, ctx := s.cur % 4 }] }).skip 4)) ∧
       (now + 2 ≤ e + (s.cx.s b).toNat / 2 → (s.core s.curCore).xsels = [] → s.ordered s.cur (s.cx.s a) 64 = .ok () →
         exec (.xsel d a b l) s = .next (((s.setCore s.curCore { s.core s.curCore with xsels :=
           [{ loop := l.toNat, cycle := (s.cx.s b).toNat, data := [], addr := (s.cx.s a).toNat, d := d, ctx := s.cur % 4 }] }).setCx
             (s.cx.pend (some d))).skip 4)))) ∧
  (∀ (s : State) (core e pos : Nat) (h : Held), (s.die (dieOf core)).exE = some e → stopPos core h.loop = some pos →
     ((s.core core).xmits = [h] → e + h.cycle / 2 ≤ s.clock → (∀ kc ∈ s.cores, kc.2.xmits = [] ∨ kc = (core, s.core core)) →
       flitAt (s.die (dieOf core)).flits h.loop pos h.cycle = none →
       ∃ t, exec (.xmitPlacement core) s = .next t ∧ (t.core core).xmits = [] ∧ (t.die (dieOf core)).flits =
         { loop := h.loop, pos := pos, cycle := h.cycle, data := h.data } :: (s.die (dieOf core)).flits) ∧
     ((s.core core).xsels = [h] → e + (h.cycle + 1) / 2 + 3 ≤ s.clock → (∀ kc ∈ s.cores, kc.2.xmits = []) →
       flitPassing (s.die (dieOf core)).flits h.loop pos h.cycle = none →
       exec (.xselCapture core) s = .next ((s.setCore core { s.core core with xsels := [] }).setCtx (core * 4 + h.ctx)
         (((s.ctx (core * 4 + h.ctx)).setS h.d 0).unpend (some h.d)))) ∧
     (∀ f, (s.core core).xsels = [h] → e + (h.cycle + 1) / 2 + 3 ≤ s.clock → (∀ kc ∈ s.cores, kc.2.xmits = []) →
       flitPassing (s.die (dieOf core)).flits h.loop pos h.cycle = some f →
       ∃ u, u = (s.setCore core { s.core core with xsels := [] }).putScratchW core h.addr f.data ∧
         exec (.xselCapture core) s = .next (u.setCtx (core * 4 + h.ctx) (((u.ctx (core * 4 + h.ctx)).setS h.d 1).unpend (some h.d)))))

/-! ### Tasks and queues -/

/-- SPAWN sends the 64 bytes of its header to the mailbox when the checks hold, and waits with 8 messages in the core's
interface. MBOX binds, unbinds or refuses with its status: 3 for an address that is no multiple of 64, 2 for a mailbox that is
forwarded or bound to another core, 1 with 4,096 entries. TID gives the field of the work identifier. EXIT ends its task when
the counts are zero, no vector word is left and the task holds nothing more: the context is Idle, its watches and pending
causes are gone, its claimed queues are empty, and its slots are free where none of its matrix operations is queued; else it
waits. In a gang whose members have done everything it ends every member. -/
def Obligations.TaskWords : Prop :=
  (∀ (s : State) (d a b : BitVec 5) (hdr : List Byte), s.cx.st.chk = false → s.cx.isWork = false → (s.cx.s a).toNat % 64 = 0 →
     s.inScratch s.curCore (s.cx.s a).toNat 64 = true → (s.core s.curCore).ways = none →
     (spaceOf (s.cx.s b) = .translated ∨ (s.cx.s b = mgmtMailbox ∧ s.cx.st.priv = 1)) →
     s.fenceMet s.cur 0 = true → s.cx.relq = [] → s.ordered s.cur (s.cx.s a) 64 = .ok () →
     (s.core s.curCore).unsent.length + (s.core s.curCore).held.length < 8 → s.scrRead s.cur (s.cx.s a).toNat 8 = .ok hdr →
     exec (.spawn d a b) s = .next ((s.setCore s.curCore { s.core s.curCore with unsent := (s.core s.curCore).unsent ++
       [{ mbox := s.cx.s b, start := s.cx.s d, hdr := leWords 8 hdr, part := s.curPart, kind := 0, sender := s.cur,
          task := s.cx.taskNum }] }).skip 4)) ∧
  (∀ (s : State) (d a b : BitVec 5), s.cx.st.chk = false → s.cx.isWork = false → (s.cx.s a).toNat % 64 = 0 →
     s.inScratch s.curCore (s.cx.s a).toNat 64 = true → (s.core s.curCore).ways = none → spaceOf (s.cx.s b) = .translated →
     s.fenceMet s.cur 0 = true → s.cx.relq = [] → s.ordered s.cur (s.cx.s a) 64 = .ok () →
     8 ≤ (s.core s.curCore).unsent.length + (s.core s.curCore).held.length → exec (.spawn d a b) s = .next (s.block .message)) ∧
  (∀ (s : State) (d a b : BitVec 5), s.cx.st.chk = false → s.cx.isWork = false → bit (s.cx.s b) 0 = false →
     bits (s.cx.s b) 63 56 = 0 → spaceOf (s.cx.s a) = .translated → (s.cx.s a).toNat % 64 = 0 →
     (∀ e ∈ (s.part s.curPart).dir, e.1 = s.cx.s a → e.2.1 = s.curCore) → (∀ f ∈ (s.part s.curPart).fwd, f.1 ≠ s.cx.s a) →
     (s.part s.curPart).dir.length + (s.part s.curPart).fwd.length < 4096 →
     ∃ t, exec (.mbox d a b) s = .next t ∧ t.cx = (s.cx.setS d 0).advance 4 ∧
       (t.part s.curPart).bound (s.cx.s a) = (if s.cx.s b = 0 then none else some (s.curCore, s.cx.s b)) ∧
       (∀ m, m ≠ s.cx.s a → (t.part s.curPart).bound m = (s.part s.curPart).bound m)) ∧
  (∀ (s : State) (d a b : BitVec 5), s.cx.st.chk = false → s.cx.isWork = false → bit (s.cx.s b) 0 = false →
     bits (s.cx.s b) 63 56 = 0 → spaceOf (s.cx.s a) = .translated →
     ((s.cx.s a).toNat % 64 ≠ 0 → exec (.mbox d a b) s = .next ((s.setPart s.curPart (s.part s.curPart)).wr 4 d 3)) ∧
     ((s.cx.s a).toNat % 64 = 0 → ((∃ c e, (s.part s.curPart).bound (s.cx.s a) = some (c, e) ∧ c ≠ s.curCore) ∨
         ((s.part s.curPart).forward (s.cx.s a)).isSome = true) →
       exec (.mbox d a b) s = .next ((s.setPart s.curPart (s.part s.curPart)).wr 4 d 2)) ∧
     ((s.cx.s a).toNat % 64 = 0 → (s.part s.curPart).bound (s.cx.s a) = none → (s.part s.curPart).forward (s.cx.s a) = none →
       s.cx.s b ≠ 0 → 4096 ≤ (s.part s.curPart).dir.length + (s.part s.curPart).fwd.length →
       exec (.mbox d a b) s = .next ((s.setPart s.curPart (s.part s.curPart)).wr 4 d 1))) ∧
  (∀ (s : State) (d : BitVec 5) (k : BitVec 6), k.toNat ≤ 5 → ∃ v, exec (.tid d k) s = .next (s.wr 4 d v) ∧
     (s.cx.widw = 0 → v = if k = 0 then s.cx.wid else 0) ∧
     ((∀ j, j ≤ k.toNat → bits s.cx.widw (6 * j + 5) (6 * j) ≠ 0) →
       v.toNat = s.cx.wid.toNat / 2 ^ ((List.range k.toNat).map (fun j => bits s.cx.widw (6 * j + 5) (6 * j))).sum %
         2 ^ bits s.cx.widw (6 * k.toNat + 5) (6 * k.toNat))) ∧
  (∀ (s : State) (d : BitVec 5) (k : BitVec 6), 5 < k.toNat → exec (.tid d k) s = .next (s.stopped (.trap (cz 0x02)))) ∧
  (∀ (s : State), s.cx.gang = none → s.exitMet s.cur = true → s.cx.cs = .ready →
     s.cx.task.all (fun t => t.check.isNone && t.slot.isNone) = true →
     ∃ t, exec .exit s = .next t ∧ t.cx.cs = .idle ∧ t.cx.watch = [] ∧ t.cx.apend = [] ∧ t.cx.task = none ∧
       (∀ i : Fin 8, 4 ≤ i.val → (s.core s.curCore).qclaim[i] = some (s.cur % 4) → (t.core s.curCore).q[i] = []) ∧
       ((∀ o ∈ (s.cell s.curCell).mq, o.key ≠ s.cur ∨ o.remote.isSome = true) → (t.cell s.curCell).held s.cur = []) ∧ t.mem = s.mem) ∧
  (∀ (s : State), s.cx.gang = none → s.exitMet s.cur = false → exec .exit s = .next (s.block .exit)) ∧
  (∀ (s : State) (g : GangRole), s.cx.gang = some g → g.members.Nodup →
     (∀ m ∈ g.members, s.quiet m = true ∧ (s.ctx m).isExch = false) →
     ∃ t, exec .exit s = .next t ∧ ∀ m ∈ g.members, (t.ctx m).cs = .idle)

/-- GANG takes the lowest Idle context of each of the next cores, or returns all ones and takes none; the members run Held
behind the leader, each with its number in S(d). UNGANG ends the gang. -/
def Obligations.GangWords : Prop :=
  ∀ (s : State) (d : BitVec 5) (n : BitVec 6), s.cx.isWork = false → s.cx.st.pure = false → s.cx.gang = none →
    (exec .ungang s = .next (s.stopped (.trap (cz 0x02)))) ∧
    (n ≠ 2 → n ≠ 4 → n ≠ 8 → exec (.gang d n) s = .next (s.stopped (.trap (cz 0x02)))) ∧
    ((n = 2 ∨ n = 4 ∨ n = 8) → s.vbusy s.cur = false → s.cx.seqr = none → s.cx.deferred = none → s.cx.relq = [] → s.cx.pendR = [] →
      (8 < s.curCore % 8 + n.toNat ∨ s.gangKeys s.curCore s.curPart (n.toNat - 1) 1 = none →
        exec (.gang d n) s = .next (s.wr 4 d (-1))) ∧
      (∀ fs, s.curCore % 8 + n.toNat ≤ 8 → s.gangKeys s.curCore s.curPart (n.toNat - 1) 1 = some fs →
        ∃ t, exec (.gang d n) s = .next t ∧ t.cx.s d = 0 ∧ t.cx.pc = (s.cx.advance 4).pc ∧
          ∀ i f, fs[i]? = some f → (t.ctx f).s d = (if d = 0 then 0 else BitVec.ofNat 64 (i + 1)) ∧ (t.ctx f).cs = .held ∧
            (∀ r, r ≠ d → (t.ctx f).s r = s.cx.s r) ∧ (t.ctx f).pc = t.cx.pc)) ∧
    (∀ g u, u = s.setCx { s.cx with gang := some g } → g.leader = s.cur →
      ∃ t, exec .ungang u = .next t ∧ t.cx.gang = none ∧ t.cx.pc = (s.cx.advance 4).pc ∧ t.cx.sreg = s.cx.sreg)

/-- The queue registers: QPUSH appends to a queue of fewer than 4 entries and claims q4 to q7 for its context, QPOP and
C.QPOP take the oldest entry, and each waits while it cannot; QLEVEL gives the number of entries. -/
def Obligations.QueueWords : Prop :=
  ∀ (s : State) (d a : BitVec 5) (r : BitVec 3) (q : BitVec 3), s.cx.st.chk = false → (s.core s.curCore).qwait = [] →
    exec (.qlevel d q) s = .next (s.wr 4 d (BitVec.ofNat 64 ((s.core s.curCore).q[q.toNat]'(q.isLt)).length)) ∧
    (s.fenceMet s.cur 1 = true → (∀ r ∈ s.cx.relq, r.ord ≠ 3) → s.heldStore s.cur (2 ^ 20) = none → (q.toNat < 4 ∨ (s.core s.curCore).qclaim[q.toNat]'(q.isLt) = none ∨
        (s.core s.curCore).qclaim[q.toNat]'(q.isLt) = some (s.cur % 4)) →
      (((s.core s.curCore).q[q.toNat]'(q.isLt)).length < 4 → ∃ t, exec (.qpush a q) s = .next t ∧ t.cx = s.cx.advance 4 ∧
        (t.core s.curCore).q[q.toNat]'(q.isLt) = (s.core s.curCore).q[q.toNat]'(q.isLt) ++ [s.cx.s a] ∧
        (4 ≤ q.toNat → (t.core s.curCore).qclaim[q.toNat]'(q.isLt) = some (s.cur % 4))) ∧
      (4 ≤ ((s.core s.curCore).q[q.toNat]'(q.isLt)).length → exec (.qpush a q) s = .next (s.block (.queue q.toNat true)))) ∧
    (q.toNat < 4 →
      ((s.core s.curCore).q[q.toNat]'(q.isLt) = [] → exec (.qpop d q) s = .next (s.block (.queue q.toNat false))) ∧
      (∀ v l, (s.core s.curCore).q[q.toNat]'(q.isLt) = v :: l →
        (∃ t, exec (.qpop d q) s = .next t ∧ t.cx = (s.cx.setS d v).advance 4 ∧ (t.core s.curCore).q[q.toNat]'(q.isLt) = l) ∧
        (∃ t, exec (.cQpop r q) s = .next t ∧ t.cx = (s.cx.setS (creg r) v).advance 2 ∧ (t.core s.curCore).q[q.toNat]'(q.isLt) = l))) ∧
    (4 ≤ q.toNat → exec (.qpop d q) s = .next (s.stopped (.trap (cz 0x02))))

/-- ENQ stores its record at the queue's storage and appends it with its tag; DEQ reads back the record that its firing
reserved, gives its tag and frees its place. A word of no stage, or of a port the stage does not have, traps with 0x02. -/
def Obligations.StageQueueWords : Prop :=
  ∀ (s : State) (d a b : BitVec 5) (p : BitVec 6), s.cx.st.chk = false →
    (s.cx.task = none → p.toNat ≤ 3 → exec (.enq a b p) s = .next (s.stopped (.trap (cz 0x02))) ∧
      exec (.deq d a p) s = .next (s.stopped (.trap (cz 0x02)))) ∧
    (∀ n st g q data u, p.toNat ≤ 3 → s.curStage = some (n, st) → p.toNat < st.out.length → (s.cx.s a).toNat % 64 = 0 →
      s.inScratch s.curCore (s.cx.s a).toNat 64 = true → s.ordered s.cur (s.cx.s a) 64 = .ok () →
      (s.core s.curCore).ways = none → s.cx.relq = [] →
      (s.part s.curPart).graph = some g → g.queues[st.out.getD p.toNat 0]? = some q → q.full = false → q.wait = [] →
      s.scrRead s.cur (s.cx.s a).toNat 8 = .ok data →
      s.partHold (dieOf s.curCore) s.curPart (q.base + BitVec.ofNat 64 (64 * q.place)) 64 = none →
      s.partStore (dieOf s.curCore) s.curPart (q.base + BitVec.ofNat 64 (64 * q.place)) data = (u, none) →
      ∃ t q', exec (.enq a b p) s = .next t ∧ ((t.part s.curPart).graph.bind (fun h => h.queues[st.out.getD p.toNat 0]?)) = some q' ∧
        q'.recs = q.recs ++ [{ num := q.next, tag := bits (s.cx.s b) 31 0, reserved := false, place := q.place }] ∧ t.mem = u.mem) ∧
    (∀ tk r g data u, p.toNat ≤ 3 → s.cx.task = some tk → bits (tk.hdr.getD 2 0) 63 48 ≠ 0xFFFF →
      tk.reserved.find? (fun r => r.port = p.toNat) = some r → (s.cx.s a).toNat % 64 = 0 →
      s.inScratch s.curCore (s.cx.s a).toNat 64 = true → s.ordered s.cur (s.cx.s a) 64 = .ok () →
      (s.core s.curCore).ways = none → s.cx.relq = [] → (s.part s.curPart).graph = some g →
      s.partRead s.curPart ((g.queues[r.queue]?).elim 0 (fun q => q.base) + BitVec.ofNat 64 (64 * r.place)) 64 = .ok data →
      s.scrWrite s.cur (s.cx.s a).toNat 8 data = .ok u → u.cx.task = some tk →
      ∃ t, exec (.deq d a p) s = .next t ∧ t.cx.s d = (if d = 0 then 0 else BitVec.ofNat 64 r.tag) ∧
        t.cx.task = some { tk with reserved := tk.reserved.filter (fun q => q ≠ r) } ∧ t.mem = u.mem)

/-- EXT and EXTI write an extension register, EXTI one quarter of it, EXTRD reads one; EXT and EXTI wait while the
sequencer runs. OUTRNG declares a range, at most 8 of them, and traps with 0x51 beyond. DIGRD gives a half of the digest of
the ranges; with none declared that of no byte. The context that waits is Ready once the sequencer has finished. -/
def Obligations.ExtensionAndOutputWords : Prop :=
  ∀ (s : State) (d a b : BitVec 5) (k : BitVec 3) (n : BitVec 16) (h : BitVec 2) (w : BitVec 1),
    exec (.extrd d k) s = .next (s.wr 4 d (s.cx.e k)) ∧
    (s.cx.seqr = none → exec (.ext a k) s = .next (s.setCx ((s.cx.setE k (s.cx.s a)).advance 4))) ∧
    (s.cx.seqr = none → ∃ v, exec (.exti k n h) s = .next (s.setCx ((s.cx.setE k v).advance 4)) ∧
      ∀ j, j < 64 → v.getLsbD j = if j / 16 = h.toNat then n.getLsbD (j % 16) else (s.cx.e k).getLsbD j) ∧
    (∀ q, s.cx.seqr = some q → exec (.ext a k) s = .next (s.block .sequencer) ∧ exec (.exti k n h) s = .next (s.block .sequencer)) ∧
    (∀ j, (s.ctx j).cs = .blocked .sequencer → (s.ctx j).gang = none → SMap.find (s.ctx j).resume leaving = none →
      ((s.ctx j).seqr.isSome = true → exec (.contextUnblock j) s = .next s) ∧
      ((s.ctx j).seqr = none → exec (.contextUnblock j) s = .next (s.setCtx j { s.ctx j with cs := .ready }))) ∧
    (8 ≤ s.cx.outl.length → canonical (s.cx.s a) = true → exec (.outrng a b) s = .next (s.stopped (.trap (cz 0x51)))) ∧
    (s.cx.outl = [] → canonical (s.cx.s a) = true → (s.cx.s b).toNat ≤ 262144 → s.rangeOk (s.cx.s a) (s.cx.s b).toNat = true → s.cx.isWork = false →
      exec (.outrng a b) s = .next (s.setCx ({ s.cx with outl := [(s.cx.s a, (s.cx.s b).toNat)] }.advance 4))) ∧
    (∀ bs r, s.fenceMet s.cur 5 = true → s.outBytes s.cur s.cx.outl = .ok (bs, r) →
      exec (.digrd d w) s = .next (r.wr 4 d (if w = 1 then (digest bs).2 else (digest bs).1)))

/-- WAYS completes when nothing that uses the ways it changes is left: the map changes, S(d) takes the old one, and a way
that becomes scratch reads as zero. With all six ways it traps with 0x02, in a work routine with 0x2C. -/
def Obligations.WaysWord : Prop :=
  ∀ (s : State) (d : BitVec 5) (m : BitVec 6),
    (m = 63 → exec (.ways d m) s = .next (s.stopped (.trap (cz 0x02)))) ∧
    (m ≠ 63 → s.cx.isWork = true → exec (.ways d m) s = .next (s.stopped (.trap (cz 0x2C)))) ∧
    (m ≠ 63 → s.cx.isWork = false → s.cx.st.chk = false → s.engineFree s.cur = .ok () → (s.core s.curCore).ways = none →
      SMap.get (s.cell s.curCell).holding [] s.curPart = [] →
      s.waysClear s.curCore (s.waysRun s.curCore (s.cur % 4) m) (affected (s.core s.curCore).waym m) = true →
      ∃ t, exec (.ways d m) s = .next t ∧ (t.core s.curCore).waym = m ∧ (t.core s.curCore).ways = none ∧
        t.cx.s d = (if d = 0 then 0 else (s.core s.curCore).waym.setWidth 64) ∧
        ∀ w off, w < 6 → off < 0x1000 → (s.core s.curCore).waym.getLsbD w ≠ m.getLsbD w →
          Mem.get (t.core s.curCore).arr (0x1000 * w + off) = 0)

/-! ### System words -/

/-- SYSRD and SYSWR complete at the level the register asks for, with the register's value; a lower level traps with 0x03,
or 0x04 for BUDG, and an unassigned number with 0x02. A write of STATUS at level 0 changes the flags and the rounding mode
alone, and LOST where its bit is 1. -/
def Obligations.SystemRegisterWords : Prop :=
  ∀ (s : State) (d a : BitVec 5) (r : BitVec 11),
    (sysReg r = false → exec (.sysrd d r) s = .next (s.stopped (.trap (cz 0x02)))) ∧
    (sysReg r = true → s.cx.st.priv ≠ 0 → s.cx.isWork = false → s.cx.st.pure = false →
      exec (.sysrd d r) s = .next (s.wr 4 d (s.sysReg s.cur r.toNat))) ∧
    (s.cx.st.priv = 0 → (r = 3 ∨ r = 17 ∨ r = 20 ∨ r = 21 ∨ (0x40 ≤ r.toNat ∧ r.toNat < 0x80 ∧ r.toNat % 8 < 6)) →
      exec (.sysrd d r) s = .next (s.stopped (.trap (cz 0x03)))) ∧
    (s.cx.st.priv = 0 → (r = 0 ∨ r = 1 ∨ r = 2 ∨ r = 4 ∨ r = 5 ∨ (r = 6 ∧ s.cx.isWork = false ∧ s.cx.st.pure = false) ∨
        (7 ≤ r.toNat ∧ r.toNat ≤ 16) ∨ r = 18 ∨ r = 19) →
      exec (.sysrd d r) s = .next (s.wr 4 d (s.sysReg s.cur r.toNat))) ∧
    ((sysReg r && sysWritable r) = false → exec (.syswr a r) s = .next (s.stopped (.trap (cz 0x02)))) ∧
    (s.cx.st.priv = 0 → (r = 1 ∨ r = 2 ∨ r = 3 ∨ r = 11 ∨ r = 16 ∨ r = 17 ∨ r = 20 ∨ r = 21) →
      exec (.syswr a r) s = .next (s.stopped (.trap (cz 0x03)))) ∧
    (s.cx.st.priv.toNat < 2 → exec (.syswr a 13) s = .next (s.stopped (.trap (cz 0x04)))) ∧
    (s.cx.st.priv ≠ 0 → exec (.syswr a 1) s = .next ((s.setCx { s.cx with cause := s.cx.s a }).skip 4) ∧
      exec (.syswr a 2) s = .next ((s.setCx { s.cx with epc := s.cx.s a }).skip 4) ∧
      exec (.syswr a 3) s = .next ((s.setCx { s.cx with tvec := s.cx.s a }).skip 4)) ∧
    (exec (.syswr a 12) s = .next ((s.setCx { s.cx with deadl := s.cx.s a }).skip 4)) ∧
    (s.cx.st.priv = 0 → ∃ t, exec (.syswr a 0) s = .next t ∧ t.cx.st = { s.cx.st with
      frm := (s.cx.s a).extractLsb' 40 2, flags := (s.cx.s a).extractLsb' 32 5, lost := s.cx.st.lost && !(s.cx.s a).getLsbD 13 })

/-- TRAP, BREAK, SRET, HALT and SNAP. SRET goes back to EPC at the level and with the enable that were saved, at a user level
it traps with 0x03; HALT parks its context at the word that follows, at LAST of a LOOP at the one that the level leads to; SNAP
triggers a snapshot into the buffer that SNAPCTL names and goes on. -/
def Obligations.SystemWords : Prop :=
  ∀ (s : State) (n : BitVec 6),
    exec (.trap n) s = .next (s.stopped (.trap (cz 0x09))) ∧
    exec .brk s = .next (s.stopped (.trap (cz 0x08))) ∧
    (s.cx.st.priv = 0 → exec .sret s = .next (s.stopped (.trap (cz 0x03))) ∧
      exec .halt s = .next (s.stopped (.trap (cz 0x03))) ∧ exec .snap s = .next (s.stopped (.trap (cz 0x03)))) ∧
    (s.cx.st.priv ≠ 0 → s.cx.gang = none →
      (s.cx.st.ppriv.toNat ≤ 1 → s.cx.epc.getLsbD 0 = false → exec .sret s = .next (s.setCx { s.cx with
        pc := s.cx.epc, st := { s.cx.st with priv := s.cx.st.ppriv, aie := s.cx.st.paie, ppriv := 0, paie := false } })) ∧
      (s.cx.st.ppriv.toNat ≤ 1 → s.cx.epc.getLsbD 0 = true → exec .sret s = .next (s.stopped (.trap (czAt 0x07 s.cx.epc)))) ∧
      (1 < s.cx.st.ppriv.toNat → exec .sret s = .next (s.stopped (.trap (cz 0x02)))) ∧
      (s.quiet s.cur = true → exec .halt s = .next (s.setCx { s.cx.advance 4 with
        cs := .frozen, epc := (s.cx.advance 4).pc, pc := (s.cx.advance 4).pc })) ∧
      (s.quiet s.cur = false → exec .halt s = .next (s.block .halt))) ∧
    (s.cx.st.priv ≠ 0 → ∃ t, exec .snap s = .next t ∧ t.cx = s.cx.advance 4 ∧
      (bits (s.part s.curPart).snapctl 55 6 ≠ 0 → (s.part s.curPart).image = none → (s.part s.curPart).snapT = none →
        (t.part s.curPart).snapT = some (s.pace.toNat + 1) ∧ (t.part s.curPart).snapBuf = (s.part s.curPart).snapctl &&& 0x00FFFFFFFFFFFFC0))

/-! ### The module's own steps -/

/-- Launches. A message is refused to its sender with 0x31 where nothing is bound, with 0x2B where the core's cell is out of
service, with 0x30 where its header is malformed, and joins the launch queue of its core; a launch starts its task on the
lowest Idle context with the registers of 02 R46; a list header starts the core's list, whose entries start its routines or
end it; SYNC's rounds are released when every core has joined, in a deterministic partition at a multiple of 8 clocks
and once every die runs at 800 MHz; scratch is retained after every earlier store into it; a
group that asks for it is retained first, or refused with 0x52. -/
def Obligations.LaunchSteps : Prop :=
  ∀ (s : State) (core : Nat),
    (∀ m t, core < 2 ^ 18 → (s.core core).unsent = m :: t → m.kind = 0 → m.mbox ≠ mgmtMailbox →
      let r := s.setCore core { s.core core with unsent := t }
      ((s.part m.part).bound m.mbox = none → (s.part m.part).forward m.mbox = none → exec (.launchMessageArrival core) s =
        .next (r.postTo m.part (m.sender / 4) m.sender m.task 1 (cz 0x31))) ∧
      (∀ dst e, (s.part m.part).bound m.mbox = some (dst, e) → dst ≠ core → r.mayArrive m.die (dieOf dst) = true →
        (r.validCell (dst / 4) = false → exec (.launchMessageArrival core) s =
          .next (r.postTo m.part (m.sender / 4) m.sender m.task 1 { code := 0x2B, info := BitVec.ofNat 32 dst, va := 0 })) ∧
        (r.validCell (dst / 4) = true → headerBad (s.part m.part).det (r.listBusy m.part dst) e m.hdr = true →
          exec (.launchMessageArrival core) s = .next (r.postTo m.part (m.sender / 4) m.sender m.task 1 (cz 0x30))) ∧
        (r.validCell (dst / 4) = true → headerBad (s.part m.part).det (r.listBusy m.part dst) e m.hdr = false →
          (s.cell (dst / 4)).part = some m.part → SMap.get (s.cell (dst / 4)).holding [] m.part = [] →
          (s.core dst).launchQ.length < 16 →
          ∃ u h, exec (.launchMessageArrival core) s = .next u ∧ (u.core dst).launchQ = (s.core dst).launchQ ++ [h] ∧
            h.hdr = m.hdr ∧ h.bound = e ∧ h.mbox = m.mbox ∧ h.start = m.start ∧ (u.core core).unsent = t))) ∧
    (∀ h t, (s.core core).launchQ = h :: t → s.runs core = true → (s.die (dieOf core)).overBudget = false →
      h.start.toNat ≤ s.pace.toNat →
      (hdrList h.hdr = true → (s.core core).slist.any (fun l => !(l.phase = 3 && l.running = 0)) = false →
        exec (.launch core) s = .next (s.setCore core { s.core core with
        launchQ := t
        slist := some { hdr := h.hdr, mbox := h.mbox, late := h.late, base := h.entry, idx := 0, running := 0, joined := false, exch := 0, phase := 0 } })) ∧
      (∀ i, hdrList h.hdr = false → (hdrHeat h.hdr = true → h.copied = true) → s.idleCtx core = some i →
        ∃ u, exec (.launch core) s = .next u ∧ (u.core core).launchQ = t ∧ (u.ctx (4 * core + i)).cs = .ready ∧
          (u.ctx (4 * core + i)).pc = h.entry ∧ (u.ctx (4 * core + i)).s 3 = h.hdr.getD 0 0 ∧
          (u.ctx (4 * core + i)).s 4 = h.mbox ∧ (u.ctx (4 * core + i)).s 5 = h.hdr.getD 3 0 ∧
          (u.ctx (4 * core + i)).s 6 = h.param ∧ (u.ctx (4 * core + i)).st.priv = 0 ∧ (u.ctx (4 * core + i)).st.aie = true ∧
          (u.ctx (4 * core + i)).st.late = h.late ∧ (u.ctx (4 * core + i)).st.flags = 0 ∧ (u.ctx (4 * core + i)).wid = h.hdr.getD 0 0 ∧
          (u.ctx (4 * core + i)).tenant = hdrTenant h.hdr ∧ (u.ctx (4 * core + i)).deadl = h.hdr.getD 3 0 ∧ u.mem = s.mem)) ∧
    (∀ h t, (s.core core).launchQ = h :: t → s.runs core = true → h.start.toNat ≤ s.pace.toNat → hdrHeat h.hdr = true →
      hdrList h.hdr = false → h.copied = false → (s.idleCtx core).isSome = true →
      ((∃ j, j < hdrNret h.hdr ∧ (hdrRange h.hdr j).1 < 0x10000) → s.storesDone core = false → exec (.retentionCopy core) s = .next s) ∧
      (((∀ j, j < hdrNret h.hdr → 0x10000 ≤ (hdrRange h.hdr j).1) ∨ s.storesDone core = true) →
      (s.retainAll core (s.partOf core) h.hdr (hdrNret h.hdr) = none →
        exec (.retentionCopy core) s = .next ((s.setCore core { s.core core with launchQ := t }).refuse h.sender 0x52)) ∧
      (∀ kept, s.retainAll core (s.partOf core) h.hdr (hdrNret h.hdr) = some kept → (s.part (s.partOf core)).freeSlot = none →
        let b := s.retainTouch core (s.partOf core) h.hdr
        let a : State := if hdrNret h.hdr = 0 then b else b.accept h.sender
        exec (.retentionCopy core) s = .next ((a.setCore core { a.core core with
          launchQ := { h with copied := true } :: t }).heatCount (s.partOf core) 0x28)))) ∧
    (∀ l, (s.core core).slist = some l → s.runs core = true → l.phase = 0 →
      (∀ e va, s.listEntry core l = .error (e, va) → exec (.superstepRoutineStart core) s = .next (s.listFault core l e va)) ∧
      (∀ i n a, s.listEntry core l = .ok (n, a) → n < 2 → (n = 1 → l.running = 0) → s.idleCtx core = some i → exec (.superstepRoutineStart core) s =
        .next ((s.setList core { l with idx := l.idx + 1, running := l.running + 1 }).startRoutine core i l .work a l.idx)) ∧
      (∀ a, s.listEntry core l = .ok (2, a) → l.running = 0 → exec (.superstepRoutineStart core) s = .next (s.setCore core
        { s.core core with joined := (s.core core).joined + 1, slist := some { l with idx := l.idx + 1, exch := a, phase := 1, joined := true } })) ∧
      (∀ a, s.listEntry core l = .ok (3, a) → exec (.superstepRoutineStart core) s = .next (s.setList core { l with phase := 3 }))) ∧
    (∀ l e, (s.core core).slist = some l → (s.die (dieOf core)).exStart = some e → l.phase = 2 → e ≤ s.clock →
      (s.cell (core / 4)).part.isSome = true →
      exec (.exchangeRoutineStart core) s =
        .next ((s.setList core { l with phase := 4, running := 1 }).startRoutine core 0 l .exchange l.exch (l.idx - 1))) ∧
    (∀ p, (s.syncMet p = false → exec (.syncRelease p) s = .next s) ∧
      (s.syncMet p = true → (s.part p).det = false →
        exec (.syncRelease p) s = .next (s.setPart p { s.part p with rounds := (s.part p).rounds + 1 })) ∧
      (s.syncMet p = true → (s.part p).det = true →
        ((∃ d ∈ (s.part p).dies, (s.die d).fullClock s.clock = false) → ∃ t, exec (.syncRelease p) s = .next t ∧
          (t.part p).rounds = (s.part p).rounds) ∧
        ((∀ d ∈ (s.part p).dies, (s.die d).fullClock s.clock = true) → s.clock % 8 ≠ 0 → exec (.syncRelease p) s = .next s) ∧
        ((∀ d ∈ (s.part p).dies, (s.die d).fullClock s.clock = true) → s.clock % 8 = 0 → ∃ t, exec (.syncRelease p) s = .next t ∧ t.clock = s.clock ∧
          ((∀ c ∈ (s.part p).cells, (s.cell c).dq = false) → (t.part p).rounds = (s.part p).rounds + 1))))

/-- Stage graphs. A stage fires on the tag that every input port offers, reserves its records and launches its template; a
window of the balancer closes after 4,096 ticks; a replay is performed only while one is due and no write of it must wait; a
declaration joins firmware's queue of requests, whose step refuses it with 0x02 for a deterministic partition, and else lets
it stand as it reads. -/
def Obligations.StageSteps : Prop :=
  ∀ (s : State) (part : Nat),
    ((s.part part).graph = none → (∀ i c, exec (.stageFiring part i c) s = .next s) ∧ exec (.balancerWindow part) s = .next s ∧
      exec (.replay part) s = .next s) ∧
    (∀ g i cell st t core, (s.part part).graph = some g → (g.settle s part).stages[i]? = some st → cell ∈ st.cells → s.runs (4 * cell) = true →
      (g.settle s part).fires st = some t → s.stageCore cell = some core →
      ∃ u h, exec (.stageFiring part i cell) s = .next u ∧ (u.core core).launchQ = (s.core core).launchQ ++ [h] ∧
        h.reserved = (g.settle s part).take st t ∧ h.hdr.drop 1 = st.template.drop 1 ∧ bits (h.hdr.getD 0 0) 31 0 = t % 2 ^ 32 ∧
        (u.part part).graph = some ((g.settle s part).reserve ((g.settle s part).take st t))) ∧
    (∀ g, (s.part part).graph = some g → (s.pace.toNat / 4096 ≤ g.window → exec (.balancerWindow part) s = .next s) ∧
      (g.window < s.pace.toNat / 4096 → ∃ u h, exec (.balancerWindow part) s = .next u ∧ (u.part part).graph = some h ∧
        h.window = s.pace.toNat / 4096 ∧ h.queues.map (fun q => q.recs) = g.queues.map (fun q => q.recs)) ∧
      (g.due = [] → exec (.replay part) s = .next s) ∧
      (∀ r b t, g.due = (r, r, b) :: t → s.replayHeldUp part r { g.settle s part with due := t } b = true → exec (.replay part) s = .next s) ∧
      (∀ r b t, g.due = (r, r, b) :: t → s.replayHeldUp part r { g.settle s part with due := t } b = false →
        (∀ st ∈ g.stages, st.seed = false) → (∀ x ∈ b, x = []) →
        ∃ u h, exec (.replay part) s = .next u ∧ (u.part part).graph = some h ∧ h.due = t)) ∧
    (∀ host tag desc, s.frozenHosts = [] → host < 4096 → part < 64 →
      exec (.stageGraphDeclaration host tag part desc) s =
        .next { s with mgmt := s.mgmt ++ [{ host := host, tag := tag, words := [mgmtWord 7 part 0, desc] }] } ∧
      (∀ t, s.boot = 8 → s.bootHeld = false → s.right host part (fun b => b.launch) = true →
        s.mgmt = { host := host, tag := tag, words := [mgmtWord 7 part 0, desc] } :: t →
        let r : State := { s with mgmt := t }
        ((s.part part).det = true → s.mgmtStep = .next (r.answer host tag 7 0x02 [])) ∧
        (∀ g, (s.part part).det = false → s.graphIdle part = true → s.readGraph part desc = .ok g →
          s.mgmtStep = .next ((r.setPart part { s.part part with graph := some g }).answer host tag 7 0 []))))

/-- A Blocked context becomes Ready when what it waits for has come, a WAITW by returning, a PACEW with the count of that clock. A pending cause is taken at the next boundary while AIE
is 1 and no deferred fault stands before it; a deferred fault is taken when the context's vector words are done. A WAITW
returns at its tick; an acknowledgement lowers its count, of which what is still held is no part. FRZ resumes, ends (at once
when the context's counts are zero, else it stays frozen until then), retries or aborts a frozen unit, and changes nothing
where the unit is not frozen. -/
def Obligations.ContextSteps : Prop :=
  ∀ (s : State) (k : Nat),
    (∀ w, (s.ctx k).cs = .blocked w → (s.ctx k).gang = none → (s.ctx k).isLeaving = false →
      ((∀ d, w ≠ .waitw d) → (∀ p, w ≠ .pace p) → exec (.contextUnblock k) s = .next (if s.waitMet k w then s.setCtx k { s.ctx k with cs := .ready } else s)) ∧
      (∀ p, w = .pace p → exec (.contextUnblock k) s = .next (if p.toNat ≤ s.pace.toNat then
        s.setCtx k { s.ctx k with cs := .ready, resume := SMap.set (s.ctx k).resume (s.ctx k).pc.toNat (paceMark + s.pace.toNat) } else s)) ∧
      (∀ d, w = .waitw d → exec (.contextUnblock k) s = .next (if s.waitMet k w then
        s.waitwReturn k d (s.timedOut (SMap.get (s.ctx k).resume 0 (s.ctx k).pc.toNat)) (s.ctx k).interrupted else s))) ∧
    (∀ a t, (s.ctx k).apend = a :: t → (s.ctx k).cs = .ready → (s.ctx k).st.chk = false → (s.ctx k).gang = none →
      (s.ctx k).isLeaving = false → (s.ctx k).deferred = none →
      ((s.ctx k).st.aie = false → exec (.asynchronousCause k) s = .next s) ∧
      ((s.ctx k).st.aie = true → ∃ u, exec (.asynchronousCause k) s = .next u ∧ (u.ctx k).apend = t ∧ (u.ctx k).epc = (s.ctx k).pc ∧
        (u.ctx k).cause = causeWord a.what a.src a.coord 0 ∧ (u.ctx k).pc = (s.ctx k).tvec ∧ (u.ctx k).st.priv = 1 ∧
        (u.ctx k).st.aie = false ∧ (u.ctx k).st.ppriv = (s.ctx k).st.priv ∧ (u.ctx k).st.paie = true)) ∧
    (∀ pc c, (s.ctx k).deferred = some (pc, c) → (s.ctx k).cs = .ready → (s.ctx k).gang = none → s.vbusy k = false →
      (s.ctx k).st.chk = false → c.code ≠ 0x25 → (s.ctx k).st.aie = true → ∃ u, exec (.deferredTrap k) s = .next u ∧
        (u.ctx k).epc = pc ∧ (u.ctx k).deferred = none ∧ (u.ctx k).pc = (s.ctx k).tvec ∧
        (u.ctx k).cause = causeWord c 1 (BitVec.ofNat 18 (k / 4)) 0) ∧
    (∀ d, (s.ctx k).cs = .blocked (.waitw d) → (s.ctx k).gang = none →
      (s.timedOut (SMap.get (s.ctx k).resume 0 (s.ctx k).pc.toNat) = false → exec (.waitwTimeout k) s = .next s) ∧
      (s.timedOut (SMap.get (s.ctx k).resume 0 (s.ctx k).pc.toNat) = true → ∃ u, exec (.waitwTimeout k) s = .next u ∧
        (u.ctx k).cs = .ready ∧ (u.ctx k).watch = [] ∧ (d ≠ 0 → ((u.ctx k).s d).getLsbD 10 = true))) ∧
    ((s.ctx k).heldUnder (k / 4) true < (s.ctx k).sysCnt →
      exec (.storeAcknowledge k 1) s = .next (s.setCtx k { s.ctx k with sysCnt := (s.ctx k).sysCnt - 1 })) ∧
    (s.keysOut k < (s.ctx k).modCnt → exec (.storeAcknowledge k 0) s = .next (s.setCtx k { s.ctx k with modCnt := (s.ctx k).modCnt - 1 })) ∧
    (∀ u, u < 4 → (s.ctx (4 * k + u)).cs = .frozen →
      ((s.ctx (4 * k + u)).isLeaving = false →
        exec (.frzResume k u) s = .next (s.setCtx (4 * k + u) { s.ctx (4 * k + u) with cs := .ready, pc := (s.ctx (4 * k + u)).epc })) ∧
      (let r := s.setCtx (4 * k + u) { s.ctx (4 * k + u) with seqr := none, deferred := none };
        (r.quiet (4 * k + u) = true → r.exchangeDone (4 * k + u) = true → exec (.frzEnd k u) s = .next (r.endTask (4 * k + u))) ∧
        (r.quiet (4 * k + u) = false → ∃ t, exec (.frzEnd k u) s = .next t ∧ (t.ctx (4 * k + u)).cs = .frozen ∧
          (t.ctx (4 * k + u)).isLeaving = true ∧ (t.ctx (4 * k + u)).task = (s.ctx (4 * k + u)).task))) ∧
    (∀ u, s.frozenBit k u = false → exec (.frzRetry k u) s = .next s ∧ exec (.frzAbort k u) s = .next s) ∧
    ((s.cell (k / 4)).mqFrozen = true →
      exec (.frzRetry k 8) s = .next (s.setCell (k / 4) { s.cell (k / 4) with mqFrozen := false }) ∧
      ∃ t, exec (.frzAbort k 8) s = .next t ∧ (t.cell (k / 4)).mq = [] ∧ (t.cell (k / 4)).mqFrozen = false)

/-- Fills, retries, page walks, soft errors, retention mode, TLB and format-region writes, held messages and rank moves. A
fill of a line nobody waits for stands in its set with every sector valid; one that is waited for serves the list; a request
that finds its list full is sent again after 64 clocks. -/
def Obligations.MemorySteps : Prop :=
  ∀ (s : State),
    (∀ pa key tag sb, isGddr pa = true → pa % 128 = 0 → (s.clu (homeClu pa)).ecc.ret = false →
      SMap.find (s.clu (homeClu pa)).near (pa / 128) = none → SMap.get (s.clu (homeClu pa)).miss [] (pa / 128) = [] →
      ((s.clu (homeClu pa)).setOf (pa / 128)).length < 16 - (s.clu (homeClu pa)).pins → s.fillTag key pa = .ok (tag, sb) →
      ∃ t, exec (.sliceFill pa key) s = .next t ∧ SMap.find (t.clu (homeClu pa)).near (pa / 128) =
        some { tag := tag, sb := sb, keyid := key, valid := 15, dirty := 0 } ∧ t.mem = s.mem) ∧
    (∀ pa key, SMap.get (s.clu (homeClu pa)).miss [] (pa / 128) ≠ [] → exec (.sliceFill pa key) s = .next (s.mergeFill pa)) ∧
    (∀ c line r t, (s.clu c).retry = (line, r) :: t → (s.clock < r.again → exec (.missRetry c) s = .next s) ∧
      (r.again ≤ s.clock →
        let u := s.setClu c { s.clu c with retry := t }
        exec (.missRetry c) s = .next (if u.nearHolds (line * 128) r.keyid
          then u.cacheTouch r.coord r.keyid (line * 128) 128 false false false else u.askFill line r))) ∧
    (∀ line r l, SMap.find (s.clu (homeClu (line * 128))).near line = some l →
      l.places ≤ (SMap.get (s.clu (homeClu (line * 128))).miss [] line).length → s.askFill line r =
        s.setClu (homeClu (line * 128)) { s.clu (homeClu (line * 128)) with
          retry := (s.clu (homeClu (line * 128))).retry ++ [(line, { r with again := s.clock + 64 })] }) ∧
    (∀ core (va : Word) e lg, spaceOf va = .translated → s.walk (s.partOf core) va.toNat = .ok (e, lg) →
      ∃ t, exec (.pageWalk core va) s = .next t ∧ t.translate core (s.partOf core) va.toNat = .ok (e, lg) ∧ t.mem = s.mem) ∧
    (∀ core (va : Word) c, s.walk (s.partOf core) va.toNat = .error c → ∃ t, exec (.pageWalk core va) s = .next t ∧ t.mem = s.mem ∧
      (t.core core).tlb = (s.core core).tlb ∧ (t.clu (cluOf core)).ctlb = (s.clu (cluOf core)).ctlb) ∧
    (∀ core w, w < 3072 → (s.core core).waym.getLsbD (w / 512) = true → (s.core core).ecc = Ecc.reset →
      (∃ t, exec (.softError 0 core w 1) s = .next t ∧ (t.core core).ecc.failing (8 * w) 8 = true) ∧
      (∃ t, exec (.softError 0 core w 0) s = .next t ∧ (t.core core).ecc.failing (8 * w) 8 = false)) ∧
    (∀ core, (s.core core).ecc = Ecc.reset →
      (∃ t, exec (.retentionEntry 0 core) s = .next t ∧ (t.core core).ecc.ret = true) ∧
      (∃ t, exec (.retentionExit 0 core) s = .next t ∧ (t.core core).ecc = Ecc.reset)) ∧
    (∀ p v, ∃ t, exec (.tlbiWrite p v) s = .next t ∧ t.mem = s.mem ∧ t.parts = s.parts ∧
      ∀ c, (t.core c).tlb = (s.core c).tlb.filter (fun e => !e.hit p v)) ∧
    (∀ n (v : Word), n < 16 → (∃ t, exec (.formatRegionWrite n 0 v) s = .next t ∧
        (SMap.get t.regions (0, 0, 0) n).1 = v &&& 0x000FFFFFFFFFFF80 ∧ (SMap.get t.regions (0, 0, 0) n).2 = (SMap.get s.regions (0, 0, 0) n).2) ∧
      (8 ≤ bits v 59 56 → exec (.formatRegionWrite n 2 v) s = .next s)) ∧
    (∀ n reg (v : Word), 16 ≤ n → exec (.formatRegionWrite n reg v) s = .next s) ∧
    (∀ cell p core h t, (s.cell cell).part = some p → s.parking (4 * cell) = false →
      (∀ i, i < 4 → (s.core (4 * cell + i)).held = []) →
      SMap.get (s.cell cell).holding [] p = [.launch core h] → (s.core core).launchQ = t → t.length < 16 →
      ∃ u, exec (.rankWindowAccess cell) s = .next u ∧ (u.core core).launchQ = t ++ [h] ∧ SMap.get (u.cell cell).holding [] p = []) ∧
    (∀ p r new e, r < 2 ^ 20 → e = s.rankEntry p r → (s.part p).live = true → bit e 63 = true → bit e 62 = false → bits e 17 0 ≠ new →
      (s.cell (new / 4)).part = some p → s.validCell (new / 4) = true → new < 2 ^ 18 → (∀ i, i < 4 → (s.ctx (4 * new + i)).cs = .idle) →
      (s.core new).launchQ = [] → s.coreRest new = true → (∀ q ∈ s.rankList p, bit q.2 63 = true → bits q.2 17 0 ≠ new) →
      exec (.threadMove p r new) s = .next (s.setRank p r (e ||| 0x4000000000000000))) ∧
    (∀ p r new, (s.part p).live = false → exec (.threadMove p r new) s = .next s)

/-- The networks, the pace clock and power. A packet takes the loop of its stops' rows, or within a row the one that its cell
number chooses; within a stop it is taken at once or passes again a clock later, and on a loop it goes on until its head is at
its destination. A write of a copy is taken at its home, its pieces of 64 bytes are written in any order and the last is
acknowledged; a held packet passes on when nothing that it must follow is under way; a flit takes a place at the next gateway,
which counts against the 16 of its clock. A port judges the other side's group by its number and its CRC, sends the groups of its
replay buffer again where it is asked to, goes down at the seventeenth replay in a row, keeps what is not acknowledged and takes
what firmware routes; a fabric packet with a reserved length, at its last hop or of a
host adapter without a request's OP is discarded and reported. A tick advances the pace count by one; its loss is reported and
a timestamp exchange with the neighbour toward the time master corrects it; a stack above its budget slows down by 25 MHz. The order of ports, the OPs of a launch
message between modules, the routes' layout and the pace of a correction are the model's (logs 96, 98, 115). -/
def Obligations.NetworkSteps : Prop :=
  ∀ (s : State) (die : Nat), die < 8 →
    (∀ src dst core, src < 64 → dst < 64 →
      (src = dst → loopFor src dst core = none) ∧
      (src ≠ dst → ∃ l a b, loopFor src dst core = some l ∧ loopRows l = some (a, b) ∧ (posOf src l).isSome = true ∧ (posOf dst l).isSome = true ∧
        (src / 8 = dst / 8 → a + b = src / 8 + if core / 4 % 1024 % 7 < src / 8 then core / 4 % 1024 % 7 else core / 4 % 1024 % 7 + 1))) ∧
    (∀ i, (s.die die).loopPkts[i]? = none → (s.die die).landing = [] → exec (.loopPacketArrival die i) s = .next s) ∧
    (∀ l i pa key ctr unc hb, (s.die die).loopPkts = [] → (s.die die).landing = [l] → i < 4 → l.place = .phys pa key ctr unc hb → l.post = none →
      (i ∉ l.left → exec (.loopPacketArrival die i) s = .next s) ∧
      (∀ t, i ∈ l.left → s.writePlace (die * 131072) (.phys (pa + 64 * i) key ctr true hb) ((l.data.drop (64 * i)).take 64) 0 = .ok t →
        ∃ u, exec (.loopPacketArrival die i) s = .next u ∧ u.mem = t.mem ∧
          (l.left.erase i ≠ [] → (u.die die).landing = [{ l with left := l.left.erase i }]) ∧
          (l.left.erase i = [] → (u.die die).landing = [] ∧ ∃ v : State, u = v.sendAck (l.place.home (die * 32768)).1 l.core l.ch (if l.exch then l.data.length else 0)))) ∧
    (∀ l c a, (s.die die).loopPkts = [] → (s.die die).landing = [l] → l.place = .array c a → l.held = true → (s.core c).ways.isSome = true →
      ∀ i, i < 4 → exec (.loopPacketArrival die i) s = .next s) ∧
    (∀ l : Landing, (∀ c o, l.place ≠ .array c o) → s.mayWrite l.place.atHome l.data.length 0 = .ok () → s.landWrite die l =
      s.setDie die { s.die die with landing := (s.die die).landing ++ [{ l with left := List.range ((l.data.length + 63) / 64), held := false }] }) ∧
    (∀ x, (s.die die).loopPkts = [x] → x.seen ≤ 2 * s.clock + 1 →
      (∀ u, x.loop = none → (s.dropPkt die 0).takePacket die x.pkt = some u → exec (.loopPacketArrival die 0) s = .next u) ∧
      (x.loop = none → (s.dropPkt die 0).takePacket die x.pkt = none → exec (.loopPacketArrival die 0) s =
        .next (s.setPkt die 0 (fun y => { y with refused := y.refused + 1, seen := 2 * s.clock + 2 }))) ∧
      (∀ l k t0 fs, x.loop = some l → x.more = false → x.taken = none → x.flits = (k, t0) :: fs →
        (max x.seen (2 * s.clock) - t0) % 16 ≠ x.hops % 16 → exec (.loopPacketArrival die 0) s =
          .next (s.setPkt die 0 (fun y => { y with seen := max x.seen (2 * s.clock) + 1 })))) ∧
    (∀ p : Packet, p.dst = die → p.dstMod = s.modNum →
      (∀ core ch n, p.payload = .ack core ch n → s.takePacket die p = some (s.acked core ch n)) ∧
      (∀ q data tags core ch off pt, p.payload = .copyWrite q data tags core ch off pt → (∀ c o, q ≠ .array c o) →
        s.takePacket die p = some (s.landWrite die (p.landing q data tags core ch off))) ∧
      (∀ q n core ch, p.payload = .post q n core ch → ∃ u l, s.takePacket die p = some u ∧ (u.die die).landing = (s.die die).landing ++ [l] ∧
        l.post = some n ∧ l.left = [0] ∧ l.place = q ∧ u.mem = s.mem) ∧
      (∀ m pt, p.payload = .launch m pt → s.takePacket die p = some { s with hwMsgs := s.hwMsgs ++ [{ m with part := pt }] })) ∧
    (∀ p : Packet, p.dst ≠ die → p.dir < 2 → ∃ u e, s.takePacket die p = some u ∧
      ((u.die die).gateway p.dir).q = ((s.die die).gateway p.dir).q ++ [e] ∧ e.pkt = p ∧ e.got = p.len + 1 ∧ e.sent = 0) ∧
    (∀ e, ((s.die die).gateway 0).q = [e] → e.pkt.dst = die → e.pkt.stamp = none → e.pkt.len < e.got → e.ready s.clock = true →
      ∃ u x, exec (.gatewayHoldRelease die) s = .next u ∧ ((u.die die).gateway 0).q = [] ∧
        (u.die die).loopPkts = (s.die die).loopPkts ++ [x] ∧ x.pkt = e.pkt ∧ x.src = gatewayStop 0) ∧
    (((s.die (ringPrev die 0)).gateway 0).q = [] → exec (.ringFlitGrant die 0) s = .next s) ∧
    (∀ e, ((s.die (ringPrev die 0)).gateway 0).q = [e] → ((s.die die).gateway 0).q = [] → e.pkt.dst ≠ ringPrev die 0 →
      e.sent = 0 → e.ready s.clock = true → e.pkt.vc < 2 → ∀ b, ((s.die die).gateway 0).room (vcAt die 0 e.pkt.vc) s.clock = some b →
      (e.pkt.len < 5 → e.pkt.dst < 8 → ∃ u h, exec (.ringFlitGrant die 0) s = .next u ∧
        ((u.die die).gateway 0).q = [h] ∧ h.got = 1 ∧ h.places = [(b, s.clock)] ∧ ((u.die die).gateway 0).givenIn s.clock = ((s.die die).gateway 0).givenIn s.clock + 1 ∧ h.pkt.dst = e.pkt.dst ∧
        h.pkt.vc = if die = 0 then 1 else e.pkt.vc) ∧
      (5 ≤ e.pkt.len ∨ 8 ≤ e.pkt.dst → ∃ u : State, exec (.ringFlitGrant die 0) s = .next (u.fabricNotice 0x34 (stopCoord die (gatewayStop 0))) ∧
        ((u.die (ringPrev die 0)).gateway 0).q = [])) ∧
    (∀ port, port < 2 →
      let q := (s.die die).port port
      (q.up = false → exec (.fabricReplay die port) s = .next s ∧ ∀ f, exec (.fabricControlFlit die port f) s = .next s) ∧
      (q.up = true → q.replays < 16 → exec (.fabricReplay die port) s = .next (s.setPort die port
        { q with replays := q.replays + 1, again := q.buf.map Prod.fst })) ∧
      (q.up = true → 16 ≤ q.replays → q.buf = [] → s.fabOut = [] → ∃ u, exec (.fabricReplay die port) s = .next u ∧
        ((u.die die).port port).up = false) ∧
      (∀ f, q.up = true → q.frozen = false → f.good ≠ 0 →
        let whole := f.crc = Config.crc32 f.flits ∧ f.seq = q.heard + 1
        let kept := q.buf.filter (fun b => decide (f.ack < b.1))
        (q.again.filter (fun g => decide (f.ack < g)) = [] → s.fabOut = [] →
          (whole → exec (.fabricControlFlit die port f) s = .next (s.setPort die port
            { q with heard := f.seq, asked := 0, credits := f.credits, seqno := q.seqno + 1, replays := 0, buf := kept, again := [] })) ∧
          (¬ whole → q.asked < 16 → exec (.fabricControlFlit die port f) s = .next (s.setPort die port
            { q with asked := q.asked + 1, credits := f.credits, seqno := q.seqno + 1, replays := 0, buf := kept, again := [] }))) ∧
        (∀ g r, whole → q.again.filter (fun x => decide (f.ack < x)) = g :: r → exec (.fabricControlFlit die port f) s =
          .next (s.setPort die port { q with heard := f.seq, asked := 0, replays := 0, buf := kept, again := r }))) ∧
      (∀ r, (s.boot < (if die = 0 ∧ port = 0 then 3 else 7) → exec (.fabricLinkUp die ⟨port, r⟩) s = .next s) ∧
        ((if die = 0 ∧ port = 0 then 4 else 7) ≤ s.boot → exec (.fabricLinkUp die ⟨port, r⟩) s = .next ((s.setPort die port
          { up := true, frozen := false, credits := 0, seqno := 0, replays := 0, buf := [], again := [], heard := 0, asked := 0 }).writeRoutes r))) ∧
      (∀ (hdr : BitVec 128) (fab : Word) b host, q.up = true → q.frozen = false → q.asked = 0 →
        (5 ≤ bits hdr 119 117 → exec (.fabricPacketArrival die port ⟨hdr, fab, b, host⟩) s =
          .next (s.fabricNotice 0x34 (stopCoord die (portStop port)))) ∧
        (bits hdr 119 117 < 5 → bits fab 63 52 = s.modNum →
          (host ≠ 0 → bits hdr 63 56 < 0xC0 → exec (.fabricPacketArrival die port ⟨hdr, fab, b, host⟩) s =
            .next (s.fabricNotice 0x34 (stopCoord die (portStop port)))) ∧
          (host ≠ 0 → bits hdr 63 56 = 0xC4 → exec (.fabricPacketArrival die port ⟨hdr, fab, b, host⟩) s =
            .next (s.hostMgmt host (bits hdr 77 64) (leWords ((b.length + 7) / 8) b))) ∧
          (host = 0 → bits hdr 63 56 = 0xC0 → exec (.fabricPacketArrival die port ⟨hdr, fab, b, host⟩) s =
            .next { s with hwMsgs := s.hwMsgs ++ [fabricMessage (fabricPacket hdr fab b) b] }) ∧
          (host = 0 → bits hdr 63 56 = 0xC1 → ∃ u : State, ((u.die die).port port).frozen = true ∧
            exec (.fabricPacketArrival die port ⟨hdr, fab, b, host⟩) s =
              .next (u.causeNotice (((b[64]?).getD 0).toNat % 64) (cz 0x25) 14 (stopCoord die (portStop port)) 0 0))) ∧
        (bits hdr 119 117 < 5 → bits fab 63 52 ≠ s.modNum →
          (62 ≤ bits fab 37 32 → exec (.fabricPacketArrival die port ⟨hdr, fab, b, host⟩) s =
            .next (s.fabricNotice 0x33 (stopCoord die (portStop port)))) ∧
          (∀ d e v, bits fab 37 32 < 62 → SMap.find s.routes (bits fab 63 52) = some (d, e, v) → ∃ u x,
            exec (.fabricPacketArrival die port ⟨hdr, fab, b, host⟩) s = .next u ∧ (u.die die).loopPkts = (s.die die).loopPkts ++ [x] ∧
            x.pkt.hops = bits fab 37 32 + 1 ∧ x.pkt.fvc = v ∧ x.pkt.dst = d ∧ x.pkt.payload = .bytes b)))) ∧
    (∃ u, exec .paceTick s = .next u ∧ u.pace = s.pace + 1 ∧ u.mem = s.mem ∧ u.clock = s.clock + (s.pacePeriod - s.pacePhase + 249) / 250 ∧
      (s.paceFix = 0 → s.pacePhase = 0 → u.clock = s.clock + 4)) ∧
    (∀ (d p : Nat) (o : Int) (m : Nat), (s.paceAge < 65536 ∨ (m ≠ s.modNum ∧ s.egress m ≠ some (d, p)) → exec (.paceTimestampExchange ⟨d, p, o, m⟩) s = .next s) ∧
      (65536 ≤ s.paceAge → m = s.modNum ∨ s.egress m = some (d, p) → ∃ u, exec (.paceTimestampExchange ⟨d, p, o, m⟩) s = .next u ∧ u.paceAge = 0 ∧ u.paceOffset = o ∧ u.timeMaster = m ∧
        (o.natAbs ≤ 1 → u.paceLost = false ∧ u.paceFix = if m = s.modNum then 0 else 1000 * o) ∧ (1 < o.natAbs → u.paceLost = true))) ∧
    (s.paceAge < 2 ^ 20 → exec .paceClockLost s = .next s) ∧
    (2 ^ 20 ≤ s.paceAge → ∃ u, exec .paceClockLost s = .next u ∧ u.paceLost = true) ∧
    (∀ w, (s.die die).measured < s.pace.toNat / 4096 → (s.die die).exE = none → (s.die die).ramp = none →
      (375 < w → 400 < (s.die die).mhz → exec (.powerMeasurement die w) s = .next (s.setDie die
        { s.die die with measured := s.pace.toNat / 4096, mhz := (s.die die).mhz - 25 })) ∧
      (w < 350 → exec (.powerMeasurement die w) s = .next (s.setDie die
        { s.die die with measured := s.pace.toNat / 4096, mhz := min 800 ((s.die die).mhz + 25), overBudget := false })) ∧
      (350 ≤ w → w ≤ 375 → exec (.powerMeasurement die w) s = .next (s.setDie die
        { s.die die with measured := s.pace.toNat / 4096, overBudget := false }))) ∧
    (∀ w, (s.die die).exE.isSome = true ∨ (s.die die).ramp.isSome = true → exec (.powerMeasurement die w) s = .next s)

/-! ### Edge programs and the encoder as they work -/

/-- What a bin holds after a candidate, and one step of the edge sequencer and of the encoder. An update of a core whose
KRBIN stands is combined into the bin of its key in one access, and its count saturates; without KRBIN the sender learns
of 0x28. A program starts with its descriptor checked or aborts, a vertex without work is passed by, a batch holds at most
8 edges, none goes on while the partition is switched out, nor starts while a WAYS of its core that issued before it is in progress, and a level ends in its three parts. A tile joins its frame or is counted, a frame closes whole or at its
deadline, with the next one where that has closed already, and a frame that would pass the consumer is dropped. That a frozen
output waits until a register is written, and that a ring's SIZE above 18 counts as 18, is the model's (log 99). -/
def Obligations.EdgeAndEncoderSteps : Prop :=
  ∀ (s : State) (n : Nat),
    (∀ op old cand, binStep op old cand / 2 ^ 32 = min (old / 2 ^ 32 + 1) (2 ^ 32 - 1) ∧
      binStep op old cand % 2 ^ 32 = combine op (old % 2 ^ 32) cand % 2 ^ 32) ∧
    (∀ u t, (s.core n).kin = u :: t → (s.core n).ways = none →
      (krbNr (s.core n).krb0 = 0 ∨ krbBs (s.core n).krb0 = 0 → exec (.keyUpdateApply n) s =
        .next (((s.setCore n { s.core n with kin := t }).keyReport u { code := 0x28, info := BitVec.ofNat 32 u.rank, va := 0 }).getD s) ∧
        (u.edge = none → (s.setCore n { s.core n with kin := t }).keyReport u { code := 0x28, info := BitVec.ofNat 32 u.rank, va := 0 } =
          some ((s.setCore n { s.core n with kin := t }).postAsync u.sender u.task 1 { code := 0x28, info := BitVec.ofNat 32 u.rank, va := 0 }))) ∧
      (∀ a, krbNr (s.core n).krb0 ≠ 0 → krbBs (s.core n).krb0 ≠ 0 → a = binAddr (s.core n).krb0 (s.core n).krb1 u.key →
        s.inScratch n a 8 = true → (s.core n).ecc = Ecc.reset → exec (.keyUpdateApply n) s =
          .next ((s.setCore n { s.core n with kin := t }).putScratchW n a
            (leBytes 8 (binStep (krbOp (s.core n).krb1) (leNat (s.scratchBytes n a 8)) u.value.toNat))))) ∧
    ((s.cell n).gq = [] → exec (.edgeProgramStart n) s = .next s) ∧
    (∀ p t, (s.cell n).gq = p :: t → (s.cell n).edge = none → (s.parking (n * 4) = true ∨ ∃ w, (s.core p.core).ways = some w ∧ w.gq ≤ p.num) →
      exec (.edgeProgramStart n) s = .next s) ∧
    (∀ p t, (s.cell n).gq = p :: t → (s.cell n).edge = none → (s.cell n).gqFrozen = false → s.markers = [] → s.parking (n * 4) = false →
      (∀ w, (s.core p.core).ways = some w → p.num < w.gq) →
      (∀ r, s.edgeCheck p = .ok r → exec (.edgeProgramStart n) s = .next (s.setCell n { s.cell n with
        edge := some r
        esw := { level := 0, run := true, fin := 0, force := 0, pend := 0, mode := bit p.e[7] 45 } })) ∧
      (∀ c u, s.edgeCheck p = .error (.trap c) →
        let r := s.setCell n { s.cell n with esw := { level := 0, run := true, fin := 0, force := 0, pend := 0, mode := bit p.e[7] 45 } }
        (r.edgeAbort n p c = none → exec (.edgeProgramStart n) s = .next s) ∧
        (r.edgeAbort n p c = some u → exec (.edgeProgramStart n) s = .next u ∧ (u.cell n).gqFrozen = true ∧ (u.cell n).edge = none ∧
          (u.cell n).gq = t ∧ (u.cell n).esw.run = false ∧ (u.cell n).esw.fin = 3)) ∧
      (∀ w, s.edgeCheck p = .error (.block w) → exec (.edgeProgramStart n) s = .next s)) ∧
    ((s.cell n).edge = none → exec (.edgePushBatch n) s = .next s ∧ exec (.edgePullBatch n) s = .next s ∧ exec (.edgeLevelEnd n) s = .next s) ∧
    (s.parking (n * 4) = true → exec (.edgePushBatch n) s = .next s ∧ exec (.edgePullBatch n) s = .next s ∧ exec (.edgeLevelEnd n) s = .next s) ∧
    (∀ r, (s.cell n).edge = some r → (s.cell n).gqFrozen = false → r.phase = 0 → r.vtx < r.nv → s.parking (n * 4) = false →
      exec (.edgeLevelEnd n) s = .next s ∧
      exec (if (s.cell n).esw.mode then .edgePushBatch n else .edgePullBatch n) s = .next s ∧
      ((∀ v, r.vtx ≤ v → v < r.nv → s.ownerHere n r v = none) →
        exec (if (s.cell n).esw.mode then .edgePullBatch n else .edgePushBatch n) s =
          .next (s.setCell n { s.cell n with edge := some { r with vtx := r.nv, edge := 0 } })) ∧
      (∀ own lo hi val b, (s.cell n).esw.mode = false → s.ownerHere n r r.vtx = some own →
        s.bitAt r.prog (frontiers r.prog (s.cell n).esw.level).1 r.vtx = .ok true →
        s.edgeWord r.prog (r.offs.toNat + 4 * r.vtx) = .ok lo → s.edgeWord r.prog (r.offs.toNat + 4 * (r.vtx + 1)) = .ok hi →
        s.seqUnit own (valueAddr r.prog.krb0 r.prog.krb1 r.vtx) 4 = .ok val → lo + r.edge < hi →
        s.outEdges r r.vtx val (min 8 (hi - (lo + r.edge))) (lo + r.edge) = .ok b →
        (let x := runBody r.prog.s r.body (r.window (s.cell n).esw.level s.free b);
          s.keysReady r.prog.core (s.partOf r.prog.core) r.prog.krb0
            ((liveLanes x (min 8 (hi - (lo + r.edge)))).map (fun i => lane (x.v 2) i)) = .ok ()) →
        ∃ u q, exec (.edgePushBatch n) s = .next u ∧ (u.cell n).edge = some q ∧
          (hi ≤ lo + r.edge + 8 → q.vtx = r.vtx + 1 ∧ q.edge = 0) ∧ (lo + r.edge + 8 < hi → q.vtx = r.vtx ∧ q.edge = r.edge + 8)) ∧
      (∀ own lo val e, (s.cell n).esw.mode = true → s.ownerHere n r r.vtx = some own → bit r.prog.e[7] 46 = false → r.edge = 0 →
        s.edgeWord r.prog (r.coffs.toNat + 4 * r.vtx) = .ok lo → s.edgeWord r.prog (r.coffs.toNat + 4 * (r.vtx + 1)) = .ok lo →
        s.seqUnit own (valueAddr r.prog.krb0 r.prog.krb1 r.vtx) 4 = .ok val → s.isSettled own r (s.cell n).esw.level r.vtx val = .ok e →
        exec (.edgePullBatch n) s = .next (s.setCell n { s.cell n with edge := some { r with vtx := r.vtx + 1, edge := 0 } }))) ∧
    (∀ r, (s.cell n).edge = some r → (s.cell n).gqFrozen = false → s.parking (n * 4) = false →
      (∀ t, r.phase = 0 → r.nv ≤ r.vtx → s.edgeKeysOut n = false → s.edgeAdd r.prog (levelCtr (s.cell n).esw.level 0) 1 = .ok t →
        exec (.edgeLevelEnd n) s = .next (t.setCell n { t.cell n with edge := some { r with phase := 1 } })) ∧
      (∀ i a off, (r.phase = 1 ∧ off = levelCtr (s.cell n).esw.level 0) ∨ (r.phase = 2 ∧ off = levelCtr (s.cell n).esw.level 8) →
        s.edgeCount r.prog off = .ok i → s.edgeCount r.prog 8 = .ok a →
        (a = 0 → i < r.prog.g → exec (.edgeLevelEnd n) s = .next s) ∧
        (∀ t, 1 ≤ a → s.edgePost r.prog 0 = .ok t → exec (.edgeLevelEnd n) s = .next (t.edgeStop n 3)))) ∧
    ((s.die n).fq = [] → exec (.encoderTileArrival n) s = .next s) ∧
    (∀ f rest, (s.die n).fq = f :: rest → s.markers = [] →
      ((s.stream n f.stream).closed + 2 ≤ f.frame → exec (.encoderTileArrival n) s = .next s) ∧
      (f.frame < (s.stream n f.stream).closed + 2 → exec (.encoderTileArrival n) s =
        .next ((s.setDie n { s.die n with fq := rest }).setStream n f.stream
          (if ((s.stream n f.stream).atFrame f.frame).tilesY ≤ f.ty ∨ ((s.stream n f.stream).atFrame f.frame).tilesX ≤ f.tx
            then (s.stream n f.stream).count 16 1
           else if (s.stream n f.stream).isClosed f.frame then (s.stream n f.stream).count 48 1
           else { s.stream n f.stream with tiles := (f.frame, f.ty, f.tx, f.data) ::
             (s.stream n f.stream).tiles.filter (fun x => !(x.1 = f.frame && x.2.1 = f.ty && x.2.2.1 = f.tx)) })))) ∧
    (∀ i, i < 8 → (bit (s.stream n i).reg[0] 63 = false → exec (.frameClose n i) s = .next s) ∧
      (bit (s.stream n i).reg[0] 63 = true →
        (s.stream n i).whole (s.stream n i).closed = true ∨ (s.stream n i).deadline (s.stream n i).closed ≤ s.pace.toNat →
        (s.stream n i).early = none →
        ∃ u reg b, exec (.frameClose n i) s = .next u ∧ (u.stream n i).closed = (s.stream n i).closed + 1 ∧
          (u.stream n i).out = (s.stream n i).out ++ [((s.stream n i).closed, reg, (s.stream n i).part, b)] ∧
          (u.stream n i).pend = Vector.replicate 6 none ∧ ∀ x ∈ (u.stream n i).tiles, x.1 ≠ (s.stream n i).closed) ∧
      (∀ l, bit (s.stream n i).reg[0] 63 = true →
        (s.stream n i).whole (s.stream n i).closed = true ∨ (s.stream n i).deadline (s.stream n i).closed ≤ s.pace.toNat →
        (s.stream n i).early = some l → ∃ u, exec (.frameClose n i) s = .next u ∧
          (u.stream n i).closed = (s.stream n i).closed + 2 ∧ (u.stream n i).early = none)) ∧
    (∀ i, (s.stream n i).out = [] → exec (.frameOutput n i) s = .next s) ∧
    (∀ i, (s.stream n i).frozen = true → exec (.frameOutput n i) s = .next s) ∧
    (∀ i f reg part b rest, (s.stream n i).out = (f, reg, part, b) :: rest → (s.stream n i).frozen = false →
      (reg[4] + 8).toNat % 8 = 0 → spaceOf (reg[4] + 8) = .scratch → exec (.frameOutput n i) s =
        .next ((s.setStream n i (({ s.stream n i with out := rest } : Stream).count 32 1)).causeNotice part (czAt 0x21 (reg[4] + 8)) 9 (stopCoord n encoderStop) 0 0)) ∧
    (∀ i f reg part b rest p cb, (s.stream n i).out = (f, reg, part, b) :: rest → (s.stream n i).frozen = false →
      s.unitCounter (stopCoord n encoderStop) part false (reg[4] + 8) = .ok p →
      s.readPlace (4 * stopCoord n encoderStop) p 8 (reg[4] + 8) = .ok cb →
      (ringSize reg[3] + leNat cb < (s.stream n i).produced + b.length →
        exec (.frameOutput n i) s = .next (s.setStream n i (({ s.stream n i with out := rest } : Stream).count 32 1))) ∧
      (∀ u v, (s.stream n i).produced + b.length ≤ ringSize reg[3] + leNat cb →
        s.ringHold n part (BitVec.ofNat 64 (bits reg[3] 55 12 * 4096)) (ringSize reg[3]) (s.stream n i).produced b.length = false →
        s.ringWrite n part (BitVec.ofNat 64 (bits reg[3] 55 12 * 4096)) (ringSize reg[3]) (s.stream n i).produced b = (u, none) →
        (∃ q, u.unitCounter (stopCoord n encoderStop) part true reg[4] = .ok q) → u.post (stopCoord n encoderStop) part false reg[4] b.length = .ok v →
        exec (.frameOutput n i) s =
          .next (v.setStream n i { s.stream n i with out := rest, produced := (s.stream n i).produced + b.length }))) ∧
    (∀ reg (v : Word), (6 ≤ reg % 8 → exec (.encoderStreamWrite n reg v) s = .next s) ∧
      (reg % 8 = 0 → (s.die n).encRefuses (reg / 8 % 8) v = true → exec (.encoderStreamWrite n reg v) s = .next s) ∧
      (0 < reg % 8 → reg % 8 < 5 → ∃ u, exec (.encoderStreamWrite n reg v) s = .next u ∧
        ((s.stream n (reg / 8 % 8)).resting = true → (u.stream n (reg / 8 % 8)).reg[reg % 8]? = some (v &&& encMask (reg % 8))) ∧
        ((s.stream n (reg / 8 % 8)).resting = false → (u.stream n (reg / 8 % 8)).reg = (s.stream n (reg / 8 % 8)).reg ∧
          (u.stream n (reg / 8 % 8)).pend[reg % 8]? = some (some (v &&& encMask (reg % 8))))))

/-! ### Check heats -/

/-- A checking cell is another cell than the original's, in service, and on another die where the partition has one. A
check heat starts on core 0 of it with CHK set; digests that agree free the slot, a third heat tells which of the two
cores erred and its score rises by 32 while the others' fall to 0; after 2^20 completed groups every score falls by 1. -/
def Obligations.HeatSteps : Prop :=
  ∀ (s : State) (part : Nat),
    (∀ orig l c, s.checkCell part orig l = some c → c ∈ (s.part part).cells ∧ c ≠ orig / 4 ∧ c ∉ l ∧ s.validCell c = true ∧
      ((∃ d ∈ (s.part part).cells, d ≠ orig / 4 ∧ d ∉ l ∧ s.validCell d = true ∧ dieOf (4 * d) ≠ dieOf orig) → dieOf (4 * c) ≠ dieOf orig)) ∧
    ((s.part part).checkQ = [] → exec (.checkHeatStart part) s = .next s) ∧
    (∀ i rest r, (s.part part).checkQ = i :: rest → SMap.find (s.part part).slots i = some r →
      ((s.part part).det = true → exec (.checkHeatStart part) s = .next s) ∧
      ((s.part part).thirdQ ≠ [] → exec (.checkHeatStart part) s = .next s) ∧
      ((s.part part).thirdQ = [] → (s.part part).det = false → s.checkCell part r.orig [] = none →
        exec (.checkHeatStart part) s = .next ((s.freeSlotOf part i).heatCount part 0x30)) ∧
      (∀ c, (s.part part).thirdQ = [] → s.checkCell part r.orig [] = some c → (s.cell c).part ≠ some part → exec (.checkHeatStart part) s = .next s) ∧
      (∀ c x, (s.part part).thirdQ = [] → (s.part part).det = false → s.checkCell part r.orig [] = some c → s.runs (4 * c) = true → (s.cell c).part = some part → (s.core (4 * c)).launchQ = [] →
        s.idleCtx (4 * c) = some x → ∃ u, exec (.checkHeatStart part) s = .next u ∧ (u.part part).checkQ = rest ∧
          SMap.find (u.part part).slots i = some { r with checker := some (4 * c) } ∧ (u.ctx (4 * (4 * c) + x)).cs = .ready ∧
          (u.ctx (4 * (4 * c) + x)).st.chk = true ∧ (u.ctx (4 * (4 * c) + x)).task.map (fun t => t.check) = some (some (i, false)))) ∧
    (∀ i, SMap.find (s.part part).slots i = none → exec (.checkVerdict part i) s = .next s) ∧
    (∀ i r, SMap.find (s.part part).slots i = some r →
      let v := s.slotSync 0 part i
      (r.digest2 = none → exec (.checkVerdict part i) s = .next s) ∧
      (r.digest3 = none → r.third.isSome = true ∨ i ∈ (s.part part).thirdQ → exec (.checkVerdict part i) s = .next s) ∧
      (∀ d, r.digest2 = some (some d) → r.digest3 = none → r.third = none → (s.part part).thirdQ = [] → r.digest = some d →
        exec (.checkVerdict part i) s = .next ((v.heatCount part 0x08).freeSlotOf part i)) ∧
      (∀ d y z, r.digest3 = some (some d) → r.checker = some y → r.third = some z →
        (r.digest = some d → (∃ d2, r.digest2 = some d2) → exec (.checkVerdict part i) s =
          .next ((((v.setScore r.orig 0).setScore z 0).raise y 32).freeSlotOf part i)) ∧
        (r.digest ≠ some d → r.digest2 = some (some d) → exec (.checkVerdict part i) s =
          .next ((((v.setScore y 0).setScore z 0).raise r.orig 32).freeSlotOf part i)) ∧
        (∀ d2, r.digest ≠ some d → r.digest2 = some d2 → d2 ≠ some d → exec (.checkVerdict part i) s =
          .next ((v.raise z 8).unresolved part i z r)))) ∧
    (∀ core n, (s.setScore core n).score core = min n 255 ∧ (s.score core + n < 64 → s.raise core n = s.setScore core (s.score core + n))) ∧
    (∀ i, i ∉ (s.part part).thirdQ → exec (.thirdHeatStart part i) s = .next s) ∧
    (∀ i r c x, i ∈ (s.part part).thirdQ → SMap.find (s.part part).slots i = some r →
      s.checkCell part r.orig [r.checker.getD 0 / 4] = some c → (s.part part).det = false → (s.cell c).part = some part → s.runs (4 * c) = true → s.idleCtx (4 * c) = some x →
      ∃ u, exec (.thirdHeatStart part i) s = .next u ∧ (u.ctx (16 * c + x)).cs = .ready ∧ (u.ctx (16 * c + x)).st.chk = true ∧
        (u.ctx (16 * c + x)).task.map (fun t => t.check) = some (some (i, true))) ∧
    (s.completed < 2 ^ 20 → exec .scoreDecay s = .next s) ∧
    (2 ^ 20 ≤ s.completed → ∃ u, exec .scoreDecay s = .next u ∧ u.completed = s.completed - 2 ^ 20 ∧ ∀ c, u.score c = s.score c - 1) ∧
    (∀ v : Word, exec (.heatrWrite part v) s =
      .next (s.setPart part { s.part part with heatr := min (bits v 8 0) 256, heatA := 0 }))

/-! ### Partitions -/

/-- The scheduler takes the least deadline, ties to the lower PARTID. A partition is switched out when it is drained: its
contexts are saved and its cells stand empty; switched in, its contexts are as they were. Firmware creates and removes
partitions, gives a core its rank, and changes the mode of one whose contexts are Idle; a snapshot is latched at the next tick,
and its image advances SEQ. What firmware hands over with a partition is the model's form (logs 63, 101). -/
def Obligations.PartitionSteps : Prop :=
  ∀ (s : State) (part : Nat),
    (∀ l x, leastD l = some x → x ∈ l ∧ ∀ y ∈ l, x.2 < y.2 ∨ (x.2 = y.2 ∧ x.1 ≤ y.1)) ∧
    (∀ ss, ((s.shareSet ss).switching.isSome = true ∨ s.choice (s.shareSet ss) = none ∨
        s.choice (s.shareSet ss) = (s.shareSet ss).current → exec (.shareSetChoice ss) s = .next s) ∧
      (∀ q, (s.shareSet ss).switching = none → s.choice (s.shareSet ss) = some q → (s.shareSet ss).current ≠ some q →
        exec (.shareSetChoice ss) s = .next (s.setShare ss { s.shareSet ss with switching := some (q, (s.shareSet ss).current.isNone) }))) ∧
    ((s.part part).share = none → exec (.budgetPeriodStart part) s = .next s ∧ exec (.switchOut part) s = .next s ∧ exec (.switchIn part) s = .next s) ∧
    (∀ ss, (s.part part).share = some ss →
      (s.pace.toNat < (s.part part).period0 + budPeriod (s.part part).budg → exec (.budgetPeriodStart part) s = .next s) ∧
      (budPeriod (s.part part).budg ≠ 0 → (s.part part).period0 + budPeriod (s.part part).budg ≤ s.pace.toNat →
        exec (.budgetPeriodStart part) s = .next (s.setPart part { s.part part with
          period0 := (s.part part).period0 + budPeriod (s.part part).budg
          remain := budBudget (s.part part).budg })) ∧
      (s.drained (s.part part) = false → exec (.switchOut part) s = .next s) ∧
      (∀ q, s.drained (s.part part) = true → (s.shareSet ss).switching = some (q, false) → (s.shareSet ss).current = some part →
        ∃ u, exec (.switchOut part) s = .next u ∧ (u.shareSet ss).switching = some (q, true) ∧ (u.shareSet ss).current = none ∧
          (u.part part).saved.isSome = true ∧ ∀ k ∈ (s.part part).keys, u.ctx k = Ctx.reset) ∧
      ((s.shareSet ss).switching ≠ some (part, true) → exec (.switchIn part) s = .next s) ∧
      (∀ w, (s.shareSet ss).switching = some (part, true) → (s.part part).saved = some w →
        ((s.part part).areas.any (fun a => s.memEcc.failing a areaSize) = true → ∃ u, exec (.switchIn part) s = .next u ∧
          (u.shareSet ss).switching = none ∧ (u.part part).saved = some w ∧ u.notices.length = s.notices.length + 1) ∧
        ((s.part part).areas.any (fun a => s.memEcc.failing a areaSize) = false →
          (∀ c ∈ (s.part part).cells, SMap.get (s.cell c).holding [] part = []) → (w.ctxs.map Prod.fst).Nodup →
          ∃ u, exec (.switchIn part) s = .next u ∧ (u.shareSet ss).current = some part ∧ (u.shareSet ss).switching = none ∧
            (u.part part).saved = none ∧ (∀ c ∈ (s.part part).cells, (u.cell c).part = some part) ∧
            ∀ e ∈ w.ctxs, u.ctx e.1 = e.2.unpark))) ∧
    (∀ x : Ctx, (x.cs = .ready ∨ x.cs = .held ∨ ∃ w, x.cs = .blocked w) → x.park.unpark.cs = x.cs ∧ x.park.unpark.watch = [] ∧
      x.park.unpark.sreg = x.sreg ∧ x.park.unpark.vreg = x.vreg ∧ x.park.unpark.pc = x.pc ∧ x.park.unpark.st = x.st) ∧
    (∀ det ss cells desc pins binds,
      let r := pins.foldl (fun t w => t.setPins w) s
      (s.boot = 8 → (s.part part).live = true → (s.part part).cells = cells →
        exec (.partitionCreate part det ss cells ⟨desc, pins, binds⟩) s = .next ((s.changeMode part (det ≠ 0)).bind part binds)) ∧
      ((s.part part).live = false → r.mayCreate part (det ≠ 0) ss cells desc = false →
        exec (.partitionCreate part det ss cells ⟨desc, pins, binds⟩) s = .next s) ∧
      ((s.part part).live = false → r.mayCreate part (det ≠ 0) ss cells desc = true →
        ∃ u, exec (.partitionCreate part det ss cells ⟨desc, pins, binds⟩) s = .next u ∧
        (u.part part).live = true ∧ (u.part part).det = decide (det ≠ 0) ∧ (u.part part).cells = cells ∧
        (∀ i : Fin 8, (u.part part).desc[i] = desc.getD i.val 0) ∧ (u.part part).dir = [] ∧ (u.part part).graph = none ∧
        (u.part part).nranks = min (4 * cells.length) (u.part part).rankLen ∧ u.bindings = (r.bind part binds).bindings ∧
        (ss = 0 → ∀ c ∈ cells, (u.cell c).part = some part))) ∧
    (∀ det, (s.allIdle part = false → s.changeMode part det = s) ∧
      (s.allIdle part = true → s.changeMode part false = s.setPart part { s.part part with det := false })) ∧
    ((s.part part).live = false → exec (.partitionRemoval part) s = .next s) ∧
    ((s.part part).live = true → ∃ u, exec (.partitionRemoval part) s = .next u ∧ u.part part = Part.reset ∧ u.mem = s.mem ∧
      (∀ c ∈ (s.part part).cells, (s.cell c).part = some part → (u.cell c).part = none) ∧
      u.bindings = s.bindings.filter (fun b => b.part ≠ part)) ∧
    (∃ u, exec .snapshotTrigger s = .next u ∧ u.mem = s.mem ∧ u.extSnap = some (s.extSnap.getD (s.pace.toNat + 1))) ∧
    (∀ t, (s.part part).snapT = some t → part < 64 → (s.pace.toNat < t → exec (.snapshotLatch part) s = .next s) ∧
      (t ≤ s.pace.toNat → ∃ u b, exec (.snapshotLatch part) s = .next u ∧ (u.part part).snapT = none ∧ (u.part part).image = some b ∧
        b.take 8 = leBytes 8 t)) ∧
    ((s.part part).snapT = none → part < 64 → exec (.snapshotLatch part) s = .next s) ∧
    ((s.part part).image = none → exec (.snapshotImageDone part) s = .next s) ∧
    (∀ b, (s.part part).image = some b →
      (s.partHold ((s.part part).cells.headD 0 / 8192) part (s.part part).snapBuf b.length).isSome = true →
      exec (.snapshotImageDone part) s = .next s) ∧
    (∀ b t, (s.part part).image = some b →
      s.partHold ((s.part part).cells.headD 0 / 8192) part (s.part part).snapBuf b.length = none →
      s.partStore ((s.part part).cells.headD 0 / 8192) part (s.part part).snapBuf b = (t, none) →
      ∃ u, exec (.snapshotImageDone part) s = .next u ∧ u.mem = t.mem ∧ (u.part part).image = none ∧
        bits (u.part part).snapctl 3 0 = (bits (s.part part).snapctl 3 0 + 1) % 16)

/-! ### The host and the management core -/

/-- A host with the right has its request done; one without it is frozen, the partition's supervisor is told and the reply
is 0x25; a frozen agent's requests are not performed; a write waits behind operations that precede it. A management request
joins firmware's queue, and its step performs the oldest: firmware's functions, of which a supervisor may make some for its own
partition alone; a module whose bring-up is held reports its failure instead, and an image is accepted only under the fused root
key and from the fused version on. Reset and the loss of power leave the fuses, the image and the attestation counter. -/
def Obligations.HostSteps : Prop :=
  ∀ (s : State) (host tag part : Nat) (va : Word),
    (∀ i, i ∈ [Instr.hostLaunch host tag part va [], .hostRead host tag part va 8, .hostWrite host tag part va [], .hostBiasFlip host tag part va 0] →
      s.hostQ = [] →
      (s.boot < 4 ∨ host ∈ s.frozenHosts → exec i s = .next s) ∧
      (4 ≤ s.boot → s.boot ≠ 8 → host ∉ s.frozenHosts → ∃ u st, exec i s = .next u ∧ u.mem = s.mem ∧ u.frozenHosts = s.frozenHosts ∧
        u.replies = s.replies ++ [{ host := host, tag := tag, status := st, data := [] }]) ∧
      (s.boot = 8 → host ∉ s.frozenHosts → s.bindings.all (fun b => b.host ≠ host) = true → ∃ u, exec i s = .next u ∧
        host ∈ u.frozenHosts ∧ u.mem = s.mem ∧ u.replies = s.replies ++ [{ host := host, tag := tag, status := 0x25, data := [] }])) ∧
    (s.boot = 8 → host ∉ s.frozenHosts →
      (∀ hdr, s.right host part (fun b => b.launch) = true → hostMbox va = none → hdr.length = 8 → exec (.hostLaunch host tag part va hdr) s =
        .next { s with hwMsgs := s.hwMsgs ++ [{ mbox := va, start := 0, hdr := hdr, part := part, kind := 2, sender := host, task := tag }] }) ∧
      (∀ n, s.right host part (fun b => b.read) = true → s.hostQ.any (fun r => r.host = host) = false →
        (n < 8 ∨ 256 < n → exec (.hostRead host tag part va n) s = .next (s.reply host tag 0x02 [])) ∧
        (∀ b, 8 ≤ n → n ≤ 256 → s.partRead part va n = .ok b → exec (.hostRead host tag part va n) s =
          .next ((s.partTouch part va n).reply host tag 0 b)) ∧
        (∀ c, 8 ≤ n → n ≤ 256 → s.partRead part va n = .error c → exec (.hostRead host tag part va n) s =
          .next (if c.code = 0x25 then s.violation host tag part else s.reply host tag c.code.toNat []))) ∧
      (∀ data : List Byte, s.right host part (fun b => b.write) = true → s.hostQ.any (fun r => r.host = host) = false →
        ((s.partHold 0 part va data.length).isSome = true → exec (.hostWrite host tag part va data) s = .next { s with
          hostQ := s.hostQ ++ [{ host := host, tag := tag, part := part, va := va, size := data.length, data := some data }] }) ∧
        (s.partHold 0 part va data.length = none →
          (data.length < 8 ∨ 256 < data.length → exec (.hostWrite host tag part va data) s = .next (s.reply host tag 0x02 [])) ∧
          (∀ c, 8 ≤ data.length → data.length ≤ 256 → s.writeCause part va.toNat (va.toNat + data.length) va data.length = some c →
            exec (.hostWrite host tag part va data) s =
              .next (if c.code = 0x25 then s.violation host tag part else s.reply host tag c.code.toNat [])) ∧
          (8 ≤ data.length → data.length ≤ 256 → s.writeCause part va.toNat (va.toNat + data.length) va data.length = none →
            exec (.hostWrite host tag part va data) s = .next ((s.partStore 0 part va data).1.reply host tag 0 [])))) ∧
      (∀ hb, s.right host part (fun b => b.flip) = true →
        (bits va 55 16 = 0 → exec (.hostBiasFlip host tag part va hb) s = .next (s.reply host tag 0x21 []) ∧
          (s.bootHeld = false → host < 4096 → s.mgmtFlip host tag part (va &&& 0x00FFFFFFFFFF0000) = s.answer host tag 5 0x21 [])) ∧
        ((s.flip part (va &&& 0x00FFFFFFFFFF0000) (decide (hb % 2 = 1))).1 = 0x25 → exec (.hostBiasFlip host tag part va hb) s =
          .next (s.violation host tag part)) ∧
        (∃ u, exec (.hostBiasFlip host tag part va hb) s = .next u ∧ u.replies.length = s.replies.length + 1)) ∧
      (s.bootHeld = false → host < 4096 →
        (∀ nonce, s.right host part (fun _ => true) = true →
          (2 ^ 20 ≤ s.hss → s.attest host tag part nonce = s.answer host tag 1 0x59 []) ∧
          (s.hss < 2 ^ 20 → (s.attest host tag part nonce).hss = s.hss + 1 ∧ s.replies.length < (s.attest host tag part nonce).replies.length)) ∧
        (∀ arg, (bits arg 37 18 ≠ 0 ∨ bits arg 15 0 % 8 ≠ 0 → s.configRead host tag part arg = s.answer host tag 4 0x02 []) ∧
          (bits arg 37 18 = 0 → bits arg 15 0 % 8 = 0 → s.configRead host tag part arg = s.answer host tag 4 0
            ((List.range (bits arg 17 16 + 1)).map (fun i => capabilityWord s.hss (bits arg 15 0 + 8 * i))))) ∧
        (∀ (arg : BitVec 38) (mbox target : Word), s.right host part (fun b => b.launch) = true → bits arg 37 1 = 0 → bits target 45 0 = 0 →
          (bits target 63 52 = s.modNum → s.right host (bits target 51 46) (fun b => b.launch) = false →
            s.forwardSet host tag part arg mbox target = s.violation host tag (bits target 51 46)) ∧
          (bits target 63 52 ≠ s.modNum →
            (bit arg 0 = false → ((s.forwardSet host tag part arg mbox target).part part).forward mbox = none) ∧
            (bit arg 0 = true → (s.part part).bound mbox = none → mbox.toNat % 64 = 0 → spaceOf mbox = .translated →
              (s.part part).dir.length + (s.part part).fwd.length < 4096 →
              ((s.forwardSet host tag part arg mbox target).part part).forward mbox = some (bits target 63 52, bits target 51 46)))))) ∧
    (host ∉ s.frozenHosts → host < 4096 → part < 64 →
      (∀ nonce, exec (.attestation host tag part nonce) s =
        .next { s with mgmt := s.mgmt ++ [{ host := host, tag := tag, words := mgmtWord 1 part 0 :: nonce }] }) ∧
      (∀ port, port ≠ 0 → s.boot < 7 → (∀ off data, exec (.recoveryImageChunk ⟨host, tag, port⟩ ⟨off, data⟩) s = .next s) ∧
        ∀ len, exec (.recoveryImageEnd ⟨⟨host, tag, port⟩, len⟩) s = .next s) ∧
      (∀ off (data : List Byte), exec (.recoveryImageChunk ⟨host, tag, 0⟩ ⟨off, data⟩) s = .next { s with mgmt := s.mgmt ++
        [{ host := host, tag := tag, words := mgmtWord 2 0 (BitVec.ofNat 38 off) :: leWords ((data.length + 7) / 8) data }] }) ∧
      (∀ len, exec (.recoveryImageEnd ⟨⟨host, tag, 0⟩, len⟩) s =
        .next { s with mgmt := s.mgmt ++ [{ host := host, tag := tag, words := [mgmtWord 3 0 (BitVec.ofNat 38 len)] }] }) ∧
      (∀ arg, exec (.configurationRead host tag part arg) s =
        .next { s with mgmt := s.mgmt ++ [{ host := host, tag := tag, words := [mgmtWord 4 part arg] }] }) ∧
      (∀ hb, exec (.mgmtBiasFlip host tag part va hb) s = .next { s with mgmt := s.mgmt ++
        [{ host := host, tag := tag, words := [mgmtWord 5 part 0, (va &&& ~~~1) ||| BitVec.ofNat 64 (hb % 2)] }] }) ∧
      (∀ arg mbox target, exec (.mailboxForward host tag part arg mbox target) s =
        .next { s with mgmt := s.mgmt ++ [{ host := host, tag := tag, words := [mgmtWord 6 part arg, mbox, target] }] })) ∧
    (part < 64 → host < 4096 → ∀ words t, s.mgmt = { host := host, tag := tag, words := words } :: t →
      let r : State := { s with mgmt := t }
      (∀ nonce, nonce.length = 4 → words = mgmtWord 1 part 0 :: nonce → s.mgmtStep = .next (r.attest host tag part nonce)) ∧
      (∀ off l, off < 2 ^ 38 → words = mgmtWord 2 0 (BitVec.ofNat 38 off) :: l → s.mgmtStep = .next (r.recoveryChunk host tag off (wordBytes l))) ∧
      (∀ len, len < 2 ^ 38 → words = [mgmtWord 3 0 (BitVec.ofNat 38 len)] → s.mgmtStep = .next (r.recoveryEnd host tag len)) ∧
      (∀ arg, words = [mgmtWord 4 part arg] → s.mgmtStep = .next (r.configRead host tag part arg)) ∧
      (∀ d, words = [mgmtWord 5 part 0, d] → s.mgmtStep = .next (r.mgmtFlip host tag part d)) ∧
      (∀ arg mbox target, words = [mgmtWord 6 part arg, mbox, target] → s.mgmtStep = .next (r.forwardSet host tag part arg mbox target))) ∧
    (s.failed = false → ∀ w rest t, s.mgmt = { host := host, tag := tag, words := w :: rest } :: t →
      let r : State := { s with mgmt := t }
      (bits w 47 44 ≠ 0 ∨ 8 ≤ bits w 63 48 ∨ bits w 63 48 = 0 → s.mgmtStep = .next (r.answer host tag (bits w 63 48) 0x02 [])) ∧
      (4096 ≤ host → bits w 47 44 = 0 →
        (bits w 63 48 ∈ [1, 2, 3, 6] → s.mgmtStep = .next (r.answer host tag (bits w 63 48) 0x03 [])) ∧
        (bits w 63 48 ∈ [4, 5, 7] → bits w 43 38 ≠ host - 4096 → s.mgmtStep = .next (r.answer host tag (bits w 63 48) 0x25 [])))) ∧
    (s.failed = true → host < 4096 → ∀ w rest t, s.mgmt = { host := host, tag := tag, words := w :: rest } :: t →
      bits w 63 48 ∈ [1, 4, 5, 6, 7] → ∃ u st, s.mgmtStep = .next u ∧ u.replies = s.replies ++ [{ host := host, tag := tag, status := st, data := [] }]) ∧
    (∃ u, exec .reset s = .next u ∧ u.power = true ∧ (u.boot = 3 ∧ u.bootHeld = false ∨ u.boot = 2 ∧ u.bootHeld = true) ∧ u.mem = [] ∧ u.ctxs = [] ∧
      u.parts = [] ∧ u.pace = 0 ∧ u.image = s.image ∧ u.hss = s.hss ∧ u.disabled = s.disabled ∧ u.fuses = s.fuses) ∧
    (∃ u, exec .powerLoss s = .next u ∧ u.power = false ∧ u.mem = [] ∧ u.ctxs = [] ∧ u.parts = [] ∧ u.image = s.image ∧ u.hss = s.hss ∧ u.fuses = s.fuses) ∧
    (s.failed = true → s.boot ≠ 4 → ∀ off data len, s.recoveryChunk host tag off data = s.report host tag ∧ s.recoveryEnd host tag len = s.report host tag) ∧
    (s.failed = false → ∀ off data len, s.recoveryChunk host tag off data = s.answer host tag 2 0x02 [] ∧
      s.recoveryEnd host tag len = s.answer host tag 3 0x02 []) ∧
    (∀ b, s.fuses.accepts b = true ↔ Config.sha256 (Config.imageKey b) = s.fuses.rootHash ∧ Config.imageSigned b = true ∧
      s.fuses.minVersion.toNat ≤ (Config.imageVersion b).toNat) ∧
    (s.boot = 4 → s.bootHeld = true → host < 4096 →
      (∀ off (data : List Byte), data.length = 256 → off < 2 ^ 16 → s.recoveryChunk host tag off data =
        ({ s with recovery := SMap.set s.recovery off data } : State).reply host tag 0 []) ∧
      (∀ len, (len > 2 ^ 24 ∨ recovered s.recovery 0 ((len + 255) / 256) = none → (s.recoveryEnd host tag len).recovery = [] ∧
          (s.recoveryEnd host tag len).image = s.image ∧ (s.recoveryEnd host tag len).boot = 4) ∧
        ∀ b, len ≤ 2 ^ 24 → recovered s.recovery 0 ((len + 255) / 256) = some b → (s.recoveryEnd host tag len).recovery = [] ∧
          (s.fuses.accepts (b.take len) = false → (s.recoveryEnd host tag len).image = s.image ∧ (s.recoveryEnd host tag len).boot = 4) ∧
          (s.fuses.accepts (b.take len) = true → (s.recoveryEnd host tag len).image = b.take len)))

/-! ### Every instruction, traps, and the step -/

/-- No instruction stops the machine: each answers a next state. A word whose fields its tables do not assign traps with
0x02; a zero halfword traps with 0x00 and a word of a reserved major with 0x01. -/
def Obligations.NoInstructionStops : Prop :=
  (∀ (i : Instr) (s : State), ∃ t, exec i s = .next t) ∧
  (∀ (i : Instr) (s : State), i.isWord = true → i.wellFormed = false → (∀ n, i ≠ .repb n) → (∀ a b, i ≠ .mmaR a b) → (∀ w, i ≠ .reservedMajor w) →
    exec i s = .next (s.stopped (.trap (cz 0x02)))) ∧
  (∀ (s : State) (w : BitVec 32), exec .zeroWord s = .next (s.stopped (.trap (cz 0x00))) ∧
    exec (.reservedMajor w) s = .next (s.stopped (.trap (cz 0x01)))) ∧
  decodeTableWord 16 0 = some .zeroWord ∧
  (∀ w : BitVec 32, w.getLsbD 0 = true → (bits w 6 1 = 0 ∨ 45 ≤ bits w 6 1) → decodeTableWord 32 w.toNat = some (.reservedMajor w))

/-- Taking an exception: EPC takes the address of the word and CAUSE the cause; PPRIV and PAIE take PRIV and AIE, PRIV
becomes 1 and AIE 0, and the context goes on at TVEC. "Partition mismatch" freezes the context with EPC and tells the
supervisor; a trap at PRIV 1 with AIE 0 is a double trap that freezes it and tells firmware. No other context and no byte
changes. A word that traps while vector words of its context are still queued waits for them first, and then executes again. -/
def Obligations.TrapEntry : Prop :=
  ∀ (s : State) (k : Nat) (epc : Word) (c : CauseRec) (src : BitVec 4) (g : BitVec 3), (s.ctx k).st.chk = false →
    (c.code ≠ 0x25 → ¬ ((s.ctx k).st.priv = 1 ∧ (s.ctx k).st.aie = false) → ∃ x, s.takeTrap k epc c src g = { s.setCtx k x with trapTag := some (c, k) } ∧
      x.epc = epc ∧ x.cause = causeWord c src (BitVec.ofNat 18 (k / 4)) g ∧ x.pc = (s.ctx k).tvec ∧ x.cs = .ready ∧ x.st.priv = 1 ∧ x.st.aie = false ∧
      x.st.ppriv = (s.ctx k).st.priv ∧ x.st.paie = (s.ctx k).st.aie ∧ x.st.frm = (s.ctx k).st.frm ∧ x.st.flags = (s.ctx k).st.flags ∧
      x.sreg = (s.ctx k).sreg ∧ x.vreg = (s.ctx k).vreg ∧ x.mreg = (s.ctx k).mreg ∧ x.ereg = (s.ctx k).ereg ∧ x.tvec = (s.ctx k).tvec ∧
      x.loops = (s.ctx k).loops ∧ x.apend = (s.ctx k).apend ∧ x.task = (s.ctx k).task) ∧
    (c.code = 0x25 → ∃ u, s.takeTrap k epc c src g = u ∧ (u.ctx k).cs = .frozen ∧ (u.ctx k).epc = epc ∧ (u.ctx k).sreg = (s.ctx k).sreg ∧
      (u.ctx k).cause = (s.ctx k).cause ∧ (u.ctx k).st = (s.ctx k).st ∧ (∀ j, j ≠ k → u.ctx j = s.ctx j) ∧ SameBytes s u ∧
      u.notices.length + u.hwMsgs.length = s.notices.length + s.hwMsgs.length + 1) ∧
    (c.code ≠ 0x25 → (s.ctx k).st.priv = 1 → (s.ctx k).st.aie = false → ∃ u, s.takeTrap k epc c src g = u ∧ (u.ctx k).cs = .frozen ∧
      (u.ctx k).epc = epc ∧ (u.ctx k).cause = (s.ctx k).cause ∧ (∀ j, j ≠ k → u.ctx j = s.ctx j) ∧ SameBytes s u ∧
      ∃ w, u.notices = s.notices ++ [(s.partOf (k / 4), w)] ∧
        w.getD 0 0 = causeWord { c with code := 0x58 } src (BitVec.ofNat 18 (k / 4)) g) ∧
    (s.vbusy s.cur = false → s.stopped (.trap c) = s.takeTrap s.cur s.cx.pc c 0 0) ∧
    (s.vbusy s.cur = true → s.stopped (.trap c) = s.block .precise) ∧
    (s.waitMet k .precise = !s.vbusy k)

/-- A step in a core's turn takes the Ready context that issued longest ago, fetches the word at its program counter and
decodes it by its length; the decoded word of a context alone is executed, one of whose registers is pending blocks, and
a word that cannot be fetched or decoded traps at its address, once the context's vector words are done. The fetch
sees no byte written after the context's last taken branch or jump, and after the next one every byte (that "causally after" is
taken as performed before is the model's, log 118). A step whose turn is an event performs the event. -/
def Obligations.StepRunsWord : Prop :=
  (∀ (s u : State) (core k : Nat) (rest : List Turn),
    s.power = true → s.turns = .issue core :: rest → (s.core core).issues ≤ s.clock → ({ s with turns := rest } : State).turnOf core = some k →
    (s.ctx k).cs = .ready → (s.ctx k).deferred = none → (s.ctx k).interrupted = false → (s.ctx k).seqr = none →
    u = { ({ s with turns := rest } : State).issued k true with cur := k, trapTag := none } →
    (∃ w r, u.ctx k = { s.ctx k with lastIssue := s.clock + 1, watch := w, reasons := r }) ∧ u.mem = s.mem ∧ u.turns = rest ∧ u.cur = k ∧
    (∀ i, u.fetchInstr k (s.ctx k).pc = .ok i → (s.ctx k).gang = none →
      step s = if (s.ctx k).pending i then .next (u.block (.regs (scalarRegs i))) else exec i (u.refetch k i)) ∧
    (∀ c, u.fetchInstr k (s.ctx k).pc = .error c →
      (u.vbusy k = false → step s = .next ((u.disband k).takeTrap k (s.ctx k).pc c 0 0)) ∧
      (u.vbusy k = true → step s = .next (u.setCtx k { u.ctx k with cs := .blocked .precise })))) ∧
  (∀ (s : State) (k : Nat) (va : Word) (lo hi : BitVec 16), va.getLsbD 0 = false → s.fetchHalf k va = .ok lo →
    (∀ i, lo.getLsbD 0 = false → decodeTableWord 16 lo.toNat = some i → s.fetchInstr k va = .ok i) ∧
    (∀ i, lo.getLsbD 0 = true → s.fetchHalf k (va + 2) = .ok hi → decodeTableWord 32 (hi ++ lo).toNat = some i → s.fetchInstr k va = .ok i) ∧
    (lo.getLsbD 0 = true → s.fetchHalf k (va + 2) = .ok hi → decodeTableWord 32 (hi ++ lo).toNat = none → s.fetchInstr k va = .error (cz 0x02))) ∧
  (∀ (s : State) (k : Nat) (i : Instr), ((s.ctx k).takes i = false → s.refetch k i = s) ∧
    ((s.ctx k).takes i = true → (s.refetch k i).ctx k = { s.ctx k with seen := s.wroteNum } ∧ (s.refetch k i).mem = s.mem)) ∧
  (∀ (s : State) (n key pa : Nat), (∀ w ∈ s.wrote, w.num < n) → s.fetchByte n key pa = s.byteAt key pa) ∧
  (∀ (s : State) (n key pa at' : Nat) (b : Byte), s.Inv → (∀ w ∈ s.wrote, w.num < s.wroteNum) → n ≤ s.wroteNum →
    (s.putByte key at' b).fetchByte n key pa = s.fetchByte n key pa) ∧
  (∀ (s : State) (i : Instr) (rest : List Turn), s.power = true → s.turns = .event i :: rest →
    step s = if i.isWord then .next { s with turns := rest } else exec i { s with turns := rest })

/-- Words that the spec writes out decode to the instructions it gives them for. -/
def Obligations.DecodesSpecWords : Prop :=
  decodeTableWord 32 0x000E6283 = some (.add 5 6 7) ∧ decodeTableWord 32 0xF20E6283 = some (.sel 5 6 7 8) ∧
  decodeTableWord 32 0x00020713 = some (.addpc 14 32) ∧ decodeTableWord 32 0x30149415 = some (.div 8 9 10 0) ∧
  decodeTableWord 32 0x70549419 = some (.fcmp 8 9 10 1) ∧ decodeTableWord 32 0x6020C69D = some (.ld 13 12 16 3) ∧
  decodeTableWord 32 0xFFD28E2D = some (.bltu 8 9 0x7FFC) ∧ decodeTableWord 32 0x00109037 = some (.loop 9 8) ∧
  decodeTableWord 32 0x384A41B9 = some (.amo 3 4 5 0 2 3 1) ∧ decodeTableWord 32 0x0414943B = some (.acas 8 9 10 0 1 0) ∧
  decodeTableWord 32 0x0C0E62BF = some (.cadd 5 6 6 7) ∧ decodeTableWord 32 0x184C5241 = some (.vfma 4 5 6 1) ∧
  decodeTableWord 32 0x900C50C3 = some (.vcmpLe 1 5 6 0 0) ∧ decodeTableWord 32 0x0000A0C5 = some (.vld 1 10 0 0) ∧
  decodeTableWord 32 0x00128549 = some (.cpy 10 8 9 0) ∧ decodeTableWord 32 0x100E62CB = some (.carsub 5 6 7) ∧
  decodeTableWord 32 0x6006244D = some (.pxout 8 2 3) ∧ decodeTableWord 32 0x2016A04F = some (.krbin 10 11) ∧
  decodeTableWord 32 0x03CC5051 = some (.xmit 5 6 15) ∧ decodeTableWord 32 0x001CB053 = some (.spawn 0 11 14) ∧
  decodeTableWord 32 0x441C2C55 = some (.exti 0 0x41C2 3) ∧ decodeTableWord 32 0x104002D7 = some (.digrd 5 1) ∧
  decodeTableWord 32 0x218002D9 = some (.sysrd 5 6)

/-- Decoding is the inverse of encoding: every well-formed word, with every operand, decodes to itself from its own
halfwords, whatever follows them; no bit of an encoding is dropped. -/
def Obligations.DecodeOfEncode : Prop :=
  ∀ (i : Instr) (rest : List (BitVec 16)), i.isWord = true → i.wellFormed = true → encode i ≠ [] ∧ decode (encode i ++ rest) = some (i, rest)

/-- The memory keeps its canonical form in every step: its addresses rise and no listed byte is what an unlisted one reads
as. -/
def Obligations.StepKeepsInvariant : Prop :=
  ∀ s t : State, s.Inv → step s = .next t → t.Inv

/-- The module right after reset: powered, at step 1 of bring-up, its pace count 0 and no partition; memory lists nothing,
so the invariant holds; a context is Idle at user level with AIE set, and PROMX is 4. -/
def Obligations.ResetState : Prop :=
  State.reset.Inv ∧ State.reset.power = true ∧ State.reset.boot = 1 ∧ State.reset.pace = 0 ∧ State.reset.mem = [] ∧
  (∀ p, (State.reset.part p).live = false ∧ (State.reset.part p).promx = 4) ∧
  (∀ k, (State.reset.ctx k).cs = .idle ∧ (State.reset.ctx k).st = Status.reset ∧ (State.reset.ctx k).st.priv = 0 ∧ (State.reset.ctx k).st.aie = true ∧
    (State.reset.ctx k).opstop = 0x3B800000) ∧
  (∀ c, (State.reset.core c).waym = 0) ∧ State.reset.disabled.length = 960

end
end

