-- ==== Sys2Proof/Laws/Decode.lean ====
section
/-! SUPPORT. Laws of the fields of a word: reading a field of a word that is made of fields gives the field. And what the
updates of a context leave of it. -/

namespace Sys2Proof

@[simp] theorem wF_mkWord (f : BitVec 10) (b a d : BitVec 5) (m : BitVec 6) : wF (mkWord f b a d m) = f := by
  apply BitVec.eq_of_getLsbD_eq
  intro i hi
  simp only [wF, mkWord, BitVec.getLsbD_extractLsb', BitVec.getLsbD_append, hi, decide_true, Bool.true_and]
  (repeat' split) <;> first | omega | (congr 1; omega)

@[simp] theorem wB_mkWord (f : BitVec 10) (b a d : BitVec 5) (m : BitVec 6) : wB (mkWord f b a d m) = b := by
  apply BitVec.eq_of_getLsbD_eq
  intro i hi
  simp only [wB, mkWord, BitVec.getLsbD_extractLsb', BitVec.getLsbD_append, hi, decide_true, Bool.true_and]
  (repeat' split) <;> first | omega | (congr 1; omega)

@[simp] theorem wA_mkWord (f : BitVec 10) (b a d : BitVec 5) (m : BitVec 6) : wA (mkWord f b a d m) = a := by
  apply BitVec.eq_of_getLsbD_eq
  intro i hi
  simp only [wA, mkWord, BitVec.getLsbD_extractLsb', BitVec.getLsbD_append, hi, decide_true, Bool.true_and]
  (repeat' split) <;> first | omega | (congr 1; omega)

@[simp] theorem wD_mkWord (f : BitVec 10) (b a d : BitVec 5) (m : BitVec 6) : wD (mkWord f b a d m) = d := by
  apply BitVec.eq_of_getLsbD_eq
  intro i hi
  simp only [wD, mkWord, BitVec.getLsbD_extractLsb', BitVec.getLsbD_append, hi, decide_true, Bool.true_and]
  (repeat' split) <;> first | omega | (congr 1; omega)

@[simp] theorem wMajor_mkWord (f : BitVec 10) (b a d : BitVec 5) (m : BitVec 6) : wMajor (mkWord f b a d m) = m := by
  apply BitVec.eq_of_getLsbD_eq
  intro i hi
  simp only [wMajor, mkWord, BitVec.getLsbD_extractLsb', BitVec.getLsbD_append, hi, decide_true, Bool.true_and]
  (repeat' split) <;> first | omega | (congr 1; omega)

/-- The two halfwords of a word make the word again. -/
@[simp] theorem word_of_halves (w : BitVec 32) : w.extractLsb' 16 16 ++ w.extractLsb' 0 16 = w := by
  apply BitVec.eq_of_getLsbD_eq
  intro i hi
  simp only [BitVec.getLsbD_extractLsb', BitVec.getLsbD_append]
  split
  · rename_i h; simp only [h, decide_true, Bool.true_and]; congr 1; omega
  · rw [show 16 + (i - 16) = i by omega, show decide (i - 16 < 16) = true by simpa using (by omega : i - 16 < 16), Bool.true_and]

@[simp] theorem fFn_append (n : BitVec 4) (j : BitVec 6) : fFn (n ++ j) = n := by
  apply BitVec.eq_of_getLsbD_eq
  intro i hi
  simp only [fFn, BitVec.getLsbD_extractLsb', BitVec.getLsbD_append, hi, decide_true, Bool.true_and]
  split <;> first | omega | (congr 1; omega)

@[simp] theorem fImm_append (n : BitVec 4) (j : BitVec 6) : fImm (n ++ j) = j := by
  apply BitVec.eq_of_getLsbD_eq
  intro i hi
  simp only [fImm, BitVec.getLsbD_extractLsb', BitVec.getLsbD_append, hi, decide_true, Bool.true_and]
  split <;> first | omega | (congr 1; omega)

@[simp] theorem fHi_ew (v : BitVec 5) (e : BitVec 2) (k : BitVec 3) : fHi (v ++ e ++ k) = v := by
  apply BitVec.eq_of_getLsbD_eq
  intro i hi
  simp only [fHi, BitVec.getLsbD_extractLsb', BitVec.getLsbD_append, hi, decide_true, Bool.true_and]
  (repeat' split) <;> first | omega | (congr 1; omega)

@[simp] theorem fEw_ew (v : BitVec 5) (e : BitVec 2) (k : BitVec 3) : fEw (v ++ e ++ k) = e := by
  apply BitVec.eq_of_getLsbD_eq
  intro i hi
  simp only [fEw, BitVec.getLsbD_extractLsb', BitVec.getLsbD_append, hi, decide_true, Bool.true_and]
  (repeat' split) <;> first | omega | (congr 1; omega)

@[simp] theorem fMk_ew (v : BitVec 5) (e : BitVec 2) (k : BitVec 3) : fMk (v ++ e ++ k) = k := by
  apply BitVec.eq_of_getLsbD_eq
  intro i hi
  simp only [fMk, BitVec.getLsbD_extractLsb', BitVec.getLsbD_append, hi, decide_true, Bool.true_and]
  (repeat' split) <;> first | omega | (congr 1; omega)

@[simp] theorem fHi_append (u v : BitVec 5) : fHi (u ++ v) = u := by
  apply BitVec.eq_of_getLsbD_eq
  intro i hi
  simp only [fHi, BitVec.getLsbD_extractLsb', BitVec.getLsbD_append, hi, decide_true, Bool.true_and]
  (repeat' split) <;> first | omega | (congr 1; omega)

@[simp] theorem fLo_append (u v : BitVec 5) : fLo (u ++ v) = v := by
  apply BitVec.eq_of_getLsbD_eq
  intro i hi
  simp only [fLo, BitVec.getLsbD_extractLsb', BitVec.getLsbD_append, hi, decide_true, Bool.true_and]
  (repeat' split) <;> first | omega | (congr 1; omega)

@[simp] theorem iHi_append (u v : BitVec 3) : iHi (u ++ v) = u := by
  apply BitVec.eq_of_getLsbD_eq
  intro i hi
  simp only [iHi, BitVec.getLsbD_extractLsb', BitVec.getLsbD_append, hi, decide_true, Bool.true_and]
  (repeat' split) <;> first | omega | (congr 1; omega)

@[simp] theorem iLo_append (u v : BitVec 3) : iLo (u ++ v) = v := by
  apply BitVec.eq_of_getLsbD_eq
  intro i hi
  simp only [iLo, BitVec.getLsbD_extractLsb', BitVec.getLsbD_append, hi, decide_true, Bool.true_and]
  (repeat' split) <;> first | omega | (congr 1; omega)

/-- A word made of fields is a 32-bit one: bit 0 of its first halfword is 1. -/
@[simp] theorem isLong_mkWord (f : BitVec 10) (b a d : BitVec 5) (m : BitVec 6) : isLong ((mkWord f b a d m).extractLsb' 0 16) = true := by
  simp only [isLong, mkWord, BitVec.getLsbD_extractLsb', BitVec.getLsbD_append]
  simp

/-- A 16-bit word has bit 0 clear. -/
@[simp] theorem isLong_mkHalf (x y : BitVec 3) (z : BitVec 5) (p : BitVec 4) : isLong (mkHalf x y z p) = false := by
  simp only [isLong, mkHalf, BitVec.getLsbD_append]
  simp

end Sys2Proof

namespace Sys2Proof.Machine

theorem Ctx.setS_bare (x : Ctx) (d : BitVec 5) (v : Word) : (x.setS d v).bare = x.bare := by
  unfold Ctx.bare; unfold Ctx.setS; split <;> rfl

theorem Ctx.advance_bare (x : Ctx) (n : Nat) : (x.advance n).bare = x.bare := by
  unfold Ctx.bare Ctx.advance; (repeat' split) <;> rfl

end Sys2Proof.Machine
end

