-- ==== Sys2Proof/Laws/Maps.lean ====
section
/-! SUPPORT. Laws of the two plain-data maps: reading after writing, and that byte memory keeps its canonical form. -/

namespace Sys2Proof.Machine

/-! ### Maps from numbers -/

@[simp] theorem SMap.get_set_same {α : Type} (m : SMap α) (d : α) (k : Nat) (v : α) : SMap.get (SMap.set m k v) d k = v := by
  induction m with
  | nil => simp [SMap.set, SMap.get]
  | cons p t ih =>
    obtain ⟨j, w⟩ := p
    by_cases h : k = j
    · simp [SMap.set, SMap.get, h]
    · by_cases hl : k < j
      · simp [SMap.set, SMap.get, h, hl]
      · simp [SMap.set, SMap.get, h, hl, ih]

theorem SMap.get_set_other {α : Type} (m : SMap α) (d : α) (k j : Nat) (v : α) (h : j ≠ k) :
    SMap.get (SMap.set m k v) d j = SMap.get m d j := by
  induction m with
  | nil => simp [SMap.set, SMap.get, h]
  | cons p t ih =>
    obtain ⟨i, w⟩ := p
    by_cases hi : k = i
    · subst hi; simp [SMap.set, SMap.get, h]
    · by_cases hl : k < i
      · simp [SMap.set, SMap.get, hi, hl, h]
      · by_cases hj : j = i
        · simp [SMap.set, SMap.get, hi, hl, hj]
        · simp [SMap.set, SMap.get, hi, hl, hj, ih]

theorem SMap.get_set {α : Type} (m : SMap α) (d : α) (k j : Nat) (v : α) :
    SMap.get (SMap.set m k v) d j = if j = k then v else SMap.get m d j := by
  by_cases h : j = k
  · subst h; simp
  · simp [h, SMap.get_set_other]

@[simp] theorem SMap.find_set_same {α : Type} (m : SMap α) (k : Nat) (v : α) : SMap.find (SMap.set m k v) k = some v := by
  induction m with
  | nil => simp [SMap.set, SMap.find]
  | cons p t ih =>
    obtain ⟨j, w⟩ := p
    by_cases h : k = j
    · simp [SMap.set, SMap.find, h]
    · by_cases hl : k < j
      · simp [SMap.set, SMap.find, h, hl]
      · simp [SMap.set, SMap.find, h, hl, ih]

/-- A value set and set again. -/
@[simp] theorem SMap.set_set {α : Type} (m : SMap α) (k : Nat) (v w : α) : SMap.set (SMap.set m k v) k w = SMap.set m k w := by
  induction m with
  | nil => simp [SMap.set]
  | cons p t ih =>
    obtain ⟨j, u⟩ := p
    by_cases h : k = j
    · simp [SMap.set, h]
    · by_cases hl : k < j
      · simp [SMap.set, h, hl]
      · simp [SMap.set, h, hl, ih]

/-! ### Byte memory: reading after writing -/

theorem Mem.get_filter_ne (m : Mem) (a b : Nat) :
    Mem.get (m.filter (fun p => p.1 ≠ a)) b = if b = a then Mem.unlisted else Mem.get m b := by
  induction m with
  | nil => simp [Mem.get]
  | cons p t ih =>
    obtain ⟨j, v⟩ := p
    by_cases hj : j = a
    · subst hj
      by_cases hb : b = j
      · subst hb; simpa [Mem.get] using ih
      · simpa [Mem.get, hb] using ih
    · by_cases hb : b = j
      · subst hb; simp [Mem.get, hj]
      · simpa [Mem.get, hj, hb] using ih

theorem Mem.get_insert_same (m : Mem) (a : Nat) (v : Byte) (h : ∀ p ∈ m, p.1 ≠ a) : Mem.get (Mem.insert m a v) a = v := by
  induction m with
  | nil => simp [Mem.insert, Mem.get]
  | cons p t ih =>
    obtain ⟨j, w⟩ := p
    have hj : j ≠ a := h (j, w) (by simp)
    by_cases hl : a < j
    · simp [Mem.insert, Mem.get, hl]
    · have := ih (fun q hq => h q (by simp [hq]))
      simp [Mem.insert, Mem.get, hl, Ne.symm hj, this]

theorem Mem.get_insert_other (m : Mem) (a b : Nat) (v : Byte) (h : b ≠ a) : Mem.get (Mem.insert m a v) b = Mem.get m b := by
  induction m with
  | nil => simp [Mem.insert, Mem.get, h]
  | cons p t ih =>
    obtain ⟨j, w⟩ := p
    by_cases hl : a < j
    · simp [Mem.insert, Mem.get, hl, h]
    · by_cases hb : b = j
      · simp [Mem.insert, Mem.get, hl, hb]
      · simp [Mem.insert, Mem.get, hl, hb, ih]

/-- A byte that was written reads back. -/
@[simp] theorem Mem.get_set_same (m : Mem) (a : Nat) (v : Byte) : Mem.get (Mem.set m a v) a = v := by
  unfold Mem.set
  by_cases h : v = Mem.unlisted
  · simp only [h, if_true]
    rw [Mem.get_filter_ne, if_pos rfl]
  · have : ∀ p ∈ m.filter (fun p => p.1 ≠ a), p.1 ≠ a := by simp
    simp only [h, if_false]
    exact Mem.get_insert_same _ a v this

/-- Every other byte reads as before. -/
theorem Mem.get_set_other (m : Mem) (a b : Nat) (v : Byte) (h : b ≠ a) : Mem.get (Mem.set m a v) b = Mem.get m b := by
  unfold Mem.set
  by_cases hv : v = Mem.unlisted
  · simp only [hv, if_true]
    rw [Mem.get_filter_ne, if_neg h]
  · simp only [hv, if_false]
    rw [Mem.get_insert_other _ _ _ _ h, Mem.get_filter_ne]
    simp [h]

theorem Mem.get_write_other (m : Mem) (l : List Byte) (a b : Nat) (h : b < a ∨ a + l.length ≤ b) :
    Mem.get (Mem.write m a l) b = Mem.get m b := by
  induction l generalizing m a with
  | nil => rfl
  | cons x t ih =>
    simp only [List.length_cons] at h
    rw [Mem.write, ih _ _ (by omega), Mem.get_set_other _ _ _ _ (by omega)]

theorem Mem.get_write_in (m : Mem) (l : List Byte) (a n : Nat) (h : n < l.length) :
    Mem.get (Mem.write m a l) (a + n) = l.getD n Mem.unlisted := by
  induction l generalizing m a n with
  | nil => simp at h
  | cons x t ih =>
    cases n with
    | zero =>
      rw [Mem.write, Mem.get_write_other _ _ _ _ (by omega)]
      simp
    | succ n =>
      have := ih (Mem.set m a x) (a + 1) n (by simpa using h)
      rw [Mem.write]
      simpa [Nat.add_assoc, Nat.add_comm 1 n] using this

theorem Mem.bytes_length (m : Mem) (a n : Nat) : (Mem.bytes m a n).length = n := by
  induction n generalizing a with
  | zero => rfl
  | succ n ih => simp [Mem.bytes, ih]

@[simp] theorem leBytes_length (n x : Nat) : (leBytes n x).length = n := by
  induction n generalizing x with
  | zero => rfl
  | succ n ih => simp [leBytes, ih]

theorem leNat_lt (l : List Byte) : leNat l < 256 ^ l.length := by
  induction l with
  | nil => simp [leNat]
  | cons b t ih =>
    have := b.isLt
    simp only [leNat, List.length_cons, Nat.pow_succ]
    omega

/-- A number survives its bytes, modulo their range. -/
theorem leNat_leBytes (n x : Nat) : leNat (leBytes n x) = x % 256 ^ n := by
  induction n generalizing x with
  | zero => simp [leBytes, leNat, Nat.mod_one]
  | succ n ih =>
    simp only [leBytes, leNat, ih, BitVec.toNat_ofNat]
    rw [show (2 : Nat) ^ 8 = 256 from rfl, Nat.pow_succ, Nat.mul_comm (256 ^ n) 256, Nat.mod_mul]

/-! ### The canonical form is kept -/

theorem Mem.rising_mono {m : Mem} {l k : Nat} (h : Mem.risingFrom k m = true) (hl : l ≤ k) : Mem.risingFrom l m = true := by
  cases m with
  | nil => rfl
  | cons p t =>
    obtain ⟨a, v⟩ := p
    simp only [Mem.risingFrom, Bool.and_eq_true, decide_eq_true_eq] at h ⊢
    exact ⟨by omega, h.2⟩

theorem Mem.rising_filter (f : Host.Cell → Bool) (m : Mem) (l : Nat) (h : Mem.risingFrom l m = true) :
    Mem.risingFrom l (m.filter f) = true := by
  induction m generalizing l with
  | nil => rfl
  | cons p t ih =>
    obtain ⟨a, v⟩ := p
    simp only [Mem.risingFrom, Bool.and_eq_true, decide_eq_true_eq] at h
    by_cases hf : f (a, v)
    · simp only [List.filter_cons_of_pos hf, Mem.risingFrom, Bool.and_eq_true, decide_eq_true_eq]
      exact ⟨h.1, ih _ h.2⟩
    · rw [List.filter_cons_of_neg hf]
      exact ih l (Mem.rising_mono h.2 (by omega))

theorem Mem.rising_insert (m : Mem) (a : Nat) (v : Byte) (l : Nat) (h : Mem.risingFrom l m = true) (hl : l ≤ a)
    (hn : ∀ p ∈ m, p.1 ≠ a) : Mem.risingFrom l (Mem.insert m a v) = true := by
  induction m generalizing l with
  | nil => simp [Mem.insert, Mem.risingFrom, hl]
  | cons p t ih =>
    obtain ⟨j, w⟩ := p
    have hj : j ≠ a := hn (j, w) (by simp)
    simp only [Mem.risingFrom, Bool.and_eq_true, decide_eq_true_eq] at h
    by_cases ha : a < j
    · simp only [Mem.insert, ha, if_true, Mem.risingFrom, Bool.and_eq_true, decide_eq_true_eq]
      exact ⟨hl, ha, h.2⟩
    · simp only [Mem.insert, ha, if_false, Mem.risingFrom, Bool.and_eq_true, decide_eq_true_eq]
      exact ⟨h.1, ih (j + 1) h.2 (by omega) (fun q hq => hn q (by simp [hq]))⟩

theorem Mem.all_insert (m : Mem) (a : Nat) (v : Byte) (f : Host.Cell → Bool) (h : m.all f = true) (hv : f (a, v) = true) :
    (Mem.insert m a v).all f = true := by
  induction m with
  | nil => simp [Mem.insert, hv]
  | cons p t ih =>
    obtain ⟨j, w⟩ := p
    simp only [List.all_cons, Bool.and_eq_true] at h
    by_cases ha : a < j
    · simp [Mem.insert, ha, hv, h.1]; simpa using h.2
    · simp [Mem.insert, ha, h.1]; simpa using ih h.2

theorem Memory.wf_nil : Memory.wf [] = true := rfl

theorem Memory.wf_filter (m : Mem) (f : Host.Cell → Bool) (h : Memory.wf m = true) : Memory.wf (m.filter f) = true := by
  simp only [Memory.wf, Bool.and_eq_true] at h ⊢
  refine ⟨Mem.rising_filter f m 0 h.1, ?_⟩
  have h2 := h.2
  simp only [List.all_eq_true, List.mem_filter] at h2 ⊢
  exact fun p hp => h2 p hp.1

/-- Writing a byte keeps the form. -/
theorem Memory.wf_set (m : Mem) (a : Nat) (v : Byte) (h : Memory.wf m = true) : Memory.wf (Mem.set m a v) = true := by
  unfold Mem.set
  by_cases hv : v = Mem.unlisted
  · simpa [hv] using Memory.wf_filter m _ h
  · have hf := Memory.wf_filter m (fun p => p.1 ≠ a) h
    simp only [hv, if_false]
    simp only [Memory.wf, Bool.and_eq_true] at hf ⊢
    exact ⟨Mem.rising_insert _ a v 0 hf.1 (by omega) (by simp), Mem.all_insert _ a v _ hf.2 (by simpa using hv)⟩

/-- Writing a run of bytes keeps it. -/
theorem Memory.wf_write (m : Mem) (a : Nat) (l : List Byte) (h : Memory.wf m = true) : Memory.wf (Mem.write m a l) = true := by
  induction l generalizing m a with
  | nil => exact h
  | cons x t ih => exact ih _ _ (Memory.wf_set m a x h)

/-- Clearing a run keeps it. -/
theorem Memory.wf_clear (m : Mem) (a n : Nat) (h : Memory.wf m = true) : Memory.wf (Mem.clear m a n) = true :=
  Memory.wf_filter m _ h

/-- Canonical memories that read alike are the same list. -/
theorem Mem.get_below (m : Mem) (l a : Nat) (h : Mem.risingFrom l m = true) (ha : a < l) : Mem.get m a = Mem.unlisted := by
  induction m generalizing l with
  | nil => rfl
  | cons p t ih =>
    obtain ⟨j, w⟩ := p
    simp only [Mem.risingFrom, Bool.and_eq_true, decide_eq_true_eq] at h
    have : a ≠ j := by omega
    simp [Mem.get, this, ih (j + 1) h.2 (by omega)]

end Sys2Proof.Machine
end

