-- ==== Sys2Proof/Laws/State.lean ====
section
/-! SUPPORT. Laws of the state: what each update of a unit leaves as it was, and reading a unit after writing one. -/

namespace Sys2Proof.Machine

/-! ### setCtx -/

@[simp] theorem State.setCtx_cores (s : State) (k : Nat) (x : Ctx) : (s.setCtx k x).cores = s.cores := rfl
@[simp] theorem State.setCtx_cells (s : State) (k : Nat) (x : Ctx) : (s.setCtx k x).cells = s.cells := rfl
@[simp] theorem State.setCtx_clus (s : State) (k : Nat) (x : Ctx) : (s.setCtx k x).clus = s.clus := rfl
@[simp] theorem State.setCtx_dies (s : State) (k : Nat) (x : Ctx) : (s.setCtx k x).dies = s.dies := rfl
@[simp] theorem State.setCtx_parts (s : State) (k : Nat) (x : Ctx) : (s.setCtx k x).parts = s.parts := rfl
@[simp] theorem State.setCtx_shares (s : State) (k : Nat) (x : Ctx) : (s.setCtx k x).shares = s.shares := rfl
@[simp] theorem State.setCtx_mem (s : State) (k : Nat) (x : Ctx) : (s.setCtx k x).mem = s.mem := rfl
@[simp] theorem State.setCtx_memKey (s : State) (k : Nat) (x : Ctx) : (s.setCtx k x).memKey = s.memKey := rfl
@[simp] theorem State.setCtx_wrote (s : State) (k : Nat) (x : Ctx) : (s.setCtx k x).wrote = s.wrote := rfl
@[simp] theorem State.setCtx_wroteNum (s : State) (k : Nat) (x : Ctx) : (s.setCtx k x).wroteNum = s.wroteNum := rfl
@[simp] theorem State.setCtx_memEcc (s : State) (k : Nat) (x : Ctx) : (s.setCtx k x).memEcc = s.memEcc := rfl
@[simp] theorem State.setCtx_regions (s : State) (k : Nat) (x : Ctx) : (s.setCtx k x).regions = s.regions := rfl
@[simp] theorem State.setCtx_markers (s : State) (k : Nat) (x : Ctx) : (s.setCtx k x).markers = s.markers := rfl
@[simp] theorem State.setCtx_clock (s : State) (k : Nat) (x : Ctx) : (s.setCtx k x).clock = s.clock := rfl
@[simp] theorem State.setCtx_pace (s : State) (k : Nat) (x : Ctx) : (s.setCtx k x).pace = s.pace := rfl
@[simp] theorem State.setCtx_paceLost (s : State) (k : Nat) (x : Ctx) : (s.setCtx k x).paceLost = s.paceLost := rfl
@[simp] theorem State.setCtx_paceAge (s : State) (k : Nat) (x : Ctx) : (s.setCtx k x).paceAge = s.paceAge := rfl
@[simp] theorem State.setCtx_paceOffset (s : State) (k : Nat) (x : Ctx) : (s.setCtx k x).paceOffset = s.paceOffset := rfl
@[simp] theorem State.setCtx_disabled (s : State) (k : Nat) (x : Ctx) : (s.setCtx k x).disabled = s.disabled := rfl
@[simp] theorem State.setCtx_power (s : State) (k : Nat) (x : Ctx) : (s.setCtx k x).power = s.power := rfl
@[simp] theorem State.setCtx_boot (s : State) (k : Nat) (x : Ctx) : (s.setCtx k x).boot = s.boot := rfl
@[simp] theorem State.setCtx_bootHeld (s : State) (k : Nat) (x : Ctx) : (s.setCtx k x).bootHeld = s.bootHeld := rfl
@[simp] theorem State.setCtx_fuses (s : State) (k : Nat) (x : Ctx) : (s.setCtx k x).fuses = s.fuses := rfl
@[simp] theorem State.setCtx_image (s : State) (k : Nat) (x : Ctx) : (s.setCtx k x).image = s.image := rfl
@[simp] theorem State.setCtx_recovery (s : State) (k : Nat) (x : Ctx) : (s.setCtx k x).recovery = s.recovery := rfl
@[simp] theorem State.setCtx_hss (s : State) (k : Nat) (x : Ctx) : (s.setCtx k x).hss = s.hss := rfl
@[simp] theorem State.setCtx_scores (s : State) (k : Nat) (x : Ctx) : (s.setCtx k x).scores = s.scores := rfl
@[simp] theorem State.setCtx_completed (s : State) (k : Nat) (x : Ctx) : (s.setCtx k x).completed = s.completed := rfl
@[simp] theorem State.setCtx_hwMsgs (s : State) (k : Nat) (x : Ctx) : (s.setCtx k x).hwMsgs = s.hwMsgs := rfl
@[simp] theorem State.setCtx_mgmt (s : State) (k : Nat) (x : Ctx) : (s.setCtx k x).mgmt = s.mgmt := rfl
@[simp] theorem State.setCtx_notices (s : State) (k : Nat) (x : Ctx) : (s.setCtx k x).notices = s.notices := rfl
@[simp] theorem State.setCtx_replies (s : State) (k : Nat) (x : Ctx) : (s.setCtx k x).replies = s.replies := rfl
@[simp] theorem State.setCtx_bindings (s : State) (k : Nat) (x : Ctx) : (s.setCtx k x).bindings = s.bindings := rfl
@[simp] theorem State.setCtx_frozenHosts (s : State) (k : Nat) (x : Ctx) : (s.setCtx k x).frozenHosts = s.frozenHosts := rfl
@[simp] theorem State.setCtx_routes (s : State) (k : Nat) (x : Ctx) : (s.setCtx k x).routes = s.routes := rfl
@[simp] theorem State.setCtx_modNum (s : State) (k : Nat) (x : Ctx) : (s.setCtx k x).modNum = s.modNum := rfl
@[simp] theorem State.setCtx_fabOut (s : State) (k : Nat) (x : Ctx) : (s.setCtx k x).fabOut = s.fabOut := rfl
@[simp] theorem State.setCtx_extSnap (s : State) (k : Nat) (x : Ctx) : (s.setCtx k x).extSnap = s.extSnap := rfl
@[simp] theorem State.setCtx_fwImage (s : State) (k : Nat) (x : Ctx) : (s.setCtx k x).fwImage = s.fwImage := rfl
@[simp] theorem State.setCtx_hostQ (s : State) (k : Nat) (x : Ctx) : (s.setCtx k x).hostQ = s.hostQ := rfl
@[simp] theorem State.setCtx_fabWait (s : State) (k : Nat) (x : Ctx) : (s.setCtx k x).fabWait = s.fabWait := rfl
@[simp] theorem State.setCtx_fabSeq (s : State) (k : Nat) (x : Ctx) : (s.setCtx k x).fabSeq = s.fabSeq := rfl
@[simp] theorem State.setCtx_keys (s : State) (k : Nat) (x : Ctx) : (s.setCtx k x).keys = s.keys := rfl
@[simp] theorem State.setCtx_pacePhase (s : State) (k : Nat) (x : Ctx) : (s.setCtx k x).pacePhase = s.pacePhase := rfl
@[simp] theorem State.setCtx_paceFix (s : State) (k : Nat) (x : Ctx) : (s.setCtx k x).paceFix = s.paceFix := rfl
@[simp] theorem State.setCtx_timeMaster (s : State) (k : Nat) (x : Ctx) : (s.setCtx k x).timeMaster = s.timeMaster := rfl
@[simp] theorem State.setCtx_turns (s : State) (k : Nat) (x : Ctx) : (s.setCtx k x).turns = s.turns := rfl
@[simp] theorem State.setCtx_cur (s : State) (k : Nat) (x : Ctx) : (s.setCtx k x).cur = s.cur := rfl
@[simp] theorem State.setCtx_free (s : State) (k : Nat) (x : Ctx) : (s.setCtx k x).free = s.free := rfl
@[simp] theorem State.setCtx_trapTag (s : State) (k : Nat) (x : Ctx) : (s.setCtx k x).trapTag = s.trapTag := rfl
@[simp] theorem State.setCtx_core (s : State) (k j : Nat) (x : Ctx) : (s.setCtx k x).core j = s.core j := rfl
@[simp] theorem State.setCtx_cell (s : State) (k j : Nat) (x : Ctx) : (s.setCtx k x).cell j = s.cell j := rfl
@[simp] theorem State.setCtx_clu (s : State) (k j : Nat) (x : Ctx) : (s.setCtx k x).clu j = s.clu j := rfl
@[simp] theorem State.setCtx_die (s : State) (k j : Nat) (x : Ctx) : (s.setCtx k x).die j = s.die j := rfl
@[simp] theorem State.setCtx_part (s : State) (k j : Nat) (x : Ctx) : (s.setCtx k x).part j = s.part j := rfl
@[simp] theorem State.setCtx_shareSet (s : State) (k j : Nat) (x : Ctx) : (s.setCtx k x).shareSet j = s.shareSet j := rfl
@[simp] theorem State.setCtx_ctx_same (s : State) (k : Nat) (x : Ctx) : (s.setCtx k x).ctx k = x :=
  SMap.get_set_same _ _ _ _
theorem State.setCtx_ctx_other (s : State) (k j : Nat) (x : Ctx) (h : j ≠ k) : (s.setCtx k x).ctx j = s.ctx j :=
  SMap.get_set_other _ _ _ _ _ h
@[simp] theorem State.setCtx_setCtx (s : State) (k : Nat) (x y : Ctx) : (s.setCtx k x).setCtx k y = s.setCtx k y := by
  simp [State.setCtx]

/-! ### setCore -/

@[simp] theorem State.setCore_ctxs (s : State) (k : Nat) (x : Core) : (s.setCore k x).ctxs = s.ctxs := rfl
@[simp] theorem State.setCore_cells (s : State) (k : Nat) (x : Core) : (s.setCore k x).cells = s.cells := rfl
@[simp] theorem State.setCore_clus (s : State) (k : Nat) (x : Core) : (s.setCore k x).clus = s.clus := rfl
@[simp] theorem State.setCore_dies (s : State) (k : Nat) (x : Core) : (s.setCore k x).dies = s.dies := rfl
@[simp] theorem State.setCore_parts (s : State) (k : Nat) (x : Core) : (s.setCore k x).parts = s.parts := rfl
@[simp] theorem State.setCore_shares (s : State) (k : Nat) (x : Core) : (s.setCore k x).shares = s.shares := rfl
@[simp] theorem State.setCore_mem (s : State) (k : Nat) (x : Core) : (s.setCore k x).mem = s.mem := rfl
@[simp] theorem State.setCore_memKey (s : State) (k : Nat) (x : Core) : (s.setCore k x).memKey = s.memKey := rfl
@[simp] theorem State.setCore_wrote (s : State) (k : Nat) (x : Core) : (s.setCore k x).wrote = s.wrote := rfl
@[simp] theorem State.setCore_wroteNum (s : State) (k : Nat) (x : Core) : (s.setCore k x).wroteNum = s.wroteNum := rfl
@[simp] theorem State.setCore_memEcc (s : State) (k : Nat) (x : Core) : (s.setCore k x).memEcc = s.memEcc := rfl
@[simp] theorem State.setCore_regions (s : State) (k : Nat) (x : Core) : (s.setCore k x).regions = s.regions := rfl
@[simp] theorem State.setCore_markers (s : State) (k : Nat) (x : Core) : (s.setCore k x).markers = s.markers := rfl
@[simp] theorem State.setCore_clock (s : State) (k : Nat) (x : Core) : (s.setCore k x).clock = s.clock := rfl
@[simp] theorem State.setCore_pace (s : State) (k : Nat) (x : Core) : (s.setCore k x).pace = s.pace := rfl
@[simp] theorem State.setCore_paceLost (s : State) (k : Nat) (x : Core) : (s.setCore k x).paceLost = s.paceLost := rfl
@[simp] theorem State.setCore_paceAge (s : State) (k : Nat) (x : Core) : (s.setCore k x).paceAge = s.paceAge := rfl
@[simp] theorem State.setCore_paceOffset (s : State) (k : Nat) (x : Core) : (s.setCore k x).paceOffset = s.paceOffset := rfl
@[simp] theorem State.setCore_disabled (s : State) (k : Nat) (x : Core) : (s.setCore k x).disabled = s.disabled := rfl
@[simp] theorem State.setCore_power (s : State) (k : Nat) (x : Core) : (s.setCore k x).power = s.power := rfl
@[simp] theorem State.setCore_boot (s : State) (k : Nat) (x : Core) : (s.setCore k x).boot = s.boot := rfl
@[simp] theorem State.setCore_bootHeld (s : State) (k : Nat) (x : Core) : (s.setCore k x).bootHeld = s.bootHeld := rfl
@[simp] theorem State.setCore_fuses (s : State) (k : Nat) (x : Core) : (s.setCore k x).fuses = s.fuses := rfl
@[simp] theorem State.setCore_image (s : State) (k : Nat) (x : Core) : (s.setCore k x).image = s.image := rfl
@[simp] theorem State.setCore_recovery (s : State) (k : Nat) (x : Core) : (s.setCore k x).recovery = s.recovery := rfl
@[simp] theorem State.setCore_hss (s : State) (k : Nat) (x : Core) : (s.setCore k x).hss = s.hss := rfl
@[simp] theorem State.setCore_scores (s : State) (k : Nat) (x : Core) : (s.setCore k x).scores = s.scores := rfl
@[simp] theorem State.setCore_completed (s : State) (k : Nat) (x : Core) : (s.setCore k x).completed = s.completed := rfl
@[simp] theorem State.setCore_hwMsgs (s : State) (k : Nat) (x : Core) : (s.setCore k x).hwMsgs = s.hwMsgs := rfl
@[simp] theorem State.setCore_mgmt (s : State) (k : Nat) (x : Core) : (s.setCore k x).mgmt = s.mgmt := rfl
@[simp] theorem State.setCore_notices (s : State) (k : Nat) (x : Core) : (s.setCore k x).notices = s.notices := rfl
@[simp] theorem State.setCore_replies (s : State) (k : Nat) (x : Core) : (s.setCore k x).replies = s.replies := rfl
@[simp] theorem State.setCore_bindings (s : State) (k : Nat) (x : Core) : (s.setCore k x).bindings = s.bindings := rfl
@[simp] theorem State.setCore_frozenHosts (s : State) (k : Nat) (x : Core) : (s.setCore k x).frozenHosts = s.frozenHosts := rfl
@[simp] theorem State.setCore_routes (s : State) (k : Nat) (x : Core) : (s.setCore k x).routes = s.routes := rfl
@[simp] theorem State.setCore_modNum (s : State) (k : Nat) (x : Core) : (s.setCore k x).modNum = s.modNum := rfl
@[simp] theorem State.setCore_fabOut (s : State) (k : Nat) (x : Core) : (s.setCore k x).fabOut = s.fabOut := rfl
@[simp] theorem State.setCore_extSnap (s : State) (k : Nat) (x : Core) : (s.setCore k x).extSnap = s.extSnap := rfl
@[simp] theorem State.setCore_fwImage (s : State) (k : Nat) (x : Core) : (s.setCore k x).fwImage = s.fwImage := rfl
@[simp] theorem State.setCore_hostQ (s : State) (k : Nat) (x : Core) : (s.setCore k x).hostQ = s.hostQ := rfl
@[simp] theorem State.setCore_fabWait (s : State) (k : Nat) (x : Core) : (s.setCore k x).fabWait = s.fabWait := rfl
@[simp] theorem State.setCore_fabSeq (s : State) (k : Nat) (x : Core) : (s.setCore k x).fabSeq = s.fabSeq := rfl
@[simp] theorem State.setCore_keys (s : State) (k : Nat) (x : Core) : (s.setCore k x).keys = s.keys := rfl
@[simp] theorem State.setCore_pacePhase (s : State) (k : Nat) (x : Core) : (s.setCore k x).pacePhase = s.pacePhase := rfl
@[simp] theorem State.setCore_paceFix (s : State) (k : Nat) (x : Core) : (s.setCore k x).paceFix = s.paceFix := rfl
@[simp] theorem State.setCore_timeMaster (s : State) (k : Nat) (x : Core) : (s.setCore k x).timeMaster = s.timeMaster := rfl
@[simp] theorem State.setCore_turns (s : State) (k : Nat) (x : Core) : (s.setCore k x).turns = s.turns := rfl
@[simp] theorem State.setCore_cur (s : State) (k : Nat) (x : Core) : (s.setCore k x).cur = s.cur := rfl
@[simp] theorem State.setCore_free (s : State) (k : Nat) (x : Core) : (s.setCore k x).free = s.free := rfl
@[simp] theorem State.setCore_trapTag (s : State) (k : Nat) (x : Core) : (s.setCore k x).trapTag = s.trapTag := rfl
@[simp] theorem State.setCore_ctx (s : State) (k j : Nat) (x : Core) : (s.setCore k x).ctx j = s.ctx j := rfl
@[simp] theorem State.setCore_cell (s : State) (k j : Nat) (x : Core) : (s.setCore k x).cell j = s.cell j := rfl
@[simp] theorem State.setCore_clu (s : State) (k j : Nat) (x : Core) : (s.setCore k x).clu j = s.clu j := rfl
@[simp] theorem State.setCore_die (s : State) (k j : Nat) (x : Core) : (s.setCore k x).die j = s.die j := rfl
@[simp] theorem State.setCore_part (s : State) (k j : Nat) (x : Core) : (s.setCore k x).part j = s.part j := rfl
@[simp] theorem State.setCore_shareSet (s : State) (k j : Nat) (x : Core) : (s.setCore k x).shareSet j = s.shareSet j := rfl
@[simp] theorem State.setCore_core_same (s : State) (k : Nat) (x : Core) : (s.setCore k x).core k = x :=
  SMap.get_set_same _ _ _ _
theorem State.setCore_core_other (s : State) (k j : Nat) (x : Core) (h : j ≠ k) : (s.setCore k x).core j = s.core j :=
  SMap.get_set_other _ _ _ _ _ h
@[simp] theorem State.setCore_setCore (s : State) (k : Nat) (x y : Core) : (s.setCore k x).setCore k y = s.setCore k y := by
  simp [State.setCore]

/-! ### setCell -/

@[simp] theorem State.setCell_ctxs (s : State) (k : Nat) (x : Cell) : (s.setCell k x).ctxs = s.ctxs := rfl
@[simp] theorem State.setCell_cores (s : State) (k : Nat) (x : Cell) : (s.setCell k x).cores = s.cores := rfl
@[simp] theorem State.setCell_clus (s : State) (k : Nat) (x : Cell) : (s.setCell k x).clus = s.clus := rfl
@[simp] theorem State.setCell_dies (s : State) (k : Nat) (x : Cell) : (s.setCell k x).dies = s.dies := rfl
@[simp] theorem State.setCell_parts (s : State) (k : Nat) (x : Cell) : (s.setCell k x).parts = s.parts := rfl
@[simp] theorem State.setCell_shares (s : State) (k : Nat) (x : Cell) : (s.setCell k x).shares = s.shares := rfl
@[simp] theorem State.setCell_mem (s : State) (k : Nat) (x : Cell) : (s.setCell k x).mem = s.mem := rfl
@[simp] theorem State.setCell_memKey (s : State) (k : Nat) (x : Cell) : (s.setCell k x).memKey = s.memKey := rfl
@[simp] theorem State.setCell_wrote (s : State) (k : Nat) (x : Cell) : (s.setCell k x).wrote = s.wrote := rfl
@[simp] theorem State.setCell_wroteNum (s : State) (k : Nat) (x : Cell) : (s.setCell k x).wroteNum = s.wroteNum := rfl
@[simp] theorem State.setCell_memEcc (s : State) (k : Nat) (x : Cell) : (s.setCell k x).memEcc = s.memEcc := rfl
@[simp] theorem State.setCell_regions (s : State) (k : Nat) (x : Cell) : (s.setCell k x).regions = s.regions := rfl
@[simp] theorem State.setCell_markers (s : State) (k : Nat) (x : Cell) : (s.setCell k x).markers = s.markers := rfl
@[simp] theorem State.setCell_clock (s : State) (k : Nat) (x : Cell) : (s.setCell k x).clock = s.clock := rfl
@[simp] theorem State.setCell_pace (s : State) (k : Nat) (x : Cell) : (s.setCell k x).pace = s.pace := rfl
@[simp] theorem State.setCell_paceLost (s : State) (k : Nat) (x : Cell) : (s.setCell k x).paceLost = s.paceLost := rfl
@[simp] theorem State.setCell_paceAge (s : State) (k : Nat) (x : Cell) : (s.setCell k x).paceAge = s.paceAge := rfl
@[simp] theorem State.setCell_paceOffset (s : State) (k : Nat) (x : Cell) : (s.setCell k x).paceOffset = s.paceOffset := rfl
@[simp] theorem State.setCell_disabled (s : State) (k : Nat) (x : Cell) : (s.setCell k x).disabled = s.disabled := rfl
@[simp] theorem State.setCell_power (s : State) (k : Nat) (x : Cell) : (s.setCell k x).power = s.power := rfl
@[simp] theorem State.setCell_boot (s : State) (k : Nat) (x : Cell) : (s.setCell k x).boot = s.boot := rfl
@[simp] theorem State.setCell_bootHeld (s : State) (k : Nat) (x : Cell) : (s.setCell k x).bootHeld = s.bootHeld := rfl
@[simp] theorem State.setCell_fuses (s : State) (k : Nat) (x : Cell) : (s.setCell k x).fuses = s.fuses := rfl
@[simp] theorem State.setCell_image (s : State) (k : Nat) (x : Cell) : (s.setCell k x).image = s.image := rfl
@[simp] theorem State.setCell_recovery (s : State) (k : Nat) (x : Cell) : (s.setCell k x).recovery = s.recovery := rfl
@[simp] theorem State.setCell_hss (s : State) (k : Nat) (x : Cell) : (s.setCell k x).hss = s.hss := rfl
@[simp] theorem State.setCell_scores (s : State) (k : Nat) (x : Cell) : (s.setCell k x).scores = s.scores := rfl
@[simp] theorem State.setCell_completed (s : State) (k : Nat) (x : Cell) : (s.setCell k x).completed = s.completed := rfl
@[simp] theorem State.setCell_hwMsgs (s : State) (k : Nat) (x : Cell) : (s.setCell k x).hwMsgs = s.hwMsgs := rfl
@[simp] theorem State.setCell_mgmt (s : State) (k : Nat) (x : Cell) : (s.setCell k x).mgmt = s.mgmt := rfl
@[simp] theorem State.setCell_notices (s : State) (k : Nat) (x : Cell) : (s.setCell k x).notices = s.notices := rfl
@[simp] theorem State.setCell_replies (s : State) (k : Nat) (x : Cell) : (s.setCell k x).replies = s.replies := rfl
@[simp] theorem State.setCell_bindings (s : State) (k : Nat) (x : Cell) : (s.setCell k x).bindings = s.bindings := rfl
@[simp] theorem State.setCell_frozenHosts (s : State) (k : Nat) (x : Cell) : (s.setCell k x).frozenHosts = s.frozenHosts := rfl
@[simp] theorem State.setCell_routes (s : State) (k : Nat) (x : Cell) : (s.setCell k x).routes = s.routes := rfl
@[simp] theorem State.setCell_modNum (s : State) (k : Nat) (x : Cell) : (s.setCell k x).modNum = s.modNum := rfl
@[simp] theorem State.setCell_fabOut (s : State) (k : Nat) (x : Cell) : (s.setCell k x).fabOut = s.fabOut := rfl
@[simp] theorem State.setCell_extSnap (s : State) (k : Nat) (x : Cell) : (s.setCell k x).extSnap = s.extSnap := rfl
@[simp] theorem State.setCell_fwImage (s : State) (k : Nat) (x : Cell) : (s.setCell k x).fwImage = s.fwImage := rfl
@[simp] theorem State.setCell_hostQ (s : State) (k : Nat) (x : Cell) : (s.setCell k x).hostQ = s.hostQ := rfl
@[simp] theorem State.setCell_fabWait (s : State) (k : Nat) (x : Cell) : (s.setCell k x).fabWait = s.fabWait := rfl
@[simp] theorem State.setCell_fabSeq (s : State) (k : Nat) (x : Cell) : (s.setCell k x).fabSeq = s.fabSeq := rfl
@[simp] theorem State.setCell_keys (s : State) (k : Nat) (x : Cell) : (s.setCell k x).keys = s.keys := rfl
@[simp] theorem State.setCell_pacePhase (s : State) (k : Nat) (x : Cell) : (s.setCell k x).pacePhase = s.pacePhase := rfl
@[simp] theorem State.setCell_paceFix (s : State) (k : Nat) (x : Cell) : (s.setCell k x).paceFix = s.paceFix := rfl
@[simp] theorem State.setCell_timeMaster (s : State) (k : Nat) (x : Cell) : (s.setCell k x).timeMaster = s.timeMaster := rfl
@[simp] theorem State.setCell_turns (s : State) (k : Nat) (x : Cell) : (s.setCell k x).turns = s.turns := rfl
@[simp] theorem State.setCell_cur (s : State) (k : Nat) (x : Cell) : (s.setCell k x).cur = s.cur := rfl
@[simp] theorem State.setCell_free (s : State) (k : Nat) (x : Cell) : (s.setCell k x).free = s.free := rfl
@[simp] theorem State.setCell_trapTag (s : State) (k : Nat) (x : Cell) : (s.setCell k x).trapTag = s.trapTag := rfl
@[simp] theorem State.setCell_ctx (s : State) (k j : Nat) (x : Cell) : (s.setCell k x).ctx j = s.ctx j := rfl
@[simp] theorem State.setCell_core (s : State) (k j : Nat) (x : Cell) : (s.setCell k x).core j = s.core j := rfl
@[simp] theorem State.setCell_clu (s : State) (k j : Nat) (x : Cell) : (s.setCell k x).clu j = s.clu j := rfl
@[simp] theorem State.setCell_die (s : State) (k j : Nat) (x : Cell) : (s.setCell k x).die j = s.die j := rfl
@[simp] theorem State.setCell_part (s : State) (k j : Nat) (x : Cell) : (s.setCell k x).part j = s.part j := rfl
@[simp] theorem State.setCell_shareSet (s : State) (k j : Nat) (x : Cell) : (s.setCell k x).shareSet j = s.shareSet j := rfl
@[simp] theorem State.setCell_cell_same (s : State) (k : Nat) (x : Cell) : (s.setCell k x).cell k = x :=
  SMap.get_set_same _ _ _ _
theorem State.setCell_cell_other (s : State) (k j : Nat) (x : Cell) (h : j ≠ k) : (s.setCell k x).cell j = s.cell j :=
  SMap.get_set_other _ _ _ _ _ h
@[simp] theorem State.setCell_setCell (s : State) (k : Nat) (x y : Cell) : (s.setCell k x).setCell k y = s.setCell k y := by
  simp [State.setCell]

/-! ### setClu -/

@[simp] theorem State.setClu_ctxs (s : State) (k : Nat) (x : Cluster) : (s.setClu k x).ctxs = s.ctxs := rfl
@[simp] theorem State.setClu_cores (s : State) (k : Nat) (x : Cluster) : (s.setClu k x).cores = s.cores := rfl
@[simp] theorem State.setClu_cells (s : State) (k : Nat) (x : Cluster) : (s.setClu k x).cells = s.cells := rfl
@[simp] theorem State.setClu_dies (s : State) (k : Nat) (x : Cluster) : (s.setClu k x).dies = s.dies := rfl
@[simp] theorem State.setClu_parts (s : State) (k : Nat) (x : Cluster) : (s.setClu k x).parts = s.parts := rfl
@[simp] theorem State.setClu_shares (s : State) (k : Nat) (x : Cluster) : (s.setClu k x).shares = s.shares := rfl
@[simp] theorem State.setClu_mem (s : State) (k : Nat) (x : Cluster) : (s.setClu k x).mem = s.mem := rfl
@[simp] theorem State.setClu_memKey (s : State) (k : Nat) (x : Cluster) : (s.setClu k x).memKey = s.memKey := rfl
@[simp] theorem State.setClu_wrote (s : State) (k : Nat) (x : Cluster) : (s.setClu k x).wrote = s.wrote := rfl
@[simp] theorem State.setClu_wroteNum (s : State) (k : Nat) (x : Cluster) : (s.setClu k x).wroteNum = s.wroteNum := rfl
@[simp] theorem State.setClu_memEcc (s : State) (k : Nat) (x : Cluster) : (s.setClu k x).memEcc = s.memEcc := rfl
@[simp] theorem State.setClu_regions (s : State) (k : Nat) (x : Cluster) : (s.setClu k x).regions = s.regions := rfl
@[simp] theorem State.setClu_markers (s : State) (k : Nat) (x : Cluster) : (s.setClu k x).markers = s.markers := rfl
@[simp] theorem State.setClu_clock (s : State) (k : Nat) (x : Cluster) : (s.setClu k x).clock = s.clock := rfl
@[simp] theorem State.setClu_pace (s : State) (k : Nat) (x : Cluster) : (s.setClu k x).pace = s.pace := rfl
@[simp] theorem State.setClu_paceLost (s : State) (k : Nat) (x : Cluster) : (s.setClu k x).paceLost = s.paceLost := rfl
@[simp] theorem State.setClu_paceAge (s : State) (k : Nat) (x : Cluster) : (s.setClu k x).paceAge = s.paceAge := rfl
@[simp] theorem State.setClu_paceOffset (s : State) (k : Nat) (x : Cluster) : (s.setClu k x).paceOffset = s.paceOffset := rfl
@[simp] theorem State.setClu_disabled (s : State) (k : Nat) (x : Cluster) : (s.setClu k x).disabled = s.disabled := rfl
@[simp] theorem State.setClu_power (s : State) (k : Nat) (x : Cluster) : (s.setClu k x).power = s.power := rfl
@[simp] theorem State.setClu_boot (s : State) (k : Nat) (x : Cluster) : (s.setClu k x).boot = s.boot := rfl
@[simp] theorem State.setClu_bootHeld (s : State) (k : Nat) (x : Cluster) : (s.setClu k x).bootHeld = s.bootHeld := rfl
@[simp] theorem State.setClu_fuses (s : State) (k : Nat) (x : Cluster) : (s.setClu k x).fuses = s.fuses := rfl
@[simp] theorem State.setClu_image (s : State) (k : Nat) (x : Cluster) : (s.setClu k x).image = s.image := rfl
@[simp] theorem State.setClu_recovery (s : State) (k : Nat) (x : Cluster) : (s.setClu k x).recovery = s.recovery := rfl
@[simp] theorem State.setClu_hss (s : State) (k : Nat) (x : Cluster) : (s.setClu k x).hss = s.hss := rfl
@[simp] theorem State.setClu_scores (s : State) (k : Nat) (x : Cluster) : (s.setClu k x).scores = s.scores := rfl
@[simp] theorem State.setClu_completed (s : State) (k : Nat) (x : Cluster) : (s.setClu k x).completed = s.completed := rfl
@[simp] theorem State.setClu_hwMsgs (s : State) (k : Nat) (x : Cluster) : (s.setClu k x).hwMsgs = s.hwMsgs := rfl
@[simp] theorem State.setClu_mgmt (s : State) (k : Nat) (x : Cluster) : (s.setClu k x).mgmt = s.mgmt := rfl
@[simp] theorem State.setClu_notices (s : State) (k : Nat) (x : Cluster) : (s.setClu k x).notices = s.notices := rfl
@[simp] theorem State.setClu_replies (s : State) (k : Nat) (x : Cluster) : (s.setClu k x).replies = s.replies := rfl
@[simp] theorem State.setClu_bindings (s : State) (k : Nat) (x : Cluster) : (s.setClu k x).bindings = s.bindings := rfl
@[simp] theorem State.setClu_frozenHosts (s : State) (k : Nat) (x : Cluster) : (s.setClu k x).frozenHosts = s.frozenHosts := rfl
@[simp] theorem State.setClu_routes (s : State) (k : Nat) (x : Cluster) : (s.setClu k x).routes = s.routes := rfl
@[simp] theorem State.setClu_modNum (s : State) (k : Nat) (x : Cluster) : (s.setClu k x).modNum = s.modNum := rfl
@[simp] theorem State.setClu_fabOut (s : State) (k : Nat) (x : Cluster) : (s.setClu k x).fabOut = s.fabOut := rfl
@[simp] theorem State.setClu_extSnap (s : State) (k : Nat) (x : Cluster) : (s.setClu k x).extSnap = s.extSnap := rfl
@[simp] theorem State.setClu_fwImage (s : State) (k : Nat) (x : Cluster) : (s.setClu k x).fwImage = s.fwImage := rfl
@[simp] theorem State.setClu_hostQ (s : State) (k : Nat) (x : Cluster) : (s.setClu k x).hostQ = s.hostQ := rfl
@[simp] theorem State.setClu_fabWait (s : State) (k : Nat) (x : Cluster) : (s.setClu k x).fabWait = s.fabWait := rfl
@[simp] theorem State.setClu_fabSeq (s : State) (k : Nat) (x : Cluster) : (s.setClu k x).fabSeq = s.fabSeq := rfl
@[simp] theorem State.setClu_keys (s : State) (k : Nat) (x : Cluster) : (s.setClu k x).keys = s.keys := rfl
@[simp] theorem State.setClu_pacePhase (s : State) (k : Nat) (x : Cluster) : (s.setClu k x).pacePhase = s.pacePhase := rfl
@[simp] theorem State.setClu_paceFix (s : State) (k : Nat) (x : Cluster) : (s.setClu k x).paceFix = s.paceFix := rfl
@[simp] theorem State.setClu_timeMaster (s : State) (k : Nat) (x : Cluster) : (s.setClu k x).timeMaster = s.timeMaster := rfl
@[simp] theorem State.setClu_turns (s : State) (k : Nat) (x : Cluster) : (s.setClu k x).turns = s.turns := rfl
@[simp] theorem State.setClu_cur (s : State) (k : Nat) (x : Cluster) : (s.setClu k x).cur = s.cur := rfl
@[simp] theorem State.setClu_free (s : State) (k : Nat) (x : Cluster) : (s.setClu k x).free = s.free := rfl
@[simp] theorem State.setClu_trapTag (s : State) (k : Nat) (x : Cluster) : (s.setClu k x).trapTag = s.trapTag := rfl
@[simp] theorem State.setClu_ctx (s : State) (k j : Nat) (x : Cluster) : (s.setClu k x).ctx j = s.ctx j := rfl
@[simp] theorem State.setClu_core (s : State) (k j : Nat) (x : Cluster) : (s.setClu k x).core j = s.core j := rfl
@[simp] theorem State.setClu_cell (s : State) (k j : Nat) (x : Cluster) : (s.setClu k x).cell j = s.cell j := rfl
@[simp] theorem State.setClu_die (s : State) (k j : Nat) (x : Cluster) : (s.setClu k x).die j = s.die j := rfl
@[simp] theorem State.setClu_part (s : State) (k j : Nat) (x : Cluster) : (s.setClu k x).part j = s.part j := rfl
@[simp] theorem State.setClu_shareSet (s : State) (k j : Nat) (x : Cluster) : (s.setClu k x).shareSet j = s.shareSet j := rfl
@[simp] theorem State.setClu_clu_same (s : State) (k : Nat) (x : Cluster) : (s.setClu k x).clu k = x :=
  SMap.get_set_same _ _ _ _
theorem State.setClu_clu_other (s : State) (k j : Nat) (x : Cluster) (h : j ≠ k) : (s.setClu k x).clu j = s.clu j :=
  SMap.get_set_other _ _ _ _ _ h
@[simp] theorem State.setClu_setClu (s : State) (k : Nat) (x y : Cluster) : (s.setClu k x).setClu k y = s.setClu k y := by
  simp [State.setClu]

/-! ### setDie -/

@[simp] theorem State.setDie_ctxs (s : State) (k : Nat) (x : Die) : (s.setDie k x).ctxs = s.ctxs := rfl
@[simp] theorem State.setDie_cores (s : State) (k : Nat) (x : Die) : (s.setDie k x).cores = s.cores := rfl
@[simp] theorem State.setDie_cells (s : State) (k : Nat) (x : Die) : (s.setDie k x).cells = s.cells := rfl
@[simp] theorem State.setDie_clus (s : State) (k : Nat) (x : Die) : (s.setDie k x).clus = s.clus := rfl
@[simp] theorem State.setDie_parts (s : State) (k : Nat) (x : Die) : (s.setDie k x).parts = s.parts := rfl
@[simp] theorem State.setDie_shares (s : State) (k : Nat) (x : Die) : (s.setDie k x).shares = s.shares := rfl
@[simp] theorem State.setDie_mem (s : State) (k : Nat) (x : Die) : (s.setDie k x).mem = s.mem := rfl
@[simp] theorem State.setDie_memKey (s : State) (k : Nat) (x : Die) : (s.setDie k x).memKey = s.memKey := rfl
@[simp] theorem State.setDie_wrote (s : State) (k : Nat) (x : Die) : (s.setDie k x).wrote = s.wrote := rfl
@[simp] theorem State.setDie_wroteNum (s : State) (k : Nat) (x : Die) : (s.setDie k x).wroteNum = s.wroteNum := rfl
@[simp] theorem State.setDie_memEcc (s : State) (k : Nat) (x : Die) : (s.setDie k x).memEcc = s.memEcc := rfl
@[simp] theorem State.setDie_regions (s : State) (k : Nat) (x : Die) : (s.setDie k x).regions = s.regions := rfl
@[simp] theorem State.setDie_markers (s : State) (k : Nat) (x : Die) : (s.setDie k x).markers = s.markers := rfl
@[simp] theorem State.setDie_clock (s : State) (k : Nat) (x : Die) : (s.setDie k x).clock = s.clock := rfl
@[simp] theorem State.setDie_pace (s : State) (k : Nat) (x : Die) : (s.setDie k x).pace = s.pace := rfl
@[simp] theorem State.setDie_paceLost (s : State) (k : Nat) (x : Die) : (s.setDie k x).paceLost = s.paceLost := rfl
@[simp] theorem State.setDie_paceAge (s : State) (k : Nat) (x : Die) : (s.setDie k x).paceAge = s.paceAge := rfl
@[simp] theorem State.setDie_paceOffset (s : State) (k : Nat) (x : Die) : (s.setDie k x).paceOffset = s.paceOffset := rfl
@[simp] theorem State.setDie_disabled (s : State) (k : Nat) (x : Die) : (s.setDie k x).disabled = s.disabled := rfl
@[simp] theorem State.setDie_power (s : State) (k : Nat) (x : Die) : (s.setDie k x).power = s.power := rfl
@[simp] theorem State.setDie_boot (s : State) (k : Nat) (x : Die) : (s.setDie k x).boot = s.boot := rfl
@[simp] theorem State.setDie_bootHeld (s : State) (k : Nat) (x : Die) : (s.setDie k x).bootHeld = s.bootHeld := rfl
@[simp] theorem State.setDie_fuses (s : State) (k : Nat) (x : Die) : (s.setDie k x).fuses = s.fuses := rfl
@[simp] theorem State.setDie_image (s : State) (k : Nat) (x : Die) : (s.setDie k x).image = s.image := rfl
@[simp] theorem State.setDie_recovery (s : State) (k : Nat) (x : Die) : (s.setDie k x).recovery = s.recovery := rfl
@[simp] theorem State.setDie_hss (s : State) (k : Nat) (x : Die) : (s.setDie k x).hss = s.hss := rfl
@[simp] theorem State.setDie_scores (s : State) (k : Nat) (x : Die) : (s.setDie k x).scores = s.scores := rfl
@[simp] theorem State.setDie_completed (s : State) (k : Nat) (x : Die) : (s.setDie k x).completed = s.completed := rfl
@[simp] theorem State.setDie_hwMsgs (s : State) (k : Nat) (x : Die) : (s.setDie k x).hwMsgs = s.hwMsgs := rfl
@[simp] theorem State.setDie_mgmt (s : State) (k : Nat) (x : Die) : (s.setDie k x).mgmt = s.mgmt := rfl
@[simp] theorem State.setDie_notices (s : State) (k : Nat) (x : Die) : (s.setDie k x).notices = s.notices := rfl
@[simp] theorem State.setDie_replies (s : State) (k : Nat) (x : Die) : (s.setDie k x).replies = s.replies := rfl
@[simp] theorem State.setDie_bindings (s : State) (k : Nat) (x : Die) : (s.setDie k x).bindings = s.bindings := rfl
@[simp] theorem State.setDie_frozenHosts (s : State) (k : Nat) (x : Die) : (s.setDie k x).frozenHosts = s.frozenHosts := rfl
@[simp] theorem State.setDie_routes (s : State) (k : Nat) (x : Die) : (s.setDie k x).routes = s.routes := rfl
@[simp] theorem State.setDie_modNum (s : State) (k : Nat) (x : Die) : (s.setDie k x).modNum = s.modNum := rfl
@[simp] theorem State.setDie_fabOut (s : State) (k : Nat) (x : Die) : (s.setDie k x).fabOut = s.fabOut := rfl
@[simp] theorem State.setDie_extSnap (s : State) (k : Nat) (x : Die) : (s.setDie k x).extSnap = s.extSnap := rfl
@[simp] theorem State.setDie_fwImage (s : State) (k : Nat) (x : Die) : (s.setDie k x).fwImage = s.fwImage := rfl
@[simp] theorem State.setDie_hostQ (s : State) (k : Nat) (x : Die) : (s.setDie k x).hostQ = s.hostQ := rfl
@[simp] theorem State.setDie_fabWait (s : State) (k : Nat) (x : Die) : (s.setDie k x).fabWait = s.fabWait := rfl
@[simp] theorem State.setDie_fabSeq (s : State) (k : Nat) (x : Die) : (s.setDie k x).fabSeq = s.fabSeq := rfl
@[simp] theorem State.setDie_keys (s : State) (k : Nat) (x : Die) : (s.setDie k x).keys = s.keys := rfl
@[simp] theorem State.setDie_pacePhase (s : State) (k : Nat) (x : Die) : (s.setDie k x).pacePhase = s.pacePhase := rfl
@[simp] theorem State.setDie_paceFix (s : State) (k : Nat) (x : Die) : (s.setDie k x).paceFix = s.paceFix := rfl
@[simp] theorem State.setDie_timeMaster (s : State) (k : Nat) (x : Die) : (s.setDie k x).timeMaster = s.timeMaster := rfl
@[simp] theorem State.setDie_turns (s : State) (k : Nat) (x : Die) : (s.setDie k x).turns = s.turns := rfl
@[simp] theorem State.setDie_cur (s : State) (k : Nat) (x : Die) : (s.setDie k x).cur = s.cur := rfl
@[simp] theorem State.setDie_free (s : State) (k : Nat) (x : Die) : (s.setDie k x).free = s.free := rfl
@[simp] theorem State.setDie_trapTag (s : State) (k : Nat) (x : Die) : (s.setDie k x).trapTag = s.trapTag := rfl
@[simp] theorem State.setDie_ctx (s : State) (k j : Nat) (x : Die) : (s.setDie k x).ctx j = s.ctx j := rfl
@[simp] theorem State.setDie_core (s : State) (k j : Nat) (x : Die) : (s.setDie k x).core j = s.core j := rfl
@[simp] theorem State.setDie_cell (s : State) (k j : Nat) (x : Die) : (s.setDie k x).cell j = s.cell j := rfl
@[simp] theorem State.setDie_clu (s : State) (k j : Nat) (x : Die) : (s.setDie k x).clu j = s.clu j := rfl
@[simp] theorem State.setDie_part (s : State) (k j : Nat) (x : Die) : (s.setDie k x).part j = s.part j := rfl
@[simp] theorem State.setDie_shareSet (s : State) (k j : Nat) (x : Die) : (s.setDie k x).shareSet j = s.shareSet j := rfl
@[simp] theorem State.setDie_die_same (s : State) (k : Nat) (x : Die) : (s.setDie k x).die k = x :=
  SMap.get_set_same _ _ _ _
theorem State.setDie_die_other (s : State) (k j : Nat) (x : Die) (h : j ≠ k) : (s.setDie k x).die j = s.die j :=
  SMap.get_set_other _ _ _ _ _ h
@[simp] theorem State.setDie_setDie (s : State) (k : Nat) (x y : Die) : (s.setDie k x).setDie k y = s.setDie k y := by
  simp [State.setDie]

/-! ### setPart -/

@[simp] theorem State.setPart_ctxs (s : State) (k : Nat) (x : Part) : (s.setPart k x).ctxs = s.ctxs := rfl
@[simp] theorem State.setPart_cores (s : State) (k : Nat) (x : Part) : (s.setPart k x).cores = s.cores := rfl
@[simp] theorem State.setPart_cells (s : State) (k : Nat) (x : Part) : (s.setPart k x).cells = s.cells := rfl
@[simp] theorem State.setPart_clus (s : State) (k : Nat) (x : Part) : (s.setPart k x).clus = s.clus := rfl
@[simp] theorem State.setPart_dies (s : State) (k : Nat) (x : Part) : (s.setPart k x).dies = s.dies := rfl
@[simp] theorem State.setPart_shares (s : State) (k : Nat) (x : Part) : (s.setPart k x).shares = s.shares := rfl
@[simp] theorem State.setPart_mem (s : State) (k : Nat) (x : Part) : (s.setPart k x).mem = s.mem := rfl
@[simp] theorem State.setPart_memKey (s : State) (k : Nat) (x : Part) : (s.setPart k x).memKey = s.memKey := rfl
@[simp] theorem State.setPart_wrote (s : State) (k : Nat) (x : Part) : (s.setPart k x).wrote = s.wrote := rfl
@[simp] theorem State.setPart_wroteNum (s : State) (k : Nat) (x : Part) : (s.setPart k x).wroteNum = s.wroteNum := rfl
@[simp] theorem State.setPart_memEcc (s : State) (k : Nat) (x : Part) : (s.setPart k x).memEcc = s.memEcc := rfl
@[simp] theorem State.setPart_regions (s : State) (k : Nat) (x : Part) : (s.setPart k x).regions = s.regions := rfl
@[simp] theorem State.setPart_markers (s : State) (k : Nat) (x : Part) : (s.setPart k x).markers = s.markers := rfl
@[simp] theorem State.setPart_clock (s : State) (k : Nat) (x : Part) : (s.setPart k x).clock = s.clock := rfl
@[simp] theorem State.setPart_pace (s : State) (k : Nat) (x : Part) : (s.setPart k x).pace = s.pace := rfl
@[simp] theorem State.setPart_paceLost (s : State) (k : Nat) (x : Part) : (s.setPart k x).paceLost = s.paceLost := rfl
@[simp] theorem State.setPart_paceAge (s : State) (k : Nat) (x : Part) : (s.setPart k x).paceAge = s.paceAge := rfl
@[simp] theorem State.setPart_paceOffset (s : State) (k : Nat) (x : Part) : (s.setPart k x).paceOffset = s.paceOffset := rfl
@[simp] theorem State.setPart_disabled (s : State) (k : Nat) (x : Part) : (s.setPart k x).disabled = s.disabled := rfl
@[simp] theorem State.setPart_power (s : State) (k : Nat) (x : Part) : (s.setPart k x).power = s.power := rfl
@[simp] theorem State.setPart_boot (s : State) (k : Nat) (x : Part) : (s.setPart k x).boot = s.boot := rfl
@[simp] theorem State.setPart_bootHeld (s : State) (k : Nat) (x : Part) : (s.setPart k x).bootHeld = s.bootHeld := rfl
@[simp] theorem State.setPart_fuses (s : State) (k : Nat) (x : Part) : (s.setPart k x).fuses = s.fuses := rfl
@[simp] theorem State.setPart_image (s : State) (k : Nat) (x : Part) : (s.setPart k x).image = s.image := rfl
@[simp] theorem State.setPart_recovery (s : State) (k : Nat) (x : Part) : (s.setPart k x).recovery = s.recovery := rfl
@[simp] theorem State.setPart_hss (s : State) (k : Nat) (x : Part) : (s.setPart k x).hss = s.hss := rfl
@[simp] theorem State.setPart_scores (s : State) (k : Nat) (x : Part) : (s.setPart k x).scores = s.scores := rfl
@[simp] theorem State.setPart_completed (s : State) (k : Nat) (x : Part) : (s.setPart k x).completed = s.completed := rfl
@[simp] theorem State.setPart_hwMsgs (s : State) (k : Nat) (x : Part) : (s.setPart k x).hwMsgs = s.hwMsgs := rfl
@[simp] theorem State.setPart_mgmt (s : State) (k : Nat) (x : Part) : (s.setPart k x).mgmt = s.mgmt := rfl
@[simp] theorem State.setPart_notices (s : State) (k : Nat) (x : Part) : (s.setPart k x).notices = s.notices := rfl
@[simp] theorem State.setPart_replies (s : State) (k : Nat) (x : Part) : (s.setPart k x).replies = s.replies := rfl
@[simp] theorem State.setPart_bindings (s : State) (k : Nat) (x : Part) : (s.setPart k x).bindings = s.bindings := rfl
@[simp] theorem State.setPart_frozenHosts (s : State) (k : Nat) (x : Part) : (s.setPart k x).frozenHosts = s.frozenHosts := rfl
@[simp] theorem State.setPart_routes (s : State) (k : Nat) (x : Part) : (s.setPart k x).routes = s.routes := rfl
@[simp] theorem State.setPart_modNum (s : State) (k : Nat) (x : Part) : (s.setPart k x).modNum = s.modNum := rfl
@[simp] theorem State.setPart_fabOut (s : State) (k : Nat) (x : Part) : (s.setPart k x).fabOut = s.fabOut := rfl
@[simp] theorem State.setPart_extSnap (s : State) (k : Nat) (x : Part) : (s.setPart k x).extSnap = s.extSnap := rfl
@[simp] theorem State.setPart_fwImage (s : State) (k : Nat) (x : Part) : (s.setPart k x).fwImage = s.fwImage := rfl
@[simp] theorem State.setPart_hostQ (s : State) (k : Nat) (x : Part) : (s.setPart k x).hostQ = s.hostQ := rfl
@[simp] theorem State.setPart_fabWait (s : State) (k : Nat) (x : Part) : (s.setPart k x).fabWait = s.fabWait := rfl
@[simp] theorem State.setPart_fabSeq (s : State) (k : Nat) (x : Part) : (s.setPart k x).fabSeq = s.fabSeq := rfl
@[simp] theorem State.setPart_keys (s : State) (k : Nat) (x : Part) : (s.setPart k x).keys = s.keys := rfl
@[simp] theorem State.setPart_pacePhase (s : State) (k : Nat) (x : Part) : (s.setPart k x).pacePhase = s.pacePhase := rfl
@[simp] theorem State.setPart_paceFix (s : State) (k : Nat) (x : Part) : (s.setPart k x).paceFix = s.paceFix := rfl
@[simp] theorem State.setPart_timeMaster (s : State) (k : Nat) (x : Part) : (s.setPart k x).timeMaster = s.timeMaster := rfl
@[simp] theorem State.setPart_turns (s : State) (k : Nat) (x : Part) : (s.setPart k x).turns = s.turns := rfl
@[simp] theorem State.setPart_cur (s : State) (k : Nat) (x : Part) : (s.setPart k x).cur = s.cur := rfl
@[simp] theorem State.setPart_free (s : State) (k : Nat) (x : Part) : (s.setPart k x).free = s.free := rfl
@[simp] theorem State.setPart_trapTag (s : State) (k : Nat) (x : Part) : (s.setPart k x).trapTag = s.trapTag := rfl
@[simp] theorem State.setPart_ctx (s : State) (k j : Nat) (x : Part) : (s.setPart k x).ctx j = s.ctx j := rfl
@[simp] theorem State.setPart_core (s : State) (k j : Nat) (x : Part) : (s.setPart k x).core j = s.core j := rfl
@[simp] theorem State.setPart_cell (s : State) (k j : Nat) (x : Part) : (s.setPart k x).cell j = s.cell j := rfl
@[simp] theorem State.setPart_clu (s : State) (k j : Nat) (x : Part) : (s.setPart k x).clu j = s.clu j := rfl
@[simp] theorem State.setPart_die (s : State) (k j : Nat) (x : Part) : (s.setPart k x).die j = s.die j := rfl
@[simp] theorem State.setPart_shareSet (s : State) (k j : Nat) (x : Part) : (s.setPart k x).shareSet j = s.shareSet j := rfl
@[simp] theorem State.setPart_part_same (s : State) (k : Nat) (x : Part) : (s.setPart k x).part k = x :=
  SMap.get_set_same _ _ _ _
theorem State.setPart_part_other (s : State) (k j : Nat) (x : Part) (h : j ≠ k) : (s.setPart k x).part j = s.part j :=
  SMap.get_set_other _ _ _ _ _ h
@[simp] theorem State.setPart_setPart (s : State) (k : Nat) (x y : Part) : (s.setPart k x).setPart k y = s.setPart k y := by
  simp [State.setPart]

/-! ### setShare -/

@[simp] theorem State.setShare_ctxs (s : State) (k : Nat) (x : ShareSet) : (s.setShare k x).ctxs = s.ctxs := rfl
@[simp] theorem State.setShare_cores (s : State) (k : Nat) (x : ShareSet) : (s.setShare k x).cores = s.cores := rfl
@[simp] theorem State.setShare_cells (s : State) (k : Nat) (x : ShareSet) : (s.setShare k x).cells = s.cells := rfl
@[simp] theorem State.setShare_clus (s : State) (k : Nat) (x : ShareSet) : (s.setShare k x).clus = s.clus := rfl
@[simp] theorem State.setShare_dies (s : State) (k : Nat) (x : ShareSet) : (s.setShare k x).dies = s.dies := rfl
@[simp] theorem State.setShare_parts (s : State) (k : Nat) (x : ShareSet) : (s.setShare k x).parts = s.parts := rfl
@[simp] theorem State.setShare_mem (s : State) (k : Nat) (x : ShareSet) : (s.setShare k x).mem = s.mem := rfl
@[simp] theorem State.setShare_memKey (s : State) (k : Nat) (x : ShareSet) : (s.setShare k x).memKey = s.memKey := rfl
@[simp] theorem State.setShare_wrote (s : State) (k : Nat) (x : ShareSet) : (s.setShare k x).wrote = s.wrote := rfl
@[simp] theorem State.setShare_wroteNum (s : State) (k : Nat) (x : ShareSet) : (s.setShare k x).wroteNum = s.wroteNum := rfl
@[simp] theorem State.setShare_memEcc (s : State) (k : Nat) (x : ShareSet) : (s.setShare k x).memEcc = s.memEcc := rfl
@[simp] theorem State.setShare_regions (s : State) (k : Nat) (x : ShareSet) : (s.setShare k x).regions = s.regions := rfl
@[simp] theorem State.setShare_markers (s : State) (k : Nat) (x : ShareSet) : (s.setShare k x).markers = s.markers := rfl
@[simp] theorem State.setShare_clock (s : State) (k : Nat) (x : ShareSet) : (s.setShare k x).clock = s.clock := rfl
@[simp] theorem State.setShare_pace (s : State) (k : Nat) (x : ShareSet) : (s.setShare k x).pace = s.pace := rfl
@[simp] theorem State.setShare_paceLost (s : State) (k : Nat) (x : ShareSet) : (s.setShare k x).paceLost = s.paceLost := rfl
@[simp] theorem State.setShare_paceAge (s : State) (k : Nat) (x : ShareSet) : (s.setShare k x).paceAge = s.paceAge := rfl
@[simp] theorem State.setShare_paceOffset (s : State) (k : Nat) (x : ShareSet) : (s.setShare k x).paceOffset = s.paceOffset := rfl
@[simp] theorem State.setShare_disabled (s : State) (k : Nat) (x : ShareSet) : (s.setShare k x).disabled = s.disabled := rfl
@[simp] theorem State.setShare_power (s : State) (k : Nat) (x : ShareSet) : (s.setShare k x).power = s.power := rfl
@[simp] theorem State.setShare_boot (s : State) (k : Nat) (x : ShareSet) : (s.setShare k x).boot = s.boot := rfl
@[simp] theorem State.setShare_bootHeld (s : State) (k : Nat) (x : ShareSet) : (s.setShare k x).bootHeld = s.bootHeld := rfl
@[simp] theorem State.setShare_fuses (s : State) (k : Nat) (x : ShareSet) : (s.setShare k x).fuses = s.fuses := rfl
@[simp] theorem State.setShare_image (s : State) (k : Nat) (x : ShareSet) : (s.setShare k x).image = s.image := rfl
@[simp] theorem State.setShare_recovery (s : State) (k : Nat) (x : ShareSet) : (s.setShare k x).recovery = s.recovery := rfl
@[simp] theorem State.setShare_hss (s : State) (k : Nat) (x : ShareSet) : (s.setShare k x).hss = s.hss := rfl
@[simp] theorem State.setShare_scores (s : State) (k : Nat) (x : ShareSet) : (s.setShare k x).scores = s.scores := rfl
@[simp] theorem State.setShare_completed (s : State) (k : Nat) (x : ShareSet) : (s.setShare k x).completed = s.completed := rfl
@[simp] theorem State.setShare_hwMsgs (s : State) (k : Nat) (x : ShareSet) : (s.setShare k x).hwMsgs = s.hwMsgs := rfl
@[simp] theorem State.setShare_mgmt (s : State) (k : Nat) (x : ShareSet) : (s.setShare k x).mgmt = s.mgmt := rfl
@[simp] theorem State.setShare_notices (s : State) (k : Nat) (x : ShareSet) : (s.setShare k x).notices = s.notices := rfl
@[simp] theorem State.setShare_replies (s : State) (k : Nat) (x : ShareSet) : (s.setShare k x).replies = s.replies := rfl
@[simp] theorem State.setShare_bindings (s : State) (k : Nat) (x : ShareSet) : (s.setShare k x).bindings = s.bindings := rfl
@[simp] theorem State.setShare_frozenHosts (s : State) (k : Nat) (x : ShareSet) : (s.setShare k x).frozenHosts = s.frozenHosts := rfl
@[simp] theorem State.setShare_routes (s : State) (k : Nat) (x : ShareSet) : (s.setShare k x).routes = s.routes := rfl
@[simp] theorem State.setShare_modNum (s : State) (k : Nat) (x : ShareSet) : (s.setShare k x).modNum = s.modNum := rfl
@[simp] theorem State.setShare_fabOut (s : State) (k : Nat) (x : ShareSet) : (s.setShare k x).fabOut = s.fabOut := rfl
@[simp] theorem State.setShare_extSnap (s : State) (k : Nat) (x : ShareSet) : (s.setShare k x).extSnap = s.extSnap := rfl
@[simp] theorem State.setShare_fwImage (s : State) (k : Nat) (x : ShareSet) : (s.setShare k x).fwImage = s.fwImage := rfl
@[simp] theorem State.setShare_hostQ (s : State) (k : Nat) (x : ShareSet) : (s.setShare k x).hostQ = s.hostQ := rfl
@[simp] theorem State.setShare_fabWait (s : State) (k : Nat) (x : ShareSet) : (s.setShare k x).fabWait = s.fabWait := rfl
@[simp] theorem State.setShare_fabSeq (s : State) (k : Nat) (x : ShareSet) : (s.setShare k x).fabSeq = s.fabSeq := rfl
@[simp] theorem State.setShare_keys (s : State) (k : Nat) (x : ShareSet) : (s.setShare k x).keys = s.keys := rfl
@[simp] theorem State.setShare_pacePhase (s : State) (k : Nat) (x : ShareSet) : (s.setShare k x).pacePhase = s.pacePhase := rfl
@[simp] theorem State.setShare_paceFix (s : State) (k : Nat) (x : ShareSet) : (s.setShare k x).paceFix = s.paceFix := rfl
@[simp] theorem State.setShare_timeMaster (s : State) (k : Nat) (x : ShareSet) : (s.setShare k x).timeMaster = s.timeMaster := rfl
@[simp] theorem State.setShare_turns (s : State) (k : Nat) (x : ShareSet) : (s.setShare k x).turns = s.turns := rfl
@[simp] theorem State.setShare_cur (s : State) (k : Nat) (x : ShareSet) : (s.setShare k x).cur = s.cur := rfl
@[simp] theorem State.setShare_free (s : State) (k : Nat) (x : ShareSet) : (s.setShare k x).free = s.free := rfl
@[simp] theorem State.setShare_trapTag (s : State) (k : Nat) (x : ShareSet) : (s.setShare k x).trapTag = s.trapTag := rfl
@[simp] theorem State.setShare_ctx (s : State) (k j : Nat) (x : ShareSet) : (s.setShare k x).ctx j = s.ctx j := rfl
@[simp] theorem State.setShare_core (s : State) (k j : Nat) (x : ShareSet) : (s.setShare k x).core j = s.core j := rfl
@[simp] theorem State.setShare_cell (s : State) (k j : Nat) (x : ShareSet) : (s.setShare k x).cell j = s.cell j := rfl
@[simp] theorem State.setShare_clu (s : State) (k j : Nat) (x : ShareSet) : (s.setShare k x).clu j = s.clu j := rfl
@[simp] theorem State.setShare_die (s : State) (k j : Nat) (x : ShareSet) : (s.setShare k x).die j = s.die j := rfl
@[simp] theorem State.setShare_part (s : State) (k j : Nat) (x : ShareSet) : (s.setShare k x).part j = s.part j := rfl
@[simp] theorem State.setShare_shareSet_same (s : State) (k : Nat) (x : ShareSet) : (s.setShare k x).shareSet k = x :=
  SMap.get_set_same _ _ _ _
theorem State.setShare_shareSet_other (s : State) (k j : Nat) (x : ShareSet) (h : j ≠ k) : (s.setShare k x).shareSet j = s.shareSet j :=
  SMap.get_set_other _ _ _ _ _ h
@[simp] theorem State.setShare_setShare (s : State) (k : Nat) (x y : ShareSet) : (s.setShare k x).setShare k y = s.setShare k y := by
  simp [State.setShare]

/-! ### The current context -/

@[simp] theorem State.setCx_cx (s : State) (x : Ctx) : (s.setCx x).cx = x := SMap.get_set_same _ _ _ _
@[simp] theorem State.setCx_cur (s : State) (x : Ctx) : (s.setCx x).cur = s.cur := rfl
@[simp] theorem State.setCx_mem (s : State) (x : Ctx) : (s.setCx x).mem = s.mem := rfl
@[simp] theorem State.setCx_setCx (s : State) (x y : Ctx) : (s.setCx x).setCx y = s.setCx y := by simp [State.setCx]
theorem State.setCx_ctx (s : State) (x : Ctx) (k : Nat) : (s.setCx x).ctx k = if k = s.cur then x else s.ctx k :=
  SMap.get_set _ _ _ _ _
@[simp] theorem State.bump_ctx (s : State) (n k : Nat) : (s.bump n).ctx k = s.ctx k := rfl
@[simp] theorem State.bump_cx (s : State) (n : Nat) : (s.bump n).cx = s.cx := rfl
@[simp] theorem State.bump_mem (s : State) (n : Nat) : (s.bump n).mem = s.mem := rfl
@[simp] theorem State.bump_cur (s : State) (n : Nat) : (s.bump n).cur = s.cur := rfl
@[simp] theorem State.bump_free (s : State) (n : Nat) : (s.bump n).free = s.free + n := rfl

/-! ### Registers of a context -/

@[simp] theorem Ctx.setS_cs (x : Ctx) (r : BitVec 5) (v : Word) : (x.setS r v).cs = x.cs := by
  unfold Ctx.setS; split <;> rfl
@[simp] theorem Ctx.setS_pc (x : Ctx) (r : BitVec 5) (v : Word) : (x.setS r v).pc = x.pc := by
  unfold Ctx.setS; split <;> rfl
@[simp] theorem Ctx.setS_vreg (x : Ctx) (r : BitVec 5) (v : Word) : (x.setS r v).vreg = x.vreg := by
  unfold Ctx.setS; split <;> rfl
@[simp] theorem Ctx.setS_mreg (x : Ctx) (r : BitVec 5) (v : Word) : (x.setS r v).mreg = x.mreg := by
  unfold Ctx.setS; split <;> rfl
@[simp] theorem Ctx.setS_ereg (x : Ctx) (r : BitVec 5) (v : Word) : (x.setS r v).ereg = x.ereg := by
  unfold Ctx.setS; split <;> rfl
@[simp] theorem Ctx.setS_st (x : Ctx) (r : BitVec 5) (v : Word) : (x.setS r v).st = x.st := by
  unfold Ctx.setS; split <;> rfl
@[simp] theorem Ctx.setS_cause (x : Ctx) (r : BitVec 5) (v : Word) : (x.setS r v).cause = x.cause := by
  unfold Ctx.setS; split <;> rfl
@[simp] theorem Ctx.setS_epc (x : Ctx) (r : BitVec 5) (v : Word) : (x.setS r v).epc = x.epc := by
  unfold Ctx.setS; split <;> rfl
@[simp] theorem Ctx.setS_tvec (x : Ctx) (r : BitVec 5) (v : Word) : (x.setS r v).tvec = x.tvec := by
  unfold Ctx.setS; split <;> rfl
@[simp] theorem Ctx.setS_wid (x : Ctx) (r : BitVec 5) (v : Word) : (x.setS r v).wid = x.wid := by
  unfold Ctx.setS; split <;> rfl
@[simp] theorem Ctx.setS_widw (x : Ctx) (r : BitVec 5) (v : Word) : (x.setS r v).widw = x.widw := by
  unfold Ctx.setS; split <;> rfl
@[simp] theorem Ctx.setS_tenant (x : Ctx) (r : BitVec 5) (v : Word) : (x.setS r v).tenant = x.tenant := by
  unfold Ctx.setS; split <;> rfl
@[simp] theorem Ctx.setS_deadl (x : Ctx) (r : BitVec 5) (v : Word) : (x.setS r v).deadl = x.deadl := by
  unfold Ctx.setS; split <;> rfl
@[simp] theorem Ctx.setS_keyh (x : Ctx) (r : BitVec 5) (v : Word) : (x.setS r v).keyh = x.keyh := by
  unfold Ctx.setS; split <;> rfl
@[simp] theorem Ctx.setS_opstop (x : Ctx) (r : BitVec 5) (v : Word) : (x.setS r v).opstop = x.opstop := by
  unfold Ctx.setS; split <;> rfl
@[simp] theorem Ctx.setS_loops (x : Ctx) (r : BitVec 5) (v : Word) : (x.setS r v).loops = x.loops := by
  unfold Ctx.setS; split <;> rfl
@[simp] theorem Ctx.setS_rep (x : Ctx) (r : BitVec 5) (v : Word) : (x.setS r v).rep = x.rep := by
  unfold Ctx.setS; split <;> rfl
@[simp] theorem Ctx.setS_seqr (x : Ctx) (r : BitVec 5) (v : Word) : (x.setS r v).seqr = x.seqr := by
  unfold Ctx.setS; split <;> rfl
@[simp] theorem Ctx.setS_apend (x : Ctx) (r : BitVec 5) (v : Word) : (x.setS r v).apend = x.apend := by
  unfold Ctx.setS; split <;> rfl
@[simp] theorem Ctx.setS_deferred (x : Ctx) (r : BitVec 5) (v : Word) : (x.setS r v).deferred = x.deferred := by
  unfold Ctx.setS; split <;> rfl
@[simp] theorem Ctx.setS_outl (x : Ctx) (r : BitVec 5) (v : Word) : (x.setS r v).outl = x.outl := by
  unfold Ctx.setS; split <;> rfl
@[simp] theorem Ctx.setS_watch (x : Ctx) (r : BitVec 5) (v : Word) : (x.setS r v).watch = x.watch := by
  unfold Ctx.setS; split <;> rfl
@[simp] theorem Ctx.setS_reasons (x : Ctx) (r : BitVec 5) (v : Word) : (x.setS r v).reasons = x.reasons := by
  unfold Ctx.setS; split <;> rfl
@[simp] theorem Ctx.setS_resume (x : Ctx) (r : BitVec 5) (v : Word) : (x.setS r v).resume = x.resume := by
  unfold Ctx.setS; split <;> rfl
@[simp] theorem Ctx.setS_modCnt (x : Ctx) (r : BitVec 5) (v : Word) : (x.setS r v).modCnt = x.modCnt := by
  unfold Ctx.setS; split <;> rfl
@[simp] theorem Ctx.setS_sysCnt (x : Ctx) (r : BitVec 5) (v : Word) : (x.setS r v).sysCnt = x.sysCnt := by
  unfold Ctx.setS; split <;> rfl
@[simp] theorem Ctx.setS_relq (x : Ctx) (r : BitVec 5) (v : Word) : (x.setS r v).relq = x.relq := by
  unfold Ctx.setS; split <;> rfl
@[simp] theorem Ctx.setS_seen (x : Ctx) (r : BitVec 5) (v : Word) : (x.setS r v).seen = x.seen := by
  unfold Ctx.setS; split <;> rfl
@[simp] theorem Ctx.setS_pendR (x : Ctx) (r : BitVec 5) (v : Word) : (x.setS r v).pendR = x.pendR := by
  unfold Ctx.setS; split <;> rfl
@[simp] theorem Ctx.setS_gang (x : Ctx) (r : BitVec 5) (v : Word) : (x.setS r v).gang = x.gang := by
  unfold Ctx.setS; split <;> rfl
@[simp] theorem Ctx.setS_task (x : Ctx) (r : BitVec 5) (v : Word) : (x.setS r v).task = x.task := by
  unfold Ctx.setS; split <;> rfl
@[simp] theorem Ctx.setS_lastIssue (x : Ctx) (r : BitVec 5) (v : Word) : (x.setS r v).lastIssue = x.lastIssue := by
  unfold Ctx.setS; split <;> rfl
@[simp] theorem Ctx.setV_cs (x : Ctx) (r : BitVec 5) (v : Vector W32 8) : (x.setV r v).cs = x.cs := rfl
@[simp] theorem Ctx.setV_pc (x : Ctx) (r : BitVec 5) (v : Vector W32 8) : (x.setV r v).pc = x.pc := rfl
@[simp] theorem Ctx.setV_sreg (x : Ctx) (r : BitVec 5) (v : Vector W32 8) : (x.setV r v).sreg = x.sreg := rfl
@[simp] theorem Ctx.setV_mreg (x : Ctx) (r : BitVec 5) (v : Vector W32 8) : (x.setV r v).mreg = x.mreg := rfl
@[simp] theorem Ctx.setV_ereg (x : Ctx) (r : BitVec 5) (v : Vector W32 8) : (x.setV r v).ereg = x.ereg := rfl
@[simp] theorem Ctx.setV_st (x : Ctx) (r : BitVec 5) (v : Vector W32 8) : (x.setV r v).st = x.st := rfl
@[simp] theorem Ctx.setV_cause (x : Ctx) (r : BitVec 5) (v : Vector W32 8) : (x.setV r v).cause = x.cause := rfl
@[simp] theorem Ctx.setV_epc (x : Ctx) (r : BitVec 5) (v : Vector W32 8) : (x.setV r v).epc = x.epc := rfl
@[simp] theorem Ctx.setV_tvec (x : Ctx) (r : BitVec 5) (v : Vector W32 8) : (x.setV r v).tvec = x.tvec := rfl
@[simp] theorem Ctx.setV_wid (x : Ctx) (r : BitVec 5) (v : Vector W32 8) : (x.setV r v).wid = x.wid := rfl
@[simp] theorem Ctx.setV_widw (x : Ctx) (r : BitVec 5) (v : Vector W32 8) : (x.setV r v).widw = x.widw := rfl
@[simp] theorem Ctx.setV_tenant (x : Ctx) (r : BitVec 5) (v : Vector W32 8) : (x.setV r v).tenant = x.tenant := rfl
@[simp] theorem Ctx.setV_deadl (x : Ctx) (r : BitVec 5) (v : Vector W32 8) : (x.setV r v).deadl = x.deadl := rfl
@[simp] theorem Ctx.setV_keyh (x : Ctx) (r : BitVec 5) (v : Vector W32 8) : (x.setV r v).keyh = x.keyh := rfl
@[simp] theorem Ctx.setV_opstop (x : Ctx) (r : BitVec 5) (v : Vector W32 8) : (x.setV r v).opstop = x.opstop := rfl
@[simp] theorem Ctx.setV_loops (x : Ctx) (r : BitVec 5) (v : Vector W32 8) : (x.setV r v).loops = x.loops := rfl
@[simp] theorem Ctx.setV_rep (x : Ctx) (r : BitVec 5) (v : Vector W32 8) : (x.setV r v).rep = x.rep := rfl
@[simp] theorem Ctx.setV_seqr (x : Ctx) (r : BitVec 5) (v : Vector W32 8) : (x.setV r v).seqr = x.seqr := rfl
@[simp] theorem Ctx.setV_apend (x : Ctx) (r : BitVec 5) (v : Vector W32 8) : (x.setV r v).apend = x.apend := rfl
@[simp] theorem Ctx.setV_deferred (x : Ctx) (r : BitVec 5) (v : Vector W32 8) : (x.setV r v).deferred = x.deferred := rfl
@[simp] theorem Ctx.setV_outl (x : Ctx) (r : BitVec 5) (v : Vector W32 8) : (x.setV r v).outl = x.outl := rfl
@[simp] theorem Ctx.setV_watch (x : Ctx) (r : BitVec 5) (v : Vector W32 8) : (x.setV r v).watch = x.watch := rfl
@[simp] theorem Ctx.setV_reasons (x : Ctx) (r : BitVec 5) (v : Vector W32 8) : (x.setV r v).reasons = x.reasons := rfl
@[simp] theorem Ctx.setV_resume (x : Ctx) (r : BitVec 5) (v : Vector W32 8) : (x.setV r v).resume = x.resume := rfl
@[simp] theorem Ctx.setV_modCnt (x : Ctx) (r : BitVec 5) (v : Vector W32 8) : (x.setV r v).modCnt = x.modCnt := rfl
@[simp] theorem Ctx.setV_sysCnt (x : Ctx) (r : BitVec 5) (v : Vector W32 8) : (x.setV r v).sysCnt = x.sysCnt := rfl
@[simp] theorem Ctx.setV_relq (x : Ctx) (r : BitVec 5) (v : Vector W32 8) : (x.setV r v).relq = x.relq := rfl
@[simp] theorem Ctx.setV_seen (x : Ctx) (r : BitVec 5) (v : Vector W32 8) : (x.setV r v).seen = x.seen := rfl
@[simp] theorem Ctx.setV_pendR (x : Ctx) (r : BitVec 5) (v : Vector W32 8) : (x.setV r v).pendR = x.pendR := rfl
@[simp] theorem Ctx.setV_gang (x : Ctx) (r : BitVec 5) (v : Vector W32 8) : (x.setV r v).gang = x.gang := rfl
@[simp] theorem Ctx.setV_task (x : Ctx) (r : BitVec 5) (v : Vector W32 8) : (x.setV r v).task = x.task := rfl
@[simp] theorem Ctx.setV_lastIssue (x : Ctx) (r : BitVec 5) (v : Vector W32 8) : (x.setV r v).lastIssue = x.lastIssue := rfl
@[simp] theorem Ctx.setM_cs (x : Ctx) (r : BitVec 3) (v : Byte) : (x.setM r v).cs = x.cs := rfl
@[simp] theorem Ctx.setM_pc (x : Ctx) (r : BitVec 3) (v : Byte) : (x.setM r v).pc = x.pc := rfl
@[simp] theorem Ctx.setM_sreg (x : Ctx) (r : BitVec 3) (v : Byte) : (x.setM r v).sreg = x.sreg := rfl
@[simp] theorem Ctx.setM_vreg (x : Ctx) (r : BitVec 3) (v : Byte) : (x.setM r v).vreg = x.vreg := rfl
@[simp] theorem Ctx.setM_ereg (x : Ctx) (r : BitVec 3) (v : Byte) : (x.setM r v).ereg = x.ereg := rfl
@[simp] theorem Ctx.setM_st (x : Ctx) (r : BitVec 3) (v : Byte) : (x.setM r v).st = x.st := rfl
@[simp] theorem Ctx.setM_cause (x : Ctx) (r : BitVec 3) (v : Byte) : (x.setM r v).cause = x.cause := rfl
@[simp] theorem Ctx.setM_epc (x : Ctx) (r : BitVec 3) (v : Byte) : (x.setM r v).epc = x.epc := rfl
@[simp] theorem Ctx.setM_tvec (x : Ctx) (r : BitVec 3) (v : Byte) : (x.setM r v).tvec = x.tvec := rfl
@[simp] theorem Ctx.setM_wid (x : Ctx) (r : BitVec 3) (v : Byte) : (x.setM r v).wid = x.wid := rfl
@[simp] theorem Ctx.setM_widw (x : Ctx) (r : BitVec 3) (v : Byte) : (x.setM r v).widw = x.widw := rfl
@[simp] theorem Ctx.setM_tenant (x : Ctx) (r : BitVec 3) (v : Byte) : (x.setM r v).tenant = x.tenant := rfl
@[simp] theorem Ctx.setM_deadl (x : Ctx) (r : BitVec 3) (v : Byte) : (x.setM r v).deadl = x.deadl := rfl
@[simp] theorem Ctx.setM_keyh (x : Ctx) (r : BitVec 3) (v : Byte) : (x.setM r v).keyh = x.keyh := rfl
@[simp] theorem Ctx.setM_opstop (x : Ctx) (r : BitVec 3) (v : Byte) : (x.setM r v).opstop = x.opstop := rfl
@[simp] theorem Ctx.setM_loops (x : Ctx) (r : BitVec 3) (v : Byte) : (x.setM r v).loops = x.loops := rfl
@[simp] theorem Ctx.setM_rep (x : Ctx) (r : BitVec 3) (v : Byte) : (x.setM r v).rep = x.rep := rfl
@[simp] theorem Ctx.setM_seqr (x : Ctx) (r : BitVec 3) (v : Byte) : (x.setM r v).seqr = x.seqr := rfl
@[simp] theorem Ctx.setM_apend (x : Ctx) (r : BitVec 3) (v : Byte) : (x.setM r v).apend = x.apend := rfl
@[simp] theorem Ctx.setM_deferred (x : Ctx) (r : BitVec 3) (v : Byte) : (x.setM r v).deferred = x.deferred := rfl
@[simp] theorem Ctx.setM_outl (x : Ctx) (r : BitVec 3) (v : Byte) : (x.setM r v).outl = x.outl := rfl
@[simp] theorem Ctx.setM_watch (x : Ctx) (r : BitVec 3) (v : Byte) : (x.setM r v).watch = x.watch := rfl
@[simp] theorem Ctx.setM_reasons (x : Ctx) (r : BitVec 3) (v : Byte) : (x.setM r v).reasons = x.reasons := rfl
@[simp] theorem Ctx.setM_resume (x : Ctx) (r : BitVec 3) (v : Byte) : (x.setM r v).resume = x.resume := rfl
@[simp] theorem Ctx.setM_modCnt (x : Ctx) (r : BitVec 3) (v : Byte) : (x.setM r v).modCnt = x.modCnt := rfl
@[simp] theorem Ctx.setM_sysCnt (x : Ctx) (r : BitVec 3) (v : Byte) : (x.setM r v).sysCnt = x.sysCnt := rfl
@[simp] theorem Ctx.setM_relq (x : Ctx) (r : BitVec 3) (v : Byte) : (x.setM r v).relq = x.relq := rfl
@[simp] theorem Ctx.setM_seen (x : Ctx) (r : BitVec 3) (v : Byte) : (x.setM r v).seen = x.seen := rfl
@[simp] theorem Ctx.setM_pendR (x : Ctx) (r : BitVec 3) (v : Byte) : (x.setM r v).pendR = x.pendR := rfl
@[simp] theorem Ctx.setM_gang (x : Ctx) (r : BitVec 3) (v : Byte) : (x.setM r v).gang = x.gang := rfl
@[simp] theorem Ctx.setM_task (x : Ctx) (r : BitVec 3) (v : Byte) : (x.setM r v).task = x.task := rfl
@[simp] theorem Ctx.setM_lastIssue (x : Ctx) (r : BitVec 3) (v : Byte) : (x.setM r v).lastIssue = x.lastIssue := rfl
@[simp] theorem Ctx.setE_cs (x : Ctx) (r : BitVec 3) (v : Word) : (x.setE r v).cs = x.cs := rfl
@[simp] theorem Ctx.setE_pc (x : Ctx) (r : BitVec 3) (v : Word) : (x.setE r v).pc = x.pc := rfl
@[simp] theorem Ctx.setE_sreg (x : Ctx) (r : BitVec 3) (v : Word) : (x.setE r v).sreg = x.sreg := rfl
@[simp] theorem Ctx.setE_vreg (x : Ctx) (r : BitVec 3) (v : Word) : (x.setE r v).vreg = x.vreg := rfl
@[simp] theorem Ctx.setE_mreg (x : Ctx) (r : BitVec 3) (v : Word) : (x.setE r v).mreg = x.mreg := rfl
@[simp] theorem Ctx.setE_st (x : Ctx) (r : BitVec 3) (v : Word) : (x.setE r v).st = x.st := rfl
@[simp] theorem Ctx.setE_cause (x : Ctx) (r : BitVec 3) (v : Word) : (x.setE r v).cause = x.cause := rfl
@[simp] theorem Ctx.setE_epc (x : Ctx) (r : BitVec 3) (v : Word) : (x.setE r v).epc = x.epc := rfl
@[simp] theorem Ctx.setE_tvec (x : Ctx) (r : BitVec 3) (v : Word) : (x.setE r v).tvec = x.tvec := rfl
@[simp] theorem Ctx.setE_wid (x : Ctx) (r : BitVec 3) (v : Word) : (x.setE r v).wid = x.wid := rfl
@[simp] theorem Ctx.setE_widw (x : Ctx) (r : BitVec 3) (v : Word) : (x.setE r v).widw = x.widw := rfl
@[simp] theorem Ctx.setE_tenant (x : Ctx) (r : BitVec 3) (v : Word) : (x.setE r v).tenant = x.tenant := rfl
@[simp] theorem Ctx.setE_deadl (x : Ctx) (r : BitVec 3) (v : Word) : (x.setE r v).deadl = x.deadl := rfl
@[simp] theorem Ctx.setE_keyh (x : Ctx) (r : BitVec 3) (v : Word) : (x.setE r v).keyh = x.keyh := rfl
@[simp] theorem Ctx.setE_opstop (x : Ctx) (r : BitVec 3) (v : Word) : (x.setE r v).opstop = x.opstop := rfl
@[simp] theorem Ctx.setE_loops (x : Ctx) (r : BitVec 3) (v : Word) : (x.setE r v).loops = x.loops := rfl
@[simp] theorem Ctx.setE_rep (x : Ctx) (r : BitVec 3) (v : Word) : (x.setE r v).rep = x.rep := rfl
@[simp] theorem Ctx.setE_seqr (x : Ctx) (r : BitVec 3) (v : Word) : (x.setE r v).seqr = x.seqr := rfl
@[simp] theorem Ctx.setE_apend (x : Ctx) (r : BitVec 3) (v : Word) : (x.setE r v).apend = x.apend := rfl
@[simp] theorem Ctx.setE_deferred (x : Ctx) (r : BitVec 3) (v : Word) : (x.setE r v).deferred = x.deferred := rfl
@[simp] theorem Ctx.setE_outl (x : Ctx) (r : BitVec 3) (v : Word) : (x.setE r v).outl = x.outl := rfl
@[simp] theorem Ctx.setE_watch (x : Ctx) (r : BitVec 3) (v : Word) : (x.setE r v).watch = x.watch := rfl
@[simp] theorem Ctx.setE_reasons (x : Ctx) (r : BitVec 3) (v : Word) : (x.setE r v).reasons = x.reasons := rfl
@[simp] theorem Ctx.setE_resume (x : Ctx) (r : BitVec 3) (v : Word) : (x.setE r v).resume = x.resume := rfl
@[simp] theorem Ctx.setE_modCnt (x : Ctx) (r : BitVec 3) (v : Word) : (x.setE r v).modCnt = x.modCnt := rfl
@[simp] theorem Ctx.setE_sysCnt (x : Ctx) (r : BitVec 3) (v : Word) : (x.setE r v).sysCnt = x.sysCnt := rfl
@[simp] theorem Ctx.setE_relq (x : Ctx) (r : BitVec 3) (v : Word) : (x.setE r v).relq = x.relq := rfl
@[simp] theorem Ctx.setE_seen (x : Ctx) (r : BitVec 3) (v : Word) : (x.setE r v).seen = x.seen := rfl
@[simp] theorem Ctx.setE_pendR (x : Ctx) (r : BitVec 3) (v : Word) : (x.setE r v).pendR = x.pendR := rfl
@[simp] theorem Ctx.setE_gang (x : Ctx) (r : BitVec 3) (v : Word) : (x.setE r v).gang = x.gang := rfl
@[simp] theorem Ctx.setE_task (x : Ctx) (r : BitVec 3) (v : Word) : (x.setE r v).task = x.task := rfl
@[simp] theorem Ctx.setE_lastIssue (x : Ctx) (r : BitVec 3) (v : Word) : (x.setE r v).lastIssue = x.lastIssue := rfl
@[simp] theorem Ctx.advance_cs (x : Ctx) (len : Nat) : (x.advance len).cs = x.cs := by
  unfold Ctx.advance; (repeat' split) <;> rfl
@[simp] theorem Ctx.advance_sreg (x : Ctx) (len : Nat) : (x.advance len).sreg = x.sreg := by
  unfold Ctx.advance; (repeat' split) <;> rfl
@[simp] theorem Ctx.advance_vreg (x : Ctx) (len : Nat) : (x.advance len).vreg = x.vreg := by
  unfold Ctx.advance; (repeat' split) <;> rfl
@[simp] theorem Ctx.advance_mreg (x : Ctx) (len : Nat) : (x.advance len).mreg = x.mreg := by
  unfold Ctx.advance; (repeat' split) <;> rfl
@[simp] theorem Ctx.advance_ereg (x : Ctx) (len : Nat) : (x.advance len).ereg = x.ereg := by
  unfold Ctx.advance; (repeat' split) <;> rfl
@[simp] theorem Ctx.advance_st (x : Ctx) (len : Nat) : (x.advance len).st = x.st := by
  unfold Ctx.advance; (repeat' split) <;> rfl
@[simp] theorem Ctx.advance_cause (x : Ctx) (len : Nat) : (x.advance len).cause = x.cause := by
  unfold Ctx.advance; (repeat' split) <;> rfl
@[simp] theorem Ctx.advance_epc (x : Ctx) (len : Nat) : (x.advance len).epc = x.epc := by
  unfold Ctx.advance; (repeat' split) <;> rfl
@[simp] theorem Ctx.advance_tvec (x : Ctx) (len : Nat) : (x.advance len).tvec = x.tvec := by
  unfold Ctx.advance; (repeat' split) <;> rfl
@[simp] theorem Ctx.advance_wid (x : Ctx) (len : Nat) : (x.advance len).wid = x.wid := by
  unfold Ctx.advance; (repeat' split) <;> rfl
@[simp] theorem Ctx.advance_widw (x : Ctx) (len : Nat) : (x.advance len).widw = x.widw := by
  unfold Ctx.advance; (repeat' split) <;> rfl
@[simp] theorem Ctx.advance_tenant (x : Ctx) (len : Nat) : (x.advance len).tenant = x.tenant := by
  unfold Ctx.advance; (repeat' split) <;> rfl
@[simp] theorem Ctx.advance_deadl (x : Ctx) (len : Nat) : (x.advance len).deadl = x.deadl := by
  unfold Ctx.advance; (repeat' split) <;> rfl
@[simp] theorem Ctx.advance_keyh (x : Ctx) (len : Nat) : (x.advance len).keyh = x.keyh := by
  unfold Ctx.advance; (repeat' split) <;> rfl
@[simp] theorem Ctx.advance_opstop (x : Ctx) (len : Nat) : (x.advance len).opstop = x.opstop := by
  unfold Ctx.advance; (repeat' split) <;> rfl
@[simp] theorem Ctx.advance_rep (x : Ctx) (len : Nat) : (x.advance len).rep = x.rep := by
  unfold Ctx.advance; (repeat' split) <;> rfl
@[simp] theorem Ctx.advance_seqr (x : Ctx) (len : Nat) : (x.advance len).seqr = x.seqr := by
  unfold Ctx.advance; (repeat' split) <;> rfl
@[simp] theorem Ctx.advance_apend (x : Ctx) (len : Nat) : (x.advance len).apend = x.apend := by
  unfold Ctx.advance; (repeat' split) <;> rfl
@[simp] theorem Ctx.advance_deferred (x : Ctx) (len : Nat) : (x.advance len).deferred = x.deferred := by
  unfold Ctx.advance; (repeat' split) <;> rfl
@[simp] theorem Ctx.advance_outl (x : Ctx) (len : Nat) : (x.advance len).outl = x.outl := by
  unfold Ctx.advance; (repeat' split) <;> rfl
@[simp] theorem Ctx.advance_watch (x : Ctx) (len : Nat) : (x.advance len).watch = x.watch := by
  unfold Ctx.advance; (repeat' split) <;> rfl
@[simp] theorem Ctx.advance_reasons (x : Ctx) (len : Nat) : (x.advance len).reasons = x.reasons := by
  unfold Ctx.advance; (repeat' split) <;> rfl
@[simp] theorem Ctx.advance_resume (x : Ctx) (len : Nat) : (x.advance len).resume = x.resume := by
  unfold Ctx.advance; (repeat' split) <;> rfl
@[simp] theorem Ctx.advance_modCnt (x : Ctx) (len : Nat) : (x.advance len).modCnt = x.modCnt := by
  unfold Ctx.advance; (repeat' split) <;> rfl
@[simp] theorem Ctx.advance_sysCnt (x : Ctx) (len : Nat) : (x.advance len).sysCnt = x.sysCnt := by
  unfold Ctx.advance; (repeat' split) <;> rfl
@[simp] theorem Ctx.advance_relq (x : Ctx) (len : Nat) : (x.advance len).relq = x.relq := by
  unfold Ctx.advance; (repeat' split) <;> rfl
@[simp] theorem Ctx.advance_seen (x : Ctx) (len : Nat) : (x.advance len).seen = x.seen := by
  unfold Ctx.advance; (repeat' split) <;> rfl
@[simp] theorem Ctx.advance_pendR (x : Ctx) (len : Nat) : (x.advance len).pendR = x.pendR := by
  unfold Ctx.advance; (repeat' split) <;> rfl
@[simp] theorem Ctx.advance_gang (x : Ctx) (len : Nat) : (x.advance len).gang = x.gang := by
  unfold Ctx.advance; (repeat' split) <;> rfl
@[simp] theorem Ctx.advance_task (x : Ctx) (len : Nat) : (x.advance len).task = x.task := by
  unfold Ctx.advance; (repeat' split) <;> rfl
@[simp] theorem Ctx.advance_lastIssue (x : Ctx) (len : Nat) : (x.advance len).lastIssue = x.lastIssue := by
  unfold Ctx.advance; (repeat' split) <;> rfl

/-- S(r) after a write: s0 reads as zero and takes no value. -/
theorem Ctx.s_setS (x : Ctx) (d r : BitVec 5) (v : Word) : (x.setS d v).s r = if r = d ∧ d ≠ 0 then v else x.s r := by
  unfold Ctx.setS
  by_cases hd : d = 0
  · rw [if_pos hd, if_neg (fun h => h.2 hd)]
  · rw [if_neg hd]
    unfold Ctx.s
    by_cases hr : r = d
    · subst hr
      rw [if_neg hd, if_pos ⟨rfl, hd⟩]
      exact Vector.getElem_set_self _
    · have hn : d.toNat ≠ r.toNat := fun h => hr (BitVec.eq_of_toNat_eq h.symm)
      rw [show (if r = d ∧ d ≠ 0 then v else if r = 0 then 0 else x.sreg[r.toNat]) = (if r = 0 then 0 else x.sreg[r.toNat]) from
        if_neg (fun h => hr h.1)]
      congr 1
      exact Vector.getElem_set_ne d.isLt r.isLt hn

@[simp] theorem Ctx.s_zero (x : Ctx) : x.s 0 = 0 := rfl
@[simp] theorem Ctx.setS_zero (x : Ctx) (v : Word) : x.setS 0 v = x := rfl

@[simp] theorem Ctx.s_advance (x : Ctx) (len : Nat) (r : BitVec 5) : (x.advance len).s r = x.s r := by
  simp [Ctx.s]

theorem Ctx.v_setV (x : Ctx) (d r : BitVec 5) (v : Vector W32 8) : (x.setV d v).v r = if r = d then v else x.v r := by
  unfold Ctx.setV Ctx.v
  by_cases hr : r = d
  · subst hr; simp
  · have hn : ¬ d.toNat = r.toNat := fun h => hr (BitVec.eq_of_toNat_eq h.symm)
    simp [hr, hn]

theorem Ctx.m_setM (x : Ctx) (d r : BitVec 3) (v : Byte) : (x.setM d v).m r = if r = d then v else x.m r := by
  unfold Ctx.setM Ctx.m
  by_cases hr : r = d
  · subst hr; simp
  · have hn : ¬ d.toNat = r.toNat := fun h => hr (BitVec.eq_of_toNat_eq h.symm)
    simp [hr, hn]

theorem Ctx.e_setE (x : Ctx) (d r : BitVec 3) (v : Word) : (x.setE d v).e r = if r = d then v else x.e r := by
  unfold Ctx.setE Ctx.e
  by_cases hr : r = d
  · subst hr; simp
  · have hn : ¬ d.toNat = r.toNat := fun h => hr (BitVec.eq_of_toNat_eq h.symm)
    simp [hr, hn]

/-- Outside a LOOP level the program counter moves past the word. -/
theorem Ctx.advance_pc (x : Ctx) (len : Nat) (h : x.loops = []) : (x.advance len).pc = x.pc + BitVec.ofNat 64 len := by
  simp [Ctx.advance, h]

end Sys2Proof.Machine
end

