-- ==== Sys2Proof/Laws/Ops.lean ====
section
/-! SUPPORT. Laws of the shared operations: what a stop does, what a trap and an asynchronous cause leave as it was, and
that every write of memory keeps its canonical form. -/

namespace Sys2Proof.Machine

/-! ### Checks and outcomes -/

theorem need_ok (p : Bool) (c : CauseRec) : need p c = .ok () ↔ p = true := by cases p <;> simp [need]
theorem await_ok (p : Bool) (w : Wait) : await p w = .ok () ↔ p = true := by cases p <;> simp [await]
@[simp] theorem need_true (c : CauseRec) : need true c = .ok () := rfl
@[simp] theorem await_true (w : Wait) : await true w = .ok () := rfl

/-- A composition answers a value where its first part does and the rest goes on from it. -/
theorem bind_ok {ε α β : Type} (x : Except ε α) (f : α → Except ε β) (r : β) :
    (x >>= f) = .ok r ↔ ∃ a, x = .ok a ∧ f a = .ok r := by
  cases x with
  | ok a => exact ⟨fun h => ⟨a, rfl, h⟩, by rintro ⟨_, hb, h⟩; cases hb; exact h⟩
  | error e => exact ⟨fun h => (by cases h), by rintro ⟨_, hb, _⟩; cases hb⟩

/-- A meaning over `out` always answers a next state. -/
theorem State.out_next (s : State) (r : Except Stop State) : ∃ t, s.out r = .next t := by cases r <;> exact ⟨_, rfl⟩
@[simp] theorem State.out_ok (s t : State) : s.out (.ok t) = .next t := rfl
@[simp] theorem State.out_error (s : State) (e : Stop) : s.out (.error e) = .next (s.stopped e) := rfl

/-! ### What leaves memory alone -/

@[simp] theorem State.notice_mem (s : State) (p : Nat) (w : List Word) : (s.notice p w).mem = s.mem := by
  simp only [State.notice]; split <;> rfl
@[simp] theorem State.causeNotice_mem (s : State) (p : Nat) (c : CauseRec) (src coord : Nat) (epc : Word) (t : Byte) :
    (s.causeNotice p c src coord epc t).mem = s.mem := State.notice_mem _ _ _
@[simp] theorem State.firmware_mem (s : State) (p : Nat) (w : List Word) : (s.firmware p w).mem = s.mem := rfl
@[simp] theorem State.wr_mem (s : State) (n : Nat) (d : BitVec 5) (v : Word) : (s.wr n d v).mem = s.mem := rfl
@[simp] theorem State.skip_mem (s : State) (n : Nat) : (s.skip n).mem = s.mem := rfl
@[simp] theorem State.fire_mem (s : State) (r : Nat) (p : WatchTarget → Bool) : (s.fire r p).mem = s.mem := rfl
@[simp] theorem State.firePhys_mem (s : State) (pa n : Nat) : (s.firePhys pa n).mem = s.mem := rfl
@[simp] theorem State.fireArray_mem (s : State) (c o n : Nat) : (s.fireArray c o n).mem = s.mem := rfl
@[simp] theorem State.putArr_mem (s : State) (c o : Nat) (b : List Byte) : (s.putArr c o b).mem = s.mem := rfl
@[simp] theorem State.addAck_mem (s : State) (k : Nat) (p : Place) : (s.addAck k p).mem = s.mem := by
  simp only [State.addAck]; split <;> rfl
@[simp] theorem State.stampTo_mem (s : State) (a b : Nat) : (s.stampTo a b).mem = s.mem := by
  simp only [State.stampTo]; split <;> rfl
@[simp] theorem State.putScratch_mem (s : State) (c a : Nat) (b : List Byte) : (s.putScratch c a b).mem = s.mem := by
  induction b generalizing s a with
  | nil => rfl
  | cons x t ih => simp only [State.putScratch]; rw [ih]; rfl
@[simp] theorem State.putScratchW_mem (s : State) (c a : Nat) (b : List Byte) : (s.putScratchW c a b).mem = s.mem := by
  simp [State.putScratchW]
/-- A fold of steps that leave memory alone leaves it alone. -/
theorem foldl_mem {α : Type} (f : State → α → State) (h : ∀ s a, (f s a).mem = s.mem) (l : List α) (s : State) :
    (l.foldl f s).mem = s.mem := by
  induction l generalizing s with
  | nil => rfl
  | cons a t ih => rw [List.foldl_cons, ih, h]

/-! The caches and the TLBs hold tags: no fill, eviction or write-back changes a byte. -/

@[simp] theorem State.wakeSlice_mem (s : State) (h : Nat) : (s.wakeSlice h).mem = s.mem := by
  simp only [State.wakeSlice]; split <;> rfl
@[simp] theorem State.nearAlloc_mem (s : State) (pa : Nat) (l : NearLine) : (s.nearAlloc pa l).mem = s.mem := by
  rfl
@[simp] theorem State.nearBack_mem (s : State) (l : L1Line) : (s.nearBack l).mem = s.mem := by
  simp only [State.nearBack]; split
  · rfl
  · split <;> exact State.nearAlloc_mem _ _ _
@[simp] theorem State.evict_mem (s : State) (c l : Nat) : (s.evict c l).mem = s.mem := by
  simp only [State.evict, State.setCore_mem]
  exact foldl_mem _ (fun _ _ => State.nearBack_mem _ _) _ _
@[simp] theorem State.l1Touch_mem (s : State) (c key pa : Nat) (m d : BitVec 4) : (s.l1Touch c key pa m d).mem = s.mem := by
  simp only [State.l1Touch]
  split
  · rfl
  · split
    · rfl
    · simp only [State.setCore_mem]; split
      · exact State.evict_mem _ _ _
      · rfl
@[simp] theorem State.mergeFill_mem (s : State) (pa : Nat) : (s.mergeFill pa).mem = s.mem := by
  simp only [State.mergeFill]
  split
  · rfl
  · split
    · exact (foldl_mem _ (fun _ _ => State.l1Touch_mem _ _ _ _ _ _) _ _).trans rfl
    · split
      · rfl
      · exact (foldl_mem _ (fun _ _ => State.l1Touch_mem _ _ _ _ _ _) _ _).trans rfl
@[simp] theorem State.nearTouch_mem (s : State) (key pa : Nat) (m d : BitVec 4) : (s.nearTouch key pa m d).mem = s.mem := by
  simp only [State.nearTouch]
  split
  · simp
  · (repeat' split) <;> simp
@[simp] theorem State.homeTouch_mem (s : State) (key pa n : Nat) (hb w : Bool) : (s.homeTouch key pa n hb w).mem = s.mem := by
  simp only [State.homeTouch]; split
  · rfl
  · exact foldl_mem _ (fun _ _ => State.nearTouch_mem _ _ _ _ _) _ _
@[simp] theorem State.walkTouch_mem (s : State) (va base : Nat) (l : List (Nat × Nat × Bool)) : (s.walkTouch va l base).mem = s.mem := by
  induction l generalizing s base with
  | nil => rfl
  | cons x t ih => simp only [State.walkTouch]; (repeat' split) <;> simp [ih]
@[simp] theorem State.fetchTouch_mem (s : State) (c : Nat) (va : Word) : (s.fetchTouch c va).mem = s.mem := by
  simp only [State.fetchTouch]; (repeat' split) <;> simp
@[simp] theorem State.cacheTouch_mem (s : State) (c key pa n : Nat) (past hb w : Bool) : (s.cacheTouch c key pa n past hb w).mem = s.mem := by
  simp only [State.cacheTouch]
  (repeat' split) <;> simp
@[simp] theorem State.coreTlbAdd_mem (s : State) (c p va : Nat) (e : Word) (lg : Nat) : (s.coreTlbAdd c p va e lg).mem = s.mem := rfl
@[simp] theorem State.ctlbAdd_mem (s : State) (c p va : Nat) (e : Word) (lg : Nat) : (s.ctlbAdd c p va e lg).mem = s.mem := rfl
@[simp] theorem State.tlbFill_mem (s : State) (c p : Nat) (va : Word) : (s.tlbFill c p va).mem = s.mem := by
  simp only [State.tlbFill]
  split
  · rfl
  · split
    · rfl
    · split <;> simp
@[simp] theorem State.rankFill_mem (s : State) (c p r : Nat) : (s.rankFill c p r).mem = s.mem := rfl
@[simp] theorem State.rankUse_mem (s : State) (c : Nat) (va : Word) : (s.rankUse c va).mem = s.mem := by
  simp only [State.rankUse]; split <;> rfl
@[simp] theorem State.afterRead_mem (s : State) (c : Nat) (p : Place) (n : Nat) (va : Word) : (s.afterRead c p n va).mem = s.mem := by
  cases p with
  | array _ _ => simp only [State.afterRead, State.rankUse_mem]; split <;> rfl
  | phys _ _ _ _ _ => simp only [State.afterRead, State.tlbFill_mem, State.cacheTouch_mem]; split <;> rfl
  | completion _ => rfl
  | shadow _ => rfl

@[simp] theorem State.exchEnd_mem (s : State) (k : Nat) : (s.exchEnd k).mem = s.mem := by
  simp only [State.exchEnd]; split <;> rfl
@[simp] theorem State.returnTask_mem (s : State) (k : Nat) : (s.returnTask k).mem = s.mem := by
  simp only [State.returnTask]
  split
  · rfl
  · (repeat' split) <;> simp
@[simp] theorem State.endTask_mem (s : State) (k : Nat) : (s.endTask k).mem = s.mem := by
  simp only [State.endTask, State.setCtx_mem, State.setCell_mem, State.setCore_mem, State.returnTask_mem]
  exact foldl_mem _ (fun _ _ => State.causeNotice_mem _ _ _ _ _ _ _) _ _
@[simp] theorem State.dropMq_mem (s : State) (k : Nat) : (s.dropMq k).mem = s.mem := by simp only [State.dropMq]; split <;> rfl
@[simp] theorem State.endHeat_mem (s : State) (k : Nat) (o : Option (Word × Word)) : (s.endHeat k o).mem = s.mem := by
  simp only [State.endHeat]
  split
  · simp
  · split <;> simp
@[simp] theorem State.takeTrap_mem (s : State) (k : Nat) (e : Word) (c : CauseRec) (src : BitVec 4) (g : BitVec 3) :
    (s.takeTrap k e c src g).mem = s.mem := by
  simp only [State.takeTrap]
  split
  · simp
  · split
    · simp
    · split <;> rfl
@[simp] theorem State.block_mem (s : State) (w : Wait) : (s.block w).mem = s.mem := by
  simp only [State.block]
  split
  · split <;> rfl
  · rfl
@[simp] theorem State.postAsync_mem (s : State) (k t src : Nat) (c : CauseRec) : (s.postAsync k t src c).mem = s.mem := by
  simp only [State.postAsync, State.postFrom]
  (repeat' split) <;> first | rfl | simp

/-! ### What writes memory keeps its form -/

theorem State.rekey_inv (s : State) (key pa : Nat) (h : s.Inv) : (s.rekey key pa).Inv := by
  unfold State.rekey State.Inv
  dsimp only
  split
  · exact Memory.wf_write _ _ _ h
  · exact h
theorem State.putByte_inv (s : State) (key pa : Nat) (b : Byte) (h : s.Inv) : (s.putByte key pa b).Inv :=
  Memory.wf_set _ _ _ (s.rekey_inv key pa h)
theorem State.putBytes_inv (s : State) (key pa : Nat) (b : List Byte) (h : s.Inv) : (s.putBytes key pa b).Inv := by
  induction b generalizing s pa with
  | nil => exact h
  | cons x t ih => exact ih _ _ (s.putByte_inv key pa x h)

theorem State.partWrite_inv (s : State) (src part first last : Nat) (va : Word) (b : List Byte) (h : s.Inv) :
    (s.partWrite src part first last va b).1.Inv := by
  induction b generalizing s va with
  | nil => exact h
  | cons x t ih =>
    simp only [State.partWrite]
    split
    · exact h
    · split
      · exact h
      · split
        · exact h
        · refine ih _ _ ?_
          simp only [State.Inv, State.firePhys_mem]
          refine State.putByte_inv _ _ _ x ?_
          simp only [State.Inv]
          split <;> simpa using h
@[simp] theorem State.freshen_mem (s : State) (part f l n : Nat) : (s.freshen part f l n).mem = s.mem := by
  induction n with
  | zero => rfl
  | succ n ih =>
    simp only [State.freshen]
    split
    · split <;> exact ih
    · exact ih
theorem State.partStore_inv (s : State) (src part : Nat) (va : Word) (b : List Byte) (h : s.Inv) :
    (s.partStore src part va b).1.Inv := by
  simp only [State.partStore]
  split
  · exact s.partWrite_inv _ _ _ _ va b h
  · simpa [State.Inv] using s.partWrite_inv _ _ _ _ va b h

theorem State.shadowStore_inv (s : State) (src part i : Nat) (r : RetSlot) (a : Nat) (b : List Byte) (h : s.Inv) :
    (s.shadowStore src part i r a b).Inv := by
  simp only [State.shadowStore]
  generalize (s.part part).slotVa i = va
  generalize r.taken.zipIdx = l
  induction l generalizing s with
  | nil => exact h
  | cons e t ih =>
    refine ih _ ?_
    dsimp only
    split
    · exact h
    · exact State.partStore_inv _ _ _ _ _ (s.partStore_inv _ _ _ _ h)

/-- A write at a place leaves every array or memory in canonical form. -/
theorem State.writePlace_inv (s t : State) (k : Nat) (p : Place) (b : List Byte) (va : Word) (h : s.Inv)
    (hw : s.writePlace k p b va = .ok t) : t.Inv := by
  cases p with
  | array c o =>
    simp only [State.writePlace] at hw
    split at hw
    · cases hw
    · split at hw
      · cases hw
      · cases hw; simpa [State.Inv] using h
  | phys pa key ctr unc hb =>
    simp only [State.writePlace] at hw
    split at hw
    · cases hw
    · split at hw
      · cases hw
      · split at hw
        · cases hw
        · split at hw
          · cases hw
          · have hp := State.putBytes_inv (s.cacheTouch (k / 4) key pa b.length (ctr || unc) hb true) key pa b (by simpa [State.Inv] using h)
            cases hw
            simpa [State.Inv] using hp
  | completion c => cases hw
  | shadow a =>
    simp only [State.writePlace] at hw
    split at hw
    · cases hw
    · split at hw
      · cases hw
      · cases hw; exact State.shadowStore_inv _ _ _ _ _ _ _ h

theorem State.rmw_inv (s t : State) (k : Nat) (p : Place) (n : Nat) (va : Word) (f : Nat → Option Nat) (old : Nat) (h : s.Inv)
    (hr : s.rmw k p n va f = .ok (old, t)) : t.Inv := by
  obtain ⟨b, -, hr⟩ := (bind_ok _ _ _).1 hr
  dsimp only at hr
  split at hr
  · obtain ⟨_, -, hr⟩ := (bind_ok _ _ _).1 hr
    cases hr; simpa [State.Inv] using h
  · obtain ⟨u, hw, hr⟩ := (bind_ok _ _ _).1 hr
    cases hr; exact s.writePlace_inv _ _ _ _ _ h hw

theorem State.load_mem (s t : State) (n : Nat) (va : Word) (v : Nat) (hr : s.load n va = .ok (v, t)) : t.mem = s.mem := by
  obtain ⟨_, -, hr⟩ := (bind_ok _ _ _).1 hr
  obtain ⟨_, -, hr⟩ := (bind_ok _ _ _).1 hr
  obtain ⟨_, -, hr⟩ := (bind_ok _ _ _).1 hr
  cases hr; simp

theorem State.holdRank_mem (s t : State) (va : Word) (r : Nat) (a : RankAct) (n : Nat) (hr : s.holdRank va r a n = .ok t) : t.mem = s.mem := by
  obtain ⟨_, -, hr⟩ := (bind_ok _ _ _).1 hr
  obtain ⟨_, -, hr⟩ := (bind_ok _ _ _).1 hr
  obtain ⟨_, -, hr⟩ := (bind_ok _ _ _).1 hr
  obtain ⟨_, -, hr⟩ := (bind_ok _ _ _).1 hr
  cases hr; rfl

theorem State.store_inv (s t : State) (n : Nat) (va v : Word) (h : s.Inv) (hr : s.store n va v = .ok t) : t.Inv := by
  unfold State.store at hr
  split at hr
  · obtain ⟨_, -, hr⟩ := (bind_ok _ _ _).1 hr
    unfold State.Inv; rw [s.holdRank_mem t _ _ _ _ hr]; exact h
  · cases hr
  · obtain ⟨_, -, hr⟩ := (bind_ok _ _ _).1 hr
    obtain ⟨_, -, hr⟩ := (bind_ok _ _ _).1 hr
    obtain ⟨_, -, hr⟩ := (bind_ok _ _ _).1 hr
    split at hr
    · cases hr
      have hw := s.writePlace_inv _ _ _ _ _ h ‹_›
      simpa [State.Inv] using hw
    · split at hr
      · cases hr; simpa [State.Inv] using h
      · cases hr
    · cases hr

@[simp] theorem State.startReplay_mem (s : State) (p pa old new : Nat) : (s.startReplay p pa old new).mem = s.mem := by
  simp only [State.startReplay]
  split
  · rfl
  · split
    · rfl
    · split
      · split
        · rfl
        · exact (foldl_mem _ (fun _ _ => State.causeNotice_mem _ _ _ _ _ _ _) _ _).trans rfl
      · rfl
@[simp] theorem State.startReplays_mem (s : State) (pa old new : Nat) : (s.startReplays pa old new).mem = s.mem := by
  simp only [State.startReplays]
  split
  · rfl
  · exact foldl_mem _ (fun _ _ => State.startReplay_mem _ _ _ _ _) _ _

theorem State.counterAdd_inv (s t : State) (core : Nat) (p : Place) (n : Nat) (va : Word) (old : Nat) (h : s.Inv)
    (hr : s.counterAdd core p n va = .ok (old, t)) : t.Inv := by
  obtain ⟨_, -, hr⟩ := (bind_ok _ _ _).1 hr
  obtain ⟨u, hu, hr⟩ := (bind_ok _ _ _).1 hr
  have hw := s.writePlace_inv _ _ _ _ _ h hu
  cases hr
  unfold State.Inv at *
  split <;> simpa using hw

theorem State.post_inv (s t : State) (core part : Nat) (user : Bool) (va : Word) (n : Nat) (h : s.Inv)
    (hr : s.post core part user va n = .ok t) : t.Inv := by
  obtain ⟨_, -, hr⟩ := (bind_ok _ _ _).1 hr
  obtain ⟨x, hx, hr⟩ := (bind_ok _ _ _).1 hr
  cases hr; exact s.counterAdd_inv _ _ _ _ _ _ h hx

theorem State.heatAdd_inv (s : State) (part : Nat) (p : Place) (h : s.Inv) : (s.heatAdd part p).Inv := by
  simp only [State.heatAdd]
  split
  · split
    · simpa [State.Inv] using h
    · split
      · simpa [State.Inv] using h
      · simp only [State.Inv, State.firePhys_mem]
        exact State.putBytes_inv _ _ _ _ (by simpa [State.Inv] using h)
  · exact h
theorem State.heatCount_inv (s : State) (part off : Nat) (h : s.Inv) : (s.heatCount part off).Inv := by
  simp only [State.heatCount]
  split
  · simpa [State.Inv] using h
  · split
    · simpa [State.Inv] using s.heatAdd_inv _ _ h
    · simpa [State.Inv] using h

/-! ### Stops and outcomes keep the form -/

theorem State.escapeHeat_inv (s : State) (k code : Nat) (h : s.Inv) : (s.escapeHeat k code).Inv := by
  simp only [State.escapeHeat]
  unfold State.Inv
  rw [State.causeNotice_mem]
  exact State.heatCount_inv _ _ _ (by simpa [State.Inv] using h)

theorem State.stopped_inv (s : State) (e : Stop) (h : s.Inv) : (s.stopped e).Inv := by
  cases e with
  | trap c => simp only [State.stopped, State.Inv]; split <;> simpa using h
  | block w => simpa [State.stopped, State.Inv] using h
  | escape => exact s.escapeHeat_inv _ _ h
  | unverifiable => exact s.escapeHeat_inv _ _ h

/-- A meaning over `out` keeps the form when its own effect does. -/
theorem State.out_inv (s t : State) (r : Except Stop State) (h : s.Inv) (hr : ∀ u, r = .ok u → u.Inv) (ho : s.out r = .next t) : t.Inv := by
  cases r with
  | ok u => cases ho; exact hr _ rfl
  | error e => cases ho; exact s.stopped_inv e h

/-! ### Reading a byte after writing one -/

/-- A byte written under a key reads back under it. -/
theorem State.byteAt_putByte_same (s : State) (key pa : Nat) (b : Byte) : (s.putByte key pa b).byteAt key pa = b := by
  have hn : ∀ k, (s.putByte key pa b).keyNow k = s.keyNow k := by
    intro k; simp only [State.putByte, State.rekey]; split <;> rfl
  have hk : isGddr pa = true → (s.putByte key pa b).keyOf (pa / 32) = s.keyNow key := by
    intro hg
    unfold State.keyOf
    rw [hn]
    simp only [State.putByte, State.rekey]
    by_cases h : s.keyOf (pa / 32) = s.keyNow key
    · rw [if_neg (fun c => c.2 h)]; exact h
    · rw [if_pos ⟨hg, h⟩]; simp
  unfold State.byteAt
  dsimp only
  split
  · rename_i h; exact absurd ((hk h.1).trans (hn key).symm) h.2
  · simp [State.putByte]

end Sys2Proof.Machine
end

