-- ==== Sys2Proof/Tests/Slice0.lean ====
section
/-! SUPPORT. Tests: words of the spec and what they decode to, ill-formed words that the checks refuse, and states that
meet the hypotheses of the statements. -/

namespace Sys2Proof.Tests

open Sys2Proof.Machine

-- The theorems are elaborated one after another, so that few threads hold memory at a time.
set_option Elab.async false

/-! ### Decoding: words as the spec writes them out -/

/-- A 32-bit word decodes to an instruction, which encodes to it. -/
abbrev Word32 (w : Nat) (i : Instr) : Prop :=
  decodeTableWord 32 w = some i ∧ encode i = [BitVec.ofNat 16 w, BitVec.ofNat 16 (w / 65536)]
/-- A compressed word. -/
abbrev Word16 (w : Nat) (i : Instr) : Prop := decodeTableWord 16 w = some i ∧ encode i = [BitVec.ofNat 16 w]

/-- 22, 23, 24: the integer examples. -/
theorem test_decode_integer :
    Word32 0x000E6283 (.add 5 6 7) ∧ Word32 0x100E6283 (.sub 5 6 7) ∧ Word32 0x300E6283 (.or 5 6 7) ∧
    Word32 0x400E6283 (.xor 5 6 7) ∧ Word32 0xA00E6283 (.min 5 6 7) ∧ Word32 0xF20E6283 (.sel 5 6 7 8) ∧
    Word32 0x00020713 (.addpc 14 32) ∧ Word32 0x07D00491 (.lui 9 0x7D00) ∧ Word32 0x0010850F (.shli 10 8 8) ∧
    Word32 0x0020A58D (.slti 11 10 16) ∧ Word32 0x00100485 (.addi 9 0 8) ∧ Word32 0x30149415 (.div 8 9 10 0) ∧
    Word32 0x20009417 (.popc 8 9) := by decide

/-- 23: the FP32 examples. -/
theorem test_decode_float :
    Word32 0x300E6299 (.fdiv 5 6 7) ∧ Word32 0x500E6299 (.fmin 5 6 7) ∧ Word32 0x600E6299 (.fmax 5 6 7) ∧
    Word32 0x40006299 (.fsqrt 5 6) ∧ Word32 0x70549419 (.fcmp 8 9 10 1) ∧ Word32 0x020E629B (.ffma 5 6 7 8) := by decide

/-- 15 Table 15-26, 22, 23, 24: memory and control-flow examples. -/
theorem test_decode_memory_and_branches :
    Word32 0x6020C69D (.ld 13 12 16 3) ∧ Word32 0x00008023 (.pref 8) ∧ Word32 0x33C00323 (.ways 6 0x0F) ∧
    Word32 0x001CD325 (.beq 13 14 6) ∧ Word32 0xFFD28E2D (.bltu 8 9 0x7FFC) ∧ Word32 0x00109037 (.loop 9 8) := by decide

/-- 22, 23, 24: atomics and synchronisation. -/
theorem test_decode_atomics :
    Word32 0x384A41B9 (.amo 3 4 5 0 2 3 1) ∧ Word32 0x30394EB9 (.amo 29 20 28 0 0 3 0) ∧
    Word32 0x0414943B (.acas 8 9 10 0 1 0) ∧ Word32 0x8210B03D (.red 11 8 1 8 0) ∧
    Word32 0x0C0E62BF (.cadd 5 6 6 7) ∧ Word32 0x0A1CD7BF (.cadd 15 13 5 14) ∧
    Word32 0x1A134ABF (.cwait 21 20 5 9) ∧ Word32 0x5800003F (.fence 4) ∧ Word32 0x6000803F (.qfence 8) ∧
    Word32 0x7A2F603F (.bar 22 5 23) ∧ Word32 0x9000943F (.pacew 8 9) ∧ Word32 0x3000C5BF (.watch 11 12) := by decide

/-- 21, 24: vector words. -/
theorem test_decode_vector :
    Word32 0x00008441 (.vaddF32 8 8 0 0) ∧ Word32 0x78404841 (.vredAddF32 16 4 1) ∧ Word32 0x58003141 (.vrcp 2 3 0) ∧
    Word32 0x184C5241 (.vfma 4 5 6 1) ∧ Word32 0xA8002141 (.vtab 2 2 0) ∧ Word32 0xB00031C1 (.vcvt 3 3 0) ∧
    Word32 0x004C5243 (.vadd 4 5 6 1 0) ∧ Word32 0x580E1143 (.vshl 2 1 7 0 0) ∧ Word32 0x900C50C3 (.vcmpLe 1 5 6 0 0) ∧
    Word32 0xC0009343 (.vbcast 6 9 0) ∧ Word32 0xC8123143 (.vsort 2 3 9 0) ∧ Word32 0x0000A0C5 (.vld 1 10 0 0) := by decide

/-- 09: matrix words. -/
theorem test_decode_matrix :
    Word32 0x000062C7 (.mclaim 5 6) ∧ Word32 0x20D6A047 (.mload 10 11 3) ∧ Word32 0x303A0047 (.mma 29) ∧
    Word32 0x40528047 (.mdrain 8 1 9) := by decide

/-- 22, 23, 24: copies, the carousel, frames, edge programs and the exchange. -/
theorem test_decode_engines :
    Word32 0x00128549 (.cpy 10 8 9 0) ∧ Word32 0x302F4449 (.seqw 8 20 23) ∧ Word32 0x100E62CB (.carsub 5 6 7) ∧
    Word32 0x501E874B (.carwait 14 8 15) ∧ Word32 0x3000954B (.carskip 10 9) ∧ Word32 0x4000944B (.carprom 8 9) ∧
    Word32 0x5012824D (.attr 4 8 9) ∧ Word32 0x6006244D (.pxout 8 2 3) ∧ Word32 0x7012804D (.frsend 8 9) ∧
    Word32 0x0000004F .edge ∧ Word32 0x2016A04F (.krbin 10 11) ∧ Word32 0x3048204F (.vksend 2 4 1) ∧
    Word32 0x03CC5051 (.xmit 5 6 15) := by decide

/-- 23, 24: tasks, extension registers, digests and system words. -/
theorem test_decode_tasks_and_system :
    Word32 0x001CB053 (.spawn 0 11 14) ∧ Word32 0x10149453 (.mbox 8 9 10) ∧ Word32 0x21000453 (.gang 8 4) ∧
    Word32 0x40400053 (.repb 1) ∧ Word32 0x60149053 (.enq 9 10 0) ∧ Word32 0xA08002D3 (.tid 5 2) ∧
    Word32 0x31015055 (.ext 21 4) ∧ Word32 0x441C2C55 (.exti 0 0x41C2 3) ∧ Word32 0x4C000E55 (.exti 4 0xC000 3) ∧
    Word32 0x000E6057 (.outrng 6 7) ∧ Word32 0x104002D7 (.digrd 5 1) ∧ Word32 0x218002D9 (.sysrd 5 6) ∧
    Word32 0x00400059 (.trap 1) := by decide

/-- 15 R316, Table 15-26: compressed words; 15 R292: the halfword 0x0000 is no instruction. -/
theorem test_decode_compressed :
    Word16 0x0020 .cNop ∧ Word16 0x2804 (.cAdd 1 2) ∧ Word16 0x0010 (.cStw 0 0 0) ∧ Word16 0x001E .cVfence ∧
    Word16 0 .zeroWord ∧ decodeTableWord 16 0x0040 = none ∧ decodeTableWord 16 0x003E = none := by decide

/-- 15 R317: a field that must be zero and is not, an unassigned function or value, and the reserved majors: no such word
decodes to a neighbour. -/
theorem test_decode_refusals :
    decodeTableWord 32 0x20029417 = none ∧ decodeTableWord 32 0x000262C7 = none ∧ decodeTableWord 32 0x800062C7 = none ∧
    decodeTableWord 32 0x0190850F = none ∧ decodeTableWord 32 0x02008441 = none ∧ decodeTableWord 32 0x7000004F = none ∧
    decodeTableWord 32 1 = some (.reservedMajor 1) ∧ decodeTableWord 32 0x5B = some (.reservedMajor 0x5B) ∧
    decodeTableWord 32 0x7F = some (.reservedMajor 0x7F) := by decide

/-! ### Ill-formed words -/

/-- The code of the trap that an outcome took. -/
def codeOf : Host.Outcome State Fault Refusal → Option Nat
  | .next t => t.trapTag.map (fun c => c.1.code.toNat)
  | _ => none
/-- The instruction answers a next state. -/
def ran : Host.Outcome State Fault Refusal → Bool
  | .next _ => true
  | _ => false
/-- A property of the next state. -/
def gives (o : Host.Outcome State Fault Refusal) (p : State → Bool) : Bool :=
  match o with
  | .next t => p t
  | _ => false
/-- The value is there. -/
def good {e a : Type} : Except e a → Bool
  | .ok _ => true
  | .error _ => false

/-- A user context at 0x400000, with s8 = 0x100, s9 = 2 and s10 = 3. -/
def cx0 : Ctx := { (((Ctx.reset.setS 8 0x100).setS 9 2).setS 10 3) with cs := .ready, pc := 0x400000 }
/-- Pages of partition 1: code and data at 0x400000, counters at 0x410000, host-bias data at 0x420000. -/
def tlb0 : List TlbEntry :=
  [{ part := 1, base := 0x400000, lg := 16, pte := 0x001000000040007D },
   { part := 1, base := 0x410000, lg := 16, pte := 0x001000000041045D },
   { part := 1, base := 0x420000, lg := 16, pte := 0x001000000042085D }]
/-- Four ways of scratch, the TLB above and an L1 way pair. -/
def core0 : Core := { Core.reset with waym := 0x0F, tlb := tlb0 }
def part0 : Part := { Part.reset with live := true, cells := [0] }
/-- One context of partition 1 on core 0. -/
def one (x : Ctx) (c : Core) (p : Part) : State :=
  { State.reset with ctxs := [(0, x)], cores := [(0, c)], cells := [(0, { Cell.reset with part := some 1 })], parts := [(1, p)],
                     boot := 8, disabled := [] }
def s0 : State := one cx0 core0 part0

/-- 15 R317 step 3, 16: for each check of wellFormed, a word that fails it, whose meaning traps with 0x02. -/
theorem test_ill_formed_scalar :
    Instr.wellFormed (.fcvt 5 6 0 0 7 0) = false ∧ codeOf (exec (.fcvt 5 6 0 0 7 0) s0) = some 2 ∧
    Instr.wellFormed (.ld 5 6 0 7) = false ∧ codeOf (exec (.ld 5 6 0 7) s0) = some 2 ∧
    Instr.wellFormed (.st 5 6 0 4) = false ∧ codeOf (exec (.st 5 6 0 4) s0) = some 2 ∧
    Instr.wellFormed (.ldx 5 6 7 0 4) = false ∧ codeOf (exec (.ldx 5 6 7 0 4) s0) = some 2 ∧
    Instr.wellFormed (.stx 5 6 7 4 0) = false ∧ codeOf (exec (.stx 5 6 7 4 0) s0) = some 2 ∧
    Instr.wellFormed (.ways 5 63) = false ∧ codeOf (exec (.ways 5 63) s0) = some 2 ∧
    Instr.wellFormed (.loop 5 0) = false ∧ codeOf (exec (.loop 5 0) s0) = some 2 := by decide

theorem test_ill_formed_synchronisation :
    Instr.wellFormed (.amo 5 6 7 0 0 9 0) = false ∧ codeOf (exec (.amo 5 6 7 0 0 9 0) s0) = some 2 ∧
    Instr.wellFormed (.red 5 6 0 8 0) = false ∧ codeOf (exec (.red 5 6 0 8 0) s0) = some 2 ∧
    Instr.wellFormed (.red 5 6 1 11 0) = false ∧ codeOf (exec (.red 5 6 1 11 0) s0) = some 2 ∧
    Instr.wellFormed (.cadd 5 6 7 8) = false ∧ codeOf (exec (.cadd 5 6 7 8) s0) = some 2 ∧
    Instr.wellFormed (.caddNr 6 7 8) = false ∧ codeOf (exec (.caddNr 6 7 8) s0) = some 2 ∧
    Instr.wellFormed (.cwait 5 6 7 8) = false ∧ codeOf (exec (.cwait 5 6 7 8) s0) = some 2 ∧
    Instr.wellFormed (.cread 5 6 7) = false ∧ codeOf (exec (.cread 5 6 7) s0) = some 2 ∧
    Instr.wellFormed (.fence 7) = false ∧ codeOf (exec (.fence 7) s0) = some 2 ∧
    Instr.wellFormed (.bar 5 7 6) = false ∧ codeOf (exec (.bar 5 7 6) s0) = some 2 := by decide

theorem test_ill_formed_vector :
    Instr.wellFormed (.vcmpEqF32 0 1 2 0) = false ∧ codeOf (exec (.vcmpEqF32 0 1 2 0) s0) = some 2 ∧
    Instr.wellFormed (.vcmpLtF32 0 1 2 0) = false ∧ codeOf (exec (.vcmpLtF32 0 1 2 0) s0) = some 2 ∧
    Instr.wellFormed (.vcmpLeF32 0 1 2 0) = false ∧ codeOf (exec (.vcmpLeF32 0 1 2 0) s0) = some 2 ∧
    Instr.wellFormed (.vcmpNeF32 0 1 2 0) = false ∧ codeOf (exec (.vcmpNeF32 0 1 2 0) s0) = some 2 ∧
    Instr.wellFormed (.vadd 1 2 3 0 3) = false ∧ codeOf (exec (.vadd 1 2 3 0 3) s0) = some 2 ∧
    Instr.wellFormed (.vsub 1 2 3 0 3) = false ∧ codeOf (exec (.vsub 1 2 3 0 3) s0) = some 2 ∧
    Instr.wellFormed (.vmul 1 2 3 0 3) = false ∧ codeOf (exec (.vmul 1 2 3 0 3) s0) = some 2 ∧
    Instr.wellFormed (.vmin 1 2 3 0 3) = false ∧ codeOf (exec (.vmin 1 2 3 0 3) s0) = some 2 ∧
    Instr.wellFormed (.vmax 1 2 3 0 3) = false ∧ codeOf (exec (.vmax 1 2 3 0 3) s0) = some 2 ∧
    Instr.wellFormed (.vminU 1 2 3 0 3) = false ∧ codeOf (exec (.vminU 1 2 3 0 3) s0) = some 2 ∧
    Instr.wellFormed (.vmaxU 1 2 3 0 3) = false ∧ codeOf (exec (.vmaxU 1 2 3 0 3) s0) = some 2 ∧
    Instr.wellFormed (.vabs 1 2 0 3) = false ∧ codeOf (exec (.vabs 1 2 0 3) s0) = some 2 ∧
    Instr.wellFormed (.vshl 1 2 3 0 3) = false ∧ codeOf (exec (.vshl 1 2 3 0 3) s0) = some 2 ∧
    Instr.wellFormed (.vshr 1 2 3 0 3) = false ∧ codeOf (exec (.vshr 1 2 3 0 3) s0) = some 2 ∧
    Instr.wellFormed (.vsha 1 2 3 0 3) = false ∧ codeOf (exec (.vsha 1 2 3 0 3) s0) = some 2 := by decide

theorem test_ill_formed_vector_comparisons :
    Instr.wellFormed (.vcmpEq 0 1 2 0 0) = false ∧ codeOf (exec (.vcmpEq 0 1 2 0 0) s0) = some 2 ∧
    Instr.wellFormed (.vcmpNe 1 1 2 0 3) = false ∧ codeOf (exec (.vcmpNe 1 1 2 0 3) s0) = some 2 ∧
    Instr.wellFormed (.vcmpLt 0 1 2 0 1) = false ∧ codeOf (exec (.vcmpLt 0 1 2 0 1) s0) = some 2 ∧
    Instr.wellFormed (.vcmpLe 1 1 2 0 3) = false ∧ codeOf (exec (.vcmpLe 1 1 2 0 3) s0) = some 2 ∧
    Instr.wellFormed (.vcmpLtU 0 1 2 0 0) = false ∧ codeOf (exec (.vcmpLtU 0 1 2 0 0) s0) = some 2 ∧
    Instr.wellFormed (.vcmpLeU 1 1 2 0 3) = false ∧ codeOf (exec (.vcmpLeU 1 1 2 0 3) s0) = some 2 ∧
    Instr.wellFormed (.vldx 1 2 3 0 3) = false ∧ codeOf (exec (.vldx 1 2 3 0 3) s0) = some 2 ∧
    Instr.wellFormed (.vstx 1 2 3 0 3) = false ∧ codeOf (exec (.vstx 1 2 3 0 3) s0) = some 2 := by decide

theorem test_ill_formed_engines_and_tasks :
    Instr.wellFormed (.mload 5 6 7) = false ∧ codeOf (exec (.mload 5 6 7) s0) = some 2 ∧
    Instr.wellFormed (.raytri 30 1 2 0) = false ∧ codeOf (exec (.raytri 30 1 2 0) s0) = some 2 ∧
    Instr.wellFormed (.raybox 1 25 2 0) = false ∧ codeOf (exec (.raybox 1 25 2 0) s0) = some 2 ∧
    Instr.wellFormed (.attr 1 31 2) = false ∧ codeOf (exec (.attr 1 31 2) s0) = some 2 ∧
    Instr.wellFormed (.pxout 1 29 2) = false ∧ codeOf (exec (.pxout 1 29 2) s0) = some 2 ∧
    Instr.wellFormed (.gang 5 3) = false ∧ codeOf (exec (.gang 5 3) s0) = some 2 ∧
    Instr.wellFormed (.enq 5 6 4) = false ∧ codeOf (exec (.enq 5 6 4) s0) = some 2 ∧
    Instr.wellFormed (.deq 5 6 4) = false ∧ codeOf (exec (.deq 5 6 4) s0) = some 2 ∧
    Instr.wellFormed (.tid 5 6) = false ∧ codeOf (exec (.tid 5 6) s0) = some 2 ∧
    Instr.wellFormed (.qpop 5 4) = false ∧ codeOf (exec (.qpop 5 4) s0) = some 2 ∧
    Instr.wellFormed (.sysrd 5 0x16) = false ∧ codeOf (exec (.sysrd 5 0x16) s0) = some 2 ∧
    Instr.wellFormed (.syswr 5 6) = false ∧ codeOf (exec (.syswr 5 6) s0) = some 2 ∧
    Instr.wellFormed (.cQpop 5 4) = false ∧ codeOf (exec (.cQpop 5 4) s0) = some 2 := by decide

/-- 23 R413: a REPB count outside 1 to 16 traps with 0x05; 15 R317: zero words and reserved majors; 09: a remote MMA whose
capability field is s0 is the word of MMA, and is no word of its own. -/
theorem test_ill_formed_others :
    Instr.wellFormed (.repb 0) = false ∧ codeOf (exec (.repb 0) s0) = some 5 ∧ codeOf (exec (.repb 17) s0) = some 5 ∧
    codeOf (exec .zeroWord s0) = some 0 ∧ Instr.wellFormed (.reservedMajor 3) = false ∧
    codeOf (exec (.reservedMajor 1) s0) = some 1 ∧ Instr.wellFormed (.mmaR 0 5) = false ∧ encode (.mmaR 0 5) = encode (.mma 5) := by decide

/-! ### States that meet the hypotheses of the statements: scalar words and memory -/

/-- Except values compare. -/
def isOk {e a : Type} [DecidableEq a] (r : Except e a) (v : a) : Bool :=
  match r with
  | .ok w => decide (w = v)
  | .error _ => false
/-- A refusal or a fault of a check is not the point here: the cause it gives. -/
def trapCode {a : Type} : Except Stop a → Option Nat
  | .error (.trap c) => some c.code.toNat
  | _ => none

/-- The context at another pc, with other registers or status. -/
def inLoop : Ctx := { cx0 with loops := [{ start := 0x3FFFF8, last := 0x400000, rem := 2 }] }
def sup : Ctx := { cx0 with st := { cx0.st with priv := 1 } }

theorem test_meets_RegisterWordFrame :
    s0.cx.loops = [] ∧ plainDst s0.cx (.add 5 8 9) = some 5 ∧ ran (exec (.add 5 8 9) s0) = true ∧
    plainDst s0.cx (.add 0 8 9) = some 0 ∧ ran (exec (.add 0 8 9) s0) = true := by decide

theorem test_meets_IntegerWords :
    regRegResult s0.cx (.sub 5 8 9) = some (5, 0xFE) ∧ immResult s0.cx (.addi 5 8 0x7FFF) = some (5, 0xFF) ∧
    mulDivResult s0.cx (.div 5 8 0 0) = some (5, -1) ∧
    compressedResult s0.cx (.cAdd 0 1) = some (8, 0x102) := by decide

theorem test_meets_BitMoveWords : countResult s0.cx (.clz 5 0) = some (5, 64) ∧ countResult s0.cx (.ctz 5 8) = some (5, 8) := by decide

theorem test_meets_BranchAndJumpWords :
    branchOf s0.cx (.beq 0 0 0x7FFC) = some (4, true, -8) ∧ branchOf s0.cx (.cBeqz 0 4) = some (2, false, 8) ∧
    (s0.cx.s 8 + BitVec.ofInt 64 (0 : BitVec 15).toInt).getLsbD 0 = false ∧
    (s0.cx.s 8 + BitVec.ofInt 64 (1 : BitVec 15).toInt).getLsbD 0 = true := by decide

/-- Three words at 0x400004: ADD, C.MOV and NOP (Table 15-26's page). -/
def code3 : Mem := [(0x400004, 0x83), (0x400005, 0x62), (0x400006, 0x0E), (0x400008, 0x20)]
def sLoop : State := { one { cx0 with pc := 0x400000 } core0 part0 with mem := code3 }
theorem test_meets_LoopNest :
    (2 : BitVec 15) ≠ 0 ∧ sLoop.cx.loops.length < 3 ∧ sLoop.cx.loops.all (fun l => l.last ≠ sLoop.cx.pc) = true ∧
    isOk (sLoop.wordsFrom sLoop.cur ((2 : BitVec 15).toNat - 1) (sLoop.cx.pc + 4)) (0x400008, 2) = true ∧
    sLoop.cx.loops.all (fun l => !(sLoop.cx.pc + 4 ≤ l.last && l.last ≤ 0x400008)) = true ∧
    inLoop.loops = [{ start := 0x3FFFF8, last := 0x400000, rem := 2 }] ∧ inLoop.pc = 0x400000 := by decide

def lvl (a b : Word) : LoopLevel := { start := a, last := b, rem := 2 }
def nested (l : List LoopLevel) (pc : Word) : State := { one { cx0 with pc := pc, loops := l } core0 part0 with mem := code3 }
theorem test_meets_LoopNest_traps :
    3 ≤ (nested [lvl 0 0, lvl 0 0, lvl 0 0] 0x400000).cx.loops.length ∧
    (nested [lvl 0 0x400000] 0x400000).cx.loops = [lvl 0 0x400000] ∧ (nested [lvl 0 0x400000] 0x400000).cx.pc = 0x400000 ∧
    good ((nested [] 0xE00000).wordsFrom 0 1 0xE00004) = false ∧
    isOk ((nested [lvl 0 0x400008] 0x400000).wordsFrom 0 1 0x400004) (0x400008, 2) = true := by decide

theorem test_meets_FloatingPointWords :
    (fpResult s0.cx (.fadd 5 8 9)).isSome = true ∧ fcvtCodes 0 0 7 0 = false ∧ fcvtCodes 0 1 7 0 = true ∧
    s0.cx.loops = [] ∧ (0x7FC00000 : Nat) < 2 ^ 32 := by decide

/-- A place of s0's pages: s11 = 0x400100 and s12 = 0x410000. -/
def sMem : State := one ((cx0.setS 11 0x400100).setS 12 0x410000) core0 part0
def data100 : Place := .phys 0x400100 0 false false false
theorem test_meets_LoadWords :
    loadOf sMem.cx (.ld 5 11 0 3) = some (4, 8, 0x400100, 5, true) ∧
    isOk (sMem.reach sMem.cur (Req.load 8) 0x400100) data100 = true ∧ isOk (sMem.ordered sMem.cur 0x400100 8) () = true ∧
    isOk (sMem.readPlace sMem.cur data100 8 0x400100) (List.replicate 8 0) = true ∧
    loadOf sMem.cx (.ldx 5 8 9 2 3) = some (4, 4, 0x110, 5, true) ∧ sMem.cx.st.chk = false ∧ (0x110 : Word).toNat % 4 = 0 ∧
    (0x110 : Word).toNat < 0x10000 ∧ (0x110 : Word).toNat + 4 ≤ extent (sMem.core sMem.curCore).waym ∧ sMem.cx.relq = [] ∧
    (sMem.core sMem.curCore).vq = [] ∧ (sMem.core sMem.curCore).xsels = [] ∧ (sMem.core sMem.curCore).ways = none ∧
    (sMem.core sMem.curCore).ecc = Ecc.reset := by and_intros <;> decide

theorem test_meets_StoreWords :
    storeOf sMem.cx (.st 8 11 0 3) = some (4, 8, 0x400100, 0x100) ∧
    isOk (sMem.reach sMem.cur (Req.store 8) 0x400100) data100 = true ∧ isOk (sMem.ordered sMem.cur 0x400100 8) () = true ∧
    isOk (sMem.ackRoom sMem.cur data100) () = true ∧
    good (sMem.writePlace sMem.cur data100 (leBytes 8 (0x100 : Word).toNat) 0x400100) = true := by decide

theorem test_meets_MemoryWordFrame :
    storeOf sMem.cx (.st 8 11 0 3) = some (4, 8, 0x400100, 0x100) ∧ sMem.cx.st.chk = false ∧ ran (exec (.st 8 11 0 3) sMem) = true ∧
    isOk (sMem.reach sMem.cur (Req.store 8) 0x400100) data100 = true ∧
    storeOf sMem.cx (.st 8 8 0 3) = some (4, 8, 0x100, 0x100) ∧ ran (exec (.st 8 8 0 3) sMem) = true ∧
    isOk (sMem.reach sMem.cur (Req.store 8) 0x100) (.array 0 0x100) = true ∧
    storeOf sMem.cx (.st 8 12 0 3) = some (4, 8, 0x410000, 0x100) ∧ ran (exec (.st 8 12 0 3) sMem) = true ∧
    trapCode (sMem.reach sMem.cur (Req.store 8) 0x410000) = some 0x29 ∧
    loadOf sMem.cx (.ld 5 11 0 3) = some (4, 8, 0x400100, 5, true) ∧ ran (exec (.ld 5 11 0 3) sMem) = true := by and_intros <;> decide

theorem test_meets_AlignmentTraps :
    loadOf sMem.cx (.ld 5 8 4 3) = some (4, 8, 0x104, 5, true) ∧ (0x104 : Word).toNat % 8 ≠ 0 ∧
    storeOf sMem.cx (.cStw 0 1 0) = some (2, 4, 2, 0x100) ∧ (2 : Word).toNat % 4 ≠ 0 := by decide

theorem test_meets_ReachIsProtected :
    isOk (sMem.reach 0 (Req.load 8) 0x400100) data100 = true ∧
    isOk (sMem.reach 0 (Req.load 8) 0x410000) (.phys 0x410000 0 true false false) = true ∧
    trapCode (sMem.reach 0 (Req.load 8) 0x430000) ≠ none := by decide

theorem test_meets_CacheWords :
    canonical (sMem.cx.s 11) = true ∧ spaceOf (sMem.cx.s 11) = .translated ∧ sMem.cx.isWork = false ∧ sMem.cx.st.chk = false ∧
    isOk (sMem.transPlace sMem.curCore sMem.curPart (sMem.cx.st.priv = 0) (Req.load 1) (sMem.cx.s 11)) data100 = true ∧
    sMem.cx.modCnt < 64 ∧ sMem.cx.relq = [] ∧ sMem.memFailing (0x400100 / 128 * 128) 128 = false ∧
    SMap.get (sMem.clu (homeClu 0x400100)).miss [] (0x400100 / 128) = [] ∧ isGddr 0x400100 = true := by decide

theorem test_meets_AtomicWords :
    (0 : BitVec 4).toNat ≤ 8 ∧ (0 : BitVec 2).getLsbD 1 = false ∧ (0x400100 : Word) = sMem.cx.s 11 + 8 * (0 : BitVec 3).setWidth 64 ∧
    isOk (sMem.reach sMem.cur (Req.atomic 8 true) 0x400100) data100 = true ∧
    isOk (sMem.reach sMem.cur (Req.atomic 4 false) 0x400100) data100 = true ∧
    isOk (sMem.ordered sMem.cur 0x400100 8) () = true ∧ isOk (sMem.ackRoom sMem.cur data100) () = true ∧
    isOk (sMem.readPlace sMem.cur data100 8 0x400100) (List.replicate 8 0) = true ∧
    (atomOperands sMem.cx 5 8 0 false 0).newValue 0 = some 0x100 ∧ (atomOperands sMem.cx 8 9 0 true 0).newValue 0 = none ∧
    sMem.mayArrive (dieOf (sMem.cur / 4)) (data100.die (sMem.cur / 4)) = true ∧
    good (sMem.writePlace sMem.cur data100 (leBytes 8 0x100) 0x400100) = true := by decide

def sCnt : State := one { sMem.cx with modCnt := 1 } core0 part0
def rel0 : RelAtomic := { place := data100, va := 0x400100, user := true, ord := 2, wide := true, op := 0, cas := false, v := 1, e := 0, d := 5 }
def sRel : State := one { sMem.cx with relq := [rel0], modCnt := 1 } core0 part0
def chkd (x : Ctx) : Ctx := { x with st := { x.st with chk := true } }
theorem test_meets_ReductionAndReleaseAtomics :
    ((7 : BitVec 4).toNat ≤ 7 ∧ (10 : BitVec 4).toNat ≤ 10) ∧ (one (chkd sMem.cx) core0 part0).cx.st.chk = true ∧
    sMem.cx.st.chk = false ∧ isOk (sMem.reach sMem.cur (Req.atomic 8 false) 0x400100) data100 = true ∧
    isOk (sMem.readPlace sMem.cur data100 8 0x400100) (List.replicate 8 0) = true ∧
    good (sMem.writePlace sMem.cur data100 (leBytes 8 (redValue 0 8 0 0x100)) 0x400100) = true ∧
    sCnt.cx.modCnt ≠ 0 ∧ (2 : BitVec 2).getLsbD 1 = true ∧ isOk (sCnt.reachAny sCnt.cur (Req.atomic 8 false) 0x400100) data100 = true ∧ sCnt.fenceMet sCnt.cur 0 = true ∧
    isOk (sMem.reachAny sMem.cur (Req.atomic 8 false) 0x400100) data100 = true ∧ sMem.cx.modCnt = 0 ∧ sMem.cx.relq = [] ∧
    (sMem.atomicLate sMem.cur rel0).isSome = true ∧
    isOk (sCnt.ordered sCnt.cur 0x400100 8) () = true ∧ isOk (sCnt.ackRoom sCnt.cur data100) () = true ∧
    sRel.cx.relq = [rel0] ∧ sRel.cx.modCnt = sRel.cx.heldUnder 0 false ∧
    ((sRel.setCtx 0 (({ sRel.cx with relq := [] } : Ctx).subAck false)).atomicLate 0 rel0).isSome = true := by decide

def ctr0 : Place := .phys 0x410000 0 true false false
theorem test_meets_CounterWords :
    (0 : BitVec 3) ≠ 7 ∧ sMem.cx.st.chk = false ∧ isOk (sMem.counterAt true (sMem.cx.s 12)) ctr0 = true ∧
    isOk (sMem.counterAt false (sMem.cx.s 12)) ctr0 = true ∧ sMem.fenceMet sMem.cur 6 = true ∧ isOk (sMem.ackRoom sMem.cur ctr0) () = true ∧
    sMem.mayArrive (dieOf sMem.curCore) (ctr0.die sMem.curCore) = true ∧ isOk (sMem.readPlace (sMem.curCore * 4) ctr0 8 (sMem.cx.s 12)) (List.replicate 8 0) = true ∧
    good (sMem.writePlace (sMem.curCore * 4) ctr0 (leBytes 8 (min (0 + 2) (2 ^ 64 - 1))) (sMem.cx.s 12)) = true := by decide

def sBar : State := one { sMem.cx with resume := [(0x400000, 1)] } core0 part0
def sBarDone : State := { sBar with mem := [(0x410000, 1)] }
theorem test_meets_BarrierAndSyncWords :
    (sMem.cx.s 9).toNat ≠ 0 ∧ (sMem.cx.s 9).toNat ≤ 2 ^ 32 ∧ isOk (sMem.counterAt true (sMem.cx.s 12)) ctr0 = true ∧
    SMap.find sMem.cx.resume sMem.cx.pc.toNat = none ∧ sMem.fenceMet sMem.cur 6 = true ∧
    good (sMem.counterAdd sMem.curCore ctr0 1 (sMem.cx.s 12)) = true ∧
    isOk (sBarDone.counterAt true (sBarDone.cx.s 12)) ctr0 = true ∧ sBarDone.mayArrive (dieOf sBarDone.curCore) (ctr0.die sBarDone.curCore) = true ∧ SMap.find sBarDone.cx.resume sBarDone.cx.pc.toNat = some 1 ∧
    isOk (sBarDone.readPlace sBarDone.cur ctr0 8 (sBarDone.cx.s 12)) [1, 0, 0, 0, 0, 0, 0, 0] = true ∧ 1 ≤ leNat [1, 0, 0, 0, 0, 0, 0, 0] ∧
    (sMem.part sMem.curPart).det = false ∧ sMem.fenceMet sMem.cur 5 = true ∧
    (let r := one sBar.cx core0 { part0 with rounds := 1 }
     SMap.find r.cx.resume r.cx.pc.toNat = some 1 ∧ 1 ≤ (r.part r.curPart).rounds ∧ (r.part r.curPart).det = false) := by decide

def fired : WatchEntry := { idx := 0, tgt := .completion, fired := true }
def entry (i : Nat) : WatchEntry := { idx := i, tgt := .scratch 0 (100 + i), fired := false }
def paused : Ctx := { cx0 with resume := [(0x400000, 5)] }
def sPaused : State := { one paused core0 part0 with pace := 9 }
def sWaiting : State := { one { paused with cs := .blocked (.waitw 5) } core0 part0 with pace := 9 }
theorem test_meets_WaitAndWatchWords :
    (5 : BitVec 3) ≠ 7 ∧ s0.fenceMet s0.cur 5 = true ∧ s0.vbusy s0.cur = false ∧ s0.cx.seqr = none ∧ s0.cx.deferred = none ∧
    s0.cx.isWork = false ∧ s0.cx.st.pure = false ∧ (s0.cx.s 0).toNat ≤ s0.pace.toNat ∧
    (one { cx0 with watch := [fired] } core0 part0).cx.watch.any (fun e => e.fired) = true ∧
    (s0.cx.s 9).toNat < 256 ∧ s0.cx.s 9 ≠ 0 ∧ s0.cx.s 0 = 0 ∧ s0.cx.st.chk = false ∧ s0.cx.reasons = 0 ∧ s0.cx.watch = [] ∧ s0.cx.apend = [] ∧
    SMap.find s0.cx.resume s0.cx.pc.toNat = none ∧ (one { cx0 with reasons := 2, watch := [fired] } core0 part0).cx.reasons ≠ 0 := by decide
theorem test_meets_WaitAndWatchWords_timeout :
    SMap.find sPaused.cx.resume sPaused.cx.pc.toNat = some 5 ∧ 5 ≤ sPaused.pace.toNat ∧
    gives (exec (.waitw 5 8) sPaused) (fun t => (t.cx.s 5).getLsbD 10) = true ∧
    (sWaiting.ctx 0).cs = .blocked (.waitw 5) ∧ (sWaiting.ctx 0).gang = none ∧
    SMap.find (sWaiting.ctx 0).resume (sWaiting.ctx 0).pc.toNat = some 5 ∧ 5 ≤ sWaiting.pace.toNat := by decide
/-- s13 names the completion registers. -/
def sTop : State := one (((cx0.setS 11 0x400100).setS 12 0x410000).setS 13 0xFD00000000000000) core0 part0
theorem test_meets_WaitAndWatchWords_entries :
    spaceOf (s0.cx.s 8) = .scratch ∧ (s0.core s0.curCore).ways = none ∧ (s0.cx.s 8).toNat + 1 ≤ extent (s0.core s0.curCore).waym ∧
    scratchIdx (s0.core s0.curCore).waym (s0.cx.s 8).toNat / 32 = 8 ∧ s0.cx.watch.find? (fun e => e.tgt = .scratch s0.curCore 8) = none ∧
    (List.range 8).find? (fun i => !(s0.cx.watch.any (fun e => e.idx = i))) = some 0 ∧
    (let w := ([{ idx := 3, tgt := .scratch 0 8, fired := false }] : List WatchEntry)
     ((one { cx0 with watch := w } core0 part0).cx.watch.find? (fun e => e.tgt = .scratch 0 8)).map (fun e => e.idx) = some 3) ∧
    (let w := (List.range 8).map entry
     w.find? (fun e => e.tgt = .scratch 0 8) = none ∧ (List.range 8).find? (fun i => !(w.any (fun e => e.idx = i))) = none) ∧
    spaceOf (sTop.cx.s 13) = .completion ∧ (sTop.cx.s 13).toNat % 2 ^ 56 < 32 ∧ sTop.cx.watch.find? (fun e => e.tgt = .completion) = none ∧
    spaceOf (sTop.cx.s 11) = .translated ∧
    isOk (sTop.transPlace sTop.curCore sTop.curPart (sTop.cx.st.priv = 0) (Req.load 1) (sTop.cx.s 11)) data100 = true ∧
    sTop.cx.watch.find? (fun e => e.tgt = .phys (0x400100 / 32) false) = none := by and_intros <;> decide

/-! ### States that meet the hypotheses of the statements: vector words, the matrix array, copies -/

def vword (i : Instr) (x y : Word) : VWord :=
  { key := 0, pc := 0x3FFFFC, instr := i, x := x, y := y, e5 := 0, e6 := 0, e7 := 0, frm := 0, krb := 0, fromSeq := false }
def withVq (n : Nat) (i : Instr) : State := one cx0 { core0 with vq := List.replicate n (vword i 0 0) } part0

theorem test_meets_VectorIssue :
    vecSpec (.vaddF32 1 2 3 0) = some (none, none, none) ∧ good (s0.vecChecks s0.cur (.vaddF32 1 2 3 0) 0 0) = true ∧
    (s0.core s0.curCore).vq.length < 8 ∧ 8 ≤ ((withVq 8 (.vaddF32 1 2 3 0)).core 0).vq.length ∧
    vecSpec (.vadd 1 2 3 0 3) = some (none, none, none) ∧ (Instr.vadd 1 2 3 0 3).wellFormed = false ∧
    vcvtOk (s0.cx.e 5) 1 2 0 = false ∧ vtabOk ((one (cx0.setE 6 0x7F80000000000000) core0 part0).cx.e 6) = false ∧
    frameOk (s0.cx.e 7) = false ∧ (s0.cx.s 9).toNat % 64 ≠ 0 ∧ (0x4000 : Word).toNat % 8 = 0 ∧ s0.inScratch s0.curCore 0x4000 24 = false ∧
    vecSpec (.vadd 1 2 3 0 0) = some (none, none, none) ∧ (Instr.vadd 1 2 3 0 0).wellFormed = true := by decide

def workTask (k : TaskKind) : Task := { kind := k, hdr := [], mbox := 0, num := 1, reserved := [], slot := none, check := none,
                                         follower := false }
def work : State := one { cx0 with task := some (workTask .work) } core0 part0
def handler : Ctx := { cx0 with task := some (workTask .handler) }
theorem test_meets_work_routines : work.cx.isWork = true ∧ codeOf (exec (.vksend 1 2 0) work) = some 0x2C := by decide

/-- A VLD at scratch 0x4000, beyond the four ways, faults when it is performed. -/
def vldOut : State := one (cx0.setS 13 0x4000) { core0 with vq := [vword (.vld 1 13 0 0) 0x4000 0] } part0
theorem test_meets_VectorPerform :
    ((withVq 1 (.vredAdd 5 1 0)).core 0).vq = [vword (.vredAdd 5 1 0) 0 0] ∧ ((withVq 1 (.vredAdd 5 1 0)).core 0).xsels = [] ∧
    ((withVq 1 (.vredAdd 5 1 0)).core 0).ways = none ∧ 0 = (vword (.vredAdd 5 1 0) 0 0).key / 4 ∧
    (((withVq 1 (.vredAdd 5 1 0)).ctx 0).vecPure (.vredAdd 5 1 0) 0 0 0 0).isSome = true ∧
    (vldOut.core 0).vq = [vword (.vld 1 13 0 0) 0x4000 0] ∧
    trapCode ((vldOut.setCore 0 { vldOut.core 0 with vq := [] }).vecDo (vword (.vld 1 13 0 0) 0x4000 0)) = some 0x21 := by decide

/-- Lanes 0 to 3 of m1, and a vector of ones. -/
def vcx : Ctx := (cx0.setM 1 0x0F).setV 2 (Vector.replicate 8 1)
theorem test_meets_VectorFrame :
    (vcx.vecPure (.vadd 1 2 3 1 0) 0 0 0 0).isSome = true ∧ laneDst 0 (.vadd 1 2 3 1 0) = some (1, 1) ∧ (vcx.m 1).getLsbD 7 = false ∧
    (vcx.vecPure (.vcmpEq 2 2 3 1 0) 0 0 0 0).isSome = true ∧ (compareOp (.vcmpEq 2 2 3 1 0)).isSome = true := by decide
theorem test_meets_VectorElements :
    (elementOp (.vadd 1 2 3 1 2)).isSome = true ∧ (2 : BitVec 2) ≠ 3 ∧ (vcx.m 1).getLsbD 0 = true ∧ 3 < 2 ^ (2 : BitVec 2).toNat ∧
    (compareOp (.vcmpLt 2 2 3 1 0)).isSome = true ∧ (0 : BitVec 2) ≠ 3 := by decide
theorem test_meets_VectorLanes : (floatLane 0 (.vaddF32 1 2 3 1)).isSome = true ∧ (vcx.m 1).getLsbD 3 = true ∧ 7 < 8 ∧
    vcx.m 2 = 0 ∧ vcx.m 0 = 255 := by decide

/-- A VLD of lanes 0 to 3 at scratch 0x100, and a VST of lane 2 there. -/
def vldIn : State := (withVq 1 (.vld 1 13 0 1)).setCore 0 { (withVq 1 (.vld 1 13 0 1)).core 0 with vq := [vword (.vld 1 13 0 1) 0x100 0] }
def vstIn : State := ((withVq 1 (.vst 1 13 0 1)).setCore 0 { (withVq 1 (.vst 1 13 0 1)).core 0 with vq := [vword (.vst 1 13 0 1) 0x100 0] }).setCtx 0
  (((withVq 1 (.vst 1 13 0 1)).ctx 0).setM 1 4)
theorem test_meets_VectorPerform_load :
    (vldIn.core 0).vq = [vword (.vld 1 13 0 1) 0x100 0] ∧ (vldIn.core 0).xsels = [] ∧ (vldIn.core 0).ways = none ∧
    (vldIn.ctx 0).relq = [] ∧ (List.range 8).all (fun i => !((vldIn.ctx 0).m 1).getLsbD i ||
      (match (vldIn.setCore 0 { vldIn.core 0 with vq := [] }).reach 0 (Req.load 4) (0x100 + BitVec.ofNat 64 (4 * i)) with
        | .ok p => good ((vldIn.setCore 0 { vldIn.core 0 with vq := [] }).readPlace 0 p 4 (0x100 + BitVec.ofNat 64 (4 * i)))
        | .error _ => false)) = true := by decide
theorem test_meets_VectorPerform_store :
    (vstIn.core 0).vq = [vword (.vst 1 13 0 1) 0x100 0] ∧ (List.range 8).all (fun j => ((vstIn.ctx 0).m 1).getLsbD j == (j == 2)) = true ∧
    (vstIn.ctx 0).modCnt < 64 ∧ (vstIn.ctx 0).sysCnt < 64 ∧
    isOk ((vstIn.setCore 0 { vstIn.core 0 with vq := [] }).reach 0 (Req.store 4) 0x108) (.array 0 0x108) = true ∧
    good ((vstIn.setCore 0 { vstIn.core 0 with vq := [] }).writePlace 0 (.array 0 0x108) (leBytes 4 (lane ((vstIn.ctx 0).v 1) 2)) 0x108) = true := by
  and_intros <;> decide

/-- E(0) for 64 products of BF16 into one element of each of four sub-arrays, E(2) for FP32 drained; slots 0 to 15 claimed. -/
def mcx : Ctx := ((cx0.setE 0 0x0000000080220000).setE 2 0x700).setS 11 0x80
def claimed (n : Nat) : State :=
  { one mcx core0 part0 with cells := [(0, { Cell.reset with part := some 1, claims := (List.range 16).map (fun o => (o, (0, none))),
                                                             mq := List.replicate n { instr := .mzero 8, key := 0, task := 0, pc := 0, x := 1, y := 0, e0 := 0, e1 := 0, e2 := 0, e3 := 0, priv := 0, num := 0, remote := none, kAt := none } })] }
theorem test_meets_MatrixQueueWords :
    ((claimed 0).cx.s 8).toNat < 2 ^ 16 ∧ ((claimed 0).cx.s 9).toNat < 2 ^ 8 ∧
    ((6 : BitVec 4).toNat ≤ 6 ∧ ((claimed 0).cx.s 9).toNat < 16 ∧ ((claimed 0).cx.s 11).toNat % 128 = 0 ∧ spaceOf ((claimed 0).cx.s 11) ≠ .rank ∧
      SMap.find ((claimed 0).cell (claimed 0).curCell).claims 2 = some ((claimed 0).cur, none) ∧ (claimed 0).cx.isWork = false ∧
      (claimed 0).fenceMet (claimed 0).cur 0 = true ∧ (claimed 0).cx.relq = [] ∧ ((claimed 0).core 0).ways = none) ∧
    mmaOk (mcx.e 0) (mcx.e 1) (mcx.e 2) (mshape (mcx.e 0) (mcx.e 1) (mcx.e 2) none) = true ∧
    (slotsUsed (mshape (mcx.e 0) (mcx.e 1) (mcx.e 2) none)).all (fun o => (((claimed 0).cell 0).held 0).contains o) = true ∧
    ((claimed 0).cell 0).mq.length < 16 ∧ 16 ≤ ((claimed 16).cell 0).mq.length := by and_intros <;> decide
theorem test_meets_MatrixQueueWords_drain :
    shapeOk (mcx.e 0) (mcx.e 2) = true ∧ drainBytes (bits (mcx.e 2) 11 8) = 4 ∧ (mcx.s 11).toNat % 4 = 0 ∧ (mcx.s 8).toNat % 4 = 0 ∧
    (mcx.e 3).toNat % 8 = 0 ∧ (claimed 0).drainInScratch 0 (mshape (mcx.e 0) (mcx.e 1) (mcx.e 2) none) (mcx.s 11) (mcx.s 8) = true := by decide
theorem test_meets_MatrixScalarWords :
    (s0.cx.s 8).toNat < 2 ^ 16 ∧ (maskSlots (s0.cx.s 8)).filter (fun o => (s0.cell 0).claims.any (fun e => e.1 = o && e.2.1 ≠ s0.cur)) = [] ∧
    (let u := { s0 with cells := [(0, { Cell.reset with part := some 1, claims := [(8, (1, none))] })] }
     (maskSlots (u.cx.s 8)).filter (fun o => (u.cell 0).claims.any (fun e => e.1 = o && e.2.1 ≠ u.cur)) = [8]) ∧
    ((claimed 0).cx.s 9).toNat < 2 ^ 12 ∧ (maskSlots ((claimed 0).cx.s 8)).all (fun o => (((claimed 0).cell 0).held 0).contains o) = true ∧
    (claimed 0).cx.st.chk = false ∧ ((claimed 0).cell 0).grants.length < 8 ∧
    (claimed 0).validCell (bits ((claimed 0).cx.s 8) 31 16) = true ∧ (mcx.e 3).toNat % 8 = 0 ∧
    dieOf (claimed 0).curCore = bits ((claimed 0).cx.s 8) 31 16 / 8192 ∧
    ((claimed 0).cell 0).mq.all (fun o => o.key ≠ (claimed 0).cur || o.remote.isSome) = true ∧
    (claimed 0).cx.isWork = false ∧ (claimed 0).fenceMet (claimed 0).cur 0 = true ∧ (claimed 0).cx.relq = [] := by decide

def mqop (i : Instr) (remote : Option Nat) : MqOp :=
  { instr := i, key := 0, task := 0, pc := 0, x := 0x11, y := 0, e0 := 0x0000000000220000, e1 := 0, e2 := 0x700, e3 := 0, priv := 0, num := 0, remote := remote, kAt := none }
def inMq (i : Instr) (frozen : Bool) : State := { s0 with cells := [(0, { Cell.reset with part := some 1, mq := [mqop i none], mqFrozen := frozen })] }
def grant1 : Grant := { nonce := 0, slots := 0, rights := 1, accs := 0xFF, key := 4, part := 1 }
/-- A capability of cell 0 for every accumulator; with K = 0 no slot is read. -/
def remoteOp : MqOp := { mqop (.mmaR 8 0) (some 1) with x := 0x10FF }
def remoteIn (g : List Grant) : State := { s0 with cells := [(0, { Cell.reset with part := some 1, mmaIn := [remoteOp], grants := g })] }
theorem test_meets_MatrixPerform :
    (∀ i ∈ [Instr.mzero 8, .mrel 8, .mma 0], ((inMq i false).cell 0).mq = [mqop i none]) ∧ ((inMq (.mma 0) false).cell 0).mqFrozen = false ∧
    (inMq (.mma 0) false).markers = [] ∧ ((inMq (.mma 0) false).core 0).ways = none ∧
    good (((inMq (.mma 0) false).cell 0).mmaCheck (mshape 0x220000 0 0x700 none)) = true ∧ ((inMq (.mma 0) true).cell 0).mqFrozen = true ∧
    ((remoteIn [grant1]).cell 0).mmaIn = [remoteOp] ∧ SMap.get ((remoteIn [grant1]).cell 0).holding [] 1 = [] ∧ ((remoteIn [grant1]).cell 0).part = some 1 ∧
    ((remoteIn [grant1]).cell 0).mq.length < 16 ∧
    ((remoteIn [grant1]).cell 0).grantFor 0 remoteOp 1 (mshape remoteOp.e0 remoteOp.e1 remoteOp.e2 none) = true ∧
    ((remoteIn []).cell 0).grants = [] := by and_intros <;> decide

def cmd0 (e : Vector Word 8) (dst : Word) : CopyCmd :=
  { id := 0, form := 0, dst := dst, src := 0x100, e := e, key := 0, task := 0, priv := 0, exch := false, done := 0, ends := 0, phase := 0 }
/-- A copy of 64 bytes from 0x100. -/
def e64 : Vector Word 8 := (Vector.replicate 8 0).set 1 64
def chan (cmds : List CopyCmd) (fr : Bool) : Core := { core0 with ch := core0.ch.set 0 { Channel.reset with cmds := cmds, frozen := fr } }
theorem test_meets_CopyCommands :
    work.cx.isWork = true ∧ s0.cx.isWork = false ∧ good (copyChecks 0 s0.cx.ereg (s0.cx.s 8) (s0.cx.s 9)) = true ∧ s0.fenceMet s0.cur 0 = true ∧ s0.cx.relq = [] ∧
    ((s0.core 0).chan 0).cmds.length < 8 ∧ 8 ≤ ((chan (List.replicate 8 (cmd0 e64 0x200)) false).chan 0).cmds.length ∧
    (let d := { cmd0 e64 0x200 with done := 64 }
     ((chan [d] false).chan 0).cmds = [d] ∧ ((chan [d] false).chan 0).frozen = false ∧ d.e[2] = 0 ∧ d.e[4] = 0 ∧ d.total ≤ d.done ∧
     d.total ≠ 0 ∧ ((chan [d] false).chan 0).inFlight = 0) ∧
    ((chan [cmd0 e64 0x200] true).chan 0).frozen = true ∧ (one cx0 (chan [cmd0 e64 0x200] true) part0).markers = [] ∧
    (chan [cmd0 e64 0x200] true).ways = none ∧ (one cx0 (chan [cmd0 e64 0x200] true) part0).parking 0 = false ∧
    good ((one cx0 (chan [cmd0 e64 0x200] false) part0).copyStep 0 0 (cmd0 e64 0x200)) = true ∧
    (let s := one cx0 (chan [cmd0 e64 0x430000] false) part0
     (trapCode (s.copyStep 0 0 (cmd0 e64 0x430000))).isSome = true ∧ (s.ctx 0).st.chk = false) := by and_intros <;> decide

/-- A VADD.f32 after the REPB at 0x400000. -/
def repCode : Mem := [(0x400004, 0x41), (0x400005, 0x84)]
def sRepb : State := { s0 with mem := repCode }
def body0 : List (Word × BitVec 32) := [(0x400004, 0x00008441)]
def seq0 : Sequencer := { own := false, count := 2, iter := 0, idx := 0, wb := 0, ws := 1, stp := 0 }
def sSeq : State := one { cx0 with rep := body0, seqr := some seq0 } core0 part0
theorem test_meets_RepetitionWords :
    s0.cx.seqr = none ∧ 16 < (17 : BitVec 6).toNat ∧ isOk (sRepb.capture sRepb.cur (sRepb.cx.pc + 4) 1) body0 = true ∧
    body0.all (fun p => (capturedInstr p.2).isSome) = true ∧ sRepb.cx.loops = [] ∧ s0.cx.rep = [] ∧
    (let x := { cx0 with rep := body0 }
     x.rep ≠ [] ∧ bits (x.e 0) 63 59 + (bits (x.e 0) 58 54 + 1) ≤ 32 ∧ (x.s 8).toNat ≤ 65535 ∧ x.seqr = none) ∧
    sSeq.cx.seqr = some seq0 ∧ sSeq.cx.rep[seq0.idx]? = some (0x400004, 0x00008441) ∧ sSeq.cx.cs = .ready ∧
    capturedInstr 0x00008441 = some (.vaddF32 8 8 0 0) ∧
    ((sSeq.seqWord sSeq.cur 0x400004 (renameV seq0.rename (.vaddF32 8 8 0 0))).elim false good) = true := by and_intros <;> decide

/-- The descriptor at 0x400100 of one buffer of 32 bytes at 0x200, with its LAND and FREE counters at 0x410000 and 0x410008. -/
def stagedMem (free : List Host.Cell) : Mem :=
  [(0x400101, 0x02), (0x400108, 0x05), (0x400110, 0x01), (0x40011A, 0x41), (0x400120, 0x08), (0x400122, 0x41)] ++ free
def sStaged (free : List Host.Cell) : State := { one (sMem.cx.setS 13 0) core0 part0 with mem := stagedMem free }
def desc0 : Staged := { base := 0x200, depth := 1, sz := 5, unit := 1, lands := 0x410000, free := 0x410008 }
def ctr8 : Place := .phys 0x410008 0 true false false
/-- A counter reads as v and leaves a state with a property. -/
def counts (r : Except Stop (Nat × State)) (v : Nat) (p : State → Bool) : Bool :=
  match r with
  | .ok (n, t) => n == v && p t
  | .error _ => false
theorem test_meets_StagedBufferWords :
    isOk ((sStaged []).staged ((sStaged []).cx.s 11)) desc0 = true ∧ 0 = ((sStaged []).cx.s 13).toNat % desc0.depth ∧
    (sStaged []).fenceMet 0 6 = true ∧ isOk ((sStaged []).counterAt false (BitVec.ofNat 64 (desc0.lands + 8 * 0))) ctr0 = true ∧
    isOk ((sStaged []).counterAt false (BitVec.ofNat 64 desc0.free)) ctr8 = true ∧
    isOk ((sStaged []).counterAt true (BitVec.ofNat 64 desc0.free)) ctr8 = true ∧
    (((sStaged []).cx.s 13).toNat / desc0.depth + 1) * desc0.unit < 2 ^ 64 ∧
    counts ((sStaged []).counterRead ctr0 0x410000) 0 (fun _ => true) = true ∧
    counts ((sStaged []).counterRead ctr8 0x410008) 0 (fun r => good (r.counterAdd r.curCore ctr8 1 0x410008)) = true ∧
    counts ((sStaged [(0x410008, 1)]).counterRead ctr8 0x410008) 1 (fun _ => true) = true ∧ ((sStaged [(0x410008, 1)]).cx.s 13).toNat < 1 ∧
    0 < ((sStaged []).cx.s 9).toNat := by and_intros <;> decide

/-! ### States that meet the hypotheses of the statements: the carousel, rays and frames, edges, the exchange -/

/-- Page tables that map the low GiB of partition 1 to itself, from PTROOT 0x1000; their zero bytes are listed too, which
makes a walk quick to evaluate. -/
def tables : Mem :=
  [(0x1000, 1), (0x1001, 32), (0x1002, 0), (0x1003, 0), (0x1004, 0), (0x1005, 0), (0x1006, 0), (0x1007, 0),
   (0x2000, 1), (0x2001, 48), (0x2002, 0), (0x2003, 0), (0x2004, 0), (0x2005, 0), (0x2006, 0), (0x2007, 0),
   (0x3000, 125), (0x3001, 0), (0x3002, 0), (0x3003, 0), (0x3004, 0), (0x3005, 0), (0x3006, 16), (0x3007, 0)]
def partW : Part := { part0 with desc := part0.desc.set 0 0x1000 }
def cardef1 : CarDef := { table := [0x400280], order := [0], g := 8, lapctr := 0, heads := [(0, 0, 0, 0)] }
def car1 : Carousel := { Carousel.reset with cdef := some cardef1 }
def withCar (x : Ctx) (c : Core) (car : Carousel) : State := one x c { partW with car := car }
/-- A carousel definition at 0x400100: table at 0x400200, order at 0x400240, one segment at 0x400280, G = 8. -/
def carMem : Mem :=
  [(0x1000, 1), (0x1001, 32), (0x1002, 0), (0x1003, 0), (0x1004, 0), (0x1005, 0), (0x1006, 0), (0x1007, 0),
   (0x2000, 1), (0x2001, 48), (0x2002, 0), (0x2003, 0), (0x2004, 0), (0x2005, 0), (0x2006, 0), (0x2007, 0),
   (0x3000, 125), (0x3001, 0), (0x3002, 0), (0x3003, 0), (0x3004, 0), (0x3005, 0), (0x3006, 16), (0x3007, 0),
   (0x400101, 2), (0x400102, 64), (0x400108, 64), (0x400109, 2), (0x40010A, 64), (0x400110, 1), (0x400112, 1),
   (0x400116, 8), (0x400200, 128), (0x400201, 2), (0x400202, 64)]
def carSup : State := { one { (cx0.setS 11 0x400100) with st := { cx0.st with priv := 1 } } core0 partW with mem := carMem }
def sub1 (seg : Nat) (st : BitVec 2) (dlv : Nat) : Sub :=
  { valid := true, reg := 0, fin := 0, seg := seg, mask := [], e4 := 0, e5 := 0, e6 := 0, st := st, ovr := false, busy := false, gone := false,
    mal := false, dlv := dlv, rel := 0, passes := 0, posted := 0, key := 0, task := 0, user := true }
theorem test_meets_CarouselEntryWords_definition :
    s0.cx.st.chk = false ∧ s0.cx.isWork = false ∧ s0.cx.st.priv ≠ 1 ∧ carSup.cx.st.priv = 1 ∧ carSup.fenceMet carSup.cur 0 = true ∧ carSup.cx.relq = [] ∧ carSup.cx.s 0 = 0 ∧
    carSup.cx.s 11 ≠ 0 ∧ (carSup.cx.s 11).toNat % 64 = 0 ∧ canonical (carSup.cx.s 11) = true ∧
    (match carSup.carRead (carSup.cx.s 11) with
      | .ok (.ok n) => decide (n.table = [0x400280] ∧ n.order = [0] ∧ n.g = 8)
      | _ => false) = true ∧
    (match { carSup with mem := tables }.carRead (carSup.cx.s 11) with
      | .ok (.error e) => decide (e = 1)
      | _ => false) = true := by and_intros <;> decide +kernel
/-- A mask of bit 0 at 0x100, and a target in scratch. -/
def carCtx : Ctx := (cx0.setE 4 0xC000000000000200).setS 13 0
def carCore : Core := { core0 with arr := [(0x100, 1)] }
theorem test_meets_CarouselEntryWords_entries :
    let s := withCar carCtx carCore car1
    (s.cx.s 8).toNat % 32 = 0 ∧ s.inScratch s.curCore (s.cx.s 8).toNat 32 = true ∧ s.fenceMet s.cur 0 = true ∧ s.cx.relq = [] ∧ (s.core 0).ways = none ∧
    (s.core 0).subs = [] ∧ isOk (s.scrRead s.cur (s.cx.s 8).toNat 4) (1 :: List.replicate 31 0) = true ∧
    (s.part s.curPart).car.nseg ≤ bits (s.cx.s 9) 11 0 ∧ bits (s.cx.s 13) 11 0 < (s.part s.curPart).car.nseg ∧ e4Tk (s.cx.e 4) = 3 ∧
    maskBits (1 :: List.replicate 31 0) ≠ [] ∧
    s.targetOk 0 0 8 { sub1 0 0 0 with mask := 1 :: List.replicate 31 0, e4 := s.cx.e 4 } = true ∧
    (let c := { core0 with subs := [(0, sub1 0 1 9)] }
     SMap.find (withCar carCtx c car1 |>.core 0).subs 0 = some (sub1 0 1 9) ∧ (sub1 0 1 9).valid = true ∧ (sub1 0 1 9).st ≠ 2) := by
  and_intros <;> decide
theorem test_meets_CarouselRequestWords :
    let s := withCar carCtx { core0 with subs := [(0, sub1 0 1 9)] } car1
    s.cx.st.chk = false ∧ s.cx.isWork = false ∧ s0.cx.resume = [] ∧ (s0.core 0).subs = [] ∧ s.cx.resume = [] ∧ (s.cx.s 13).toNat < 64 ∧
    SMap.find (s.core 0).subs (s.cx.s 13).toNat = some (sub1 0 1 9) ∧ min (bits (s.cx.s 13) 13 0 + 8) (((s.part 1).car).len 0 + 1) ≤ 9 ∧
    (sub1 0 1 9).valid = true ∧ (sub1 0 1 9).st = 1 ∧ (sub1 0 2 9).st = 2 ∧ s.clock ≤ (sub1 0 2 9).fin ∧
    (sub1 0 1 0).dlv < min (bits (s.cx.s 13) 13 0 + 8) (((s.part 1).car).len 0 + 1) ∧
    s0.cx.s 0 = 0 ∧ (cx0.setS 5 1).s 5 = 1 ∧ (cx0.setS 5 3).s 5 = 3 ∧ (cx0.setS 5 4).s 5 = 4 := by and_intros <;> decide
def beat (num : Option Nat) (len : Nat) : Beat :=
  { part := 1, seg := 0, len := len, kind := 0, nodes := 0, prims := 0, lap := 0, slot := 0, promoted := false, reinstated := false, cut := false,
    num := num, data := [], tag := 0, sb := 0 }
/-- A whole group: the header and the one beat of a pass. -/
def beats1 : List Beat := [beat none 0, beat (some 0) 0]
def pass0 : Pass := { seg := 0, promoted := false, reinstated := false }
theorem test_meets_CarouselSourceSteps :
    (s0.part 1).car.cdef = none ∧
    (let c := { car1 with cur := some pass0 }
     c.cdef = some cardef1 ∧ c.cur = some pass0 ∧ c.ready ≤ (withCar cx0 core0 c).clock ∧
       (withCar cx0 core0 c).carTurn (((withCar cx0 core0 c).part 1).dies.headD 0) 1 = true ∧ (withCar cx0 core0 c).relayRoom 1 = true) ∧
    (let s := { s0 with dies := [(1, { Die.reset with relay := [beats1] })], parts := [(1, { part0 with cells := [0, 8192] })] }
     (s.die 1).relay.find? groupWhole = some beats1 ∧ beats1.head? = some (beat none 0) ∧ 8192 ∈ (s.part 1).cells ∧ 8192 / 8192 = 1 ∧ (s.part 1).cells.Nodup) ∧
    (let s := { withCar cx0 core0 { car1 with cutAt := some 5 } with clock := 6, cells := [(0, { Cell.reset with part := some 1, rollAt := some 4 })] }
     (s.part 1).car.cutAt = some 5 ∧ (s.part 1).car.settled = false ∧ 5 < s.clock ∧ ∀ x ∈ (s.part 1).cells, (s.cell x).rolled s.clock = true) ∧
    (let c := { car1 with inGap := false, settled := true, base := 1 }
     c.left = [] ∧ c.cur = none ∧ c.reinst = [] ∧ c.base ≠ 0 ∧ (withCar cx0 core0 c).beatsOut 1 = false ∧ cardef1.lapctr = 0 ∧ c.next = none) ∧
    (let c := { car1 with noticed := [0], skipped := [0] }
     0 ∈ c.noticed ∧ 0 ∈ c.skipped ∧ 0 ∉ c.reinstated) := by and_intros <;> decide
def catching (b : Beat) (p : Option Passing) (fr : Bool) : State :=
  { s0 with cells := [(0, { Cell.reset with part := some 1, catchQ := [b], passing := p, lqFrozen := fr })] }
theorem test_meets_CatchUnitSteps :
    ((catching (beat none 0) none true).cell 0).catchQ = [beat none 0] ∧ ((catching (beat none 0) none true).cell 0).lqFrozen = true ∧
    (catching (beat none 0) none false).markers = [] ∧ (∀ i, i < 4 → ((catching (beat none 0) none false).core (4 * 0 + i)).subs = []) ∧
    (beat none 0).cut = false ∧ ((catching (beat none 0) none false).cell 0).part = some 1 ∧ (beat (some 0) 0).num = some 0 ∧
    ((catching (beat (some 0) 0) none false).cell 0).passing = none ∧
    (let p : Passing := { head := beat none 0, arrived := 0, payload := [] }
     ((catching (beat (some 0) 0) (some p) false).cell 0).passing = some p ∧ p.head.part = 1 ∧ p.head.slot = (beat (some 0) 0).slot ∧
     p.head.lap = (beat (some 0) 0).lap) := by and_intros <;> decide

theorem test_meets_RayHitWord :
    let s := one (((cx0.setS 11 0x400100).setS 13 0x3F80000000000007).setS 14 0x8000000000000007) core0 part0
    s.cx.isWork = false ∧ (s.cx.st.pure && (5 : BitVec 5) ≠ 0) = false ∧ isOk (s.reach s.cur (Req.atomic 8 false) (s.cx.s 11)) data100 = true ∧
    0x80000000 ≤ bits (s.cx.s 14) 63 32 ∧ bits (s.cx.s 13) 63 32 ≤ 0x7F800000 ∧ s.cx.st.pure = false ∧ isOk (s.ordered s.cur (s.cx.s 11) 8) () = true ∧
    isOk (s.ackRoom s.cur data100) () = true ∧ isOk (s.readPlace s.cur data100 8 (s.cx.s 11)) (List.replicate 8 0) = true ∧
    good (s.writePlace s.cur data100 (leBytes 8 (min 0 (s.cx.s 13).toNat)) (s.cx.s 11)) = true := by and_intros <;> decide

/-- E(6) with room for 4 splats at 0x1000 and 0x2000, a target of 64 x 64, and a tile at 0x2800. -/
def spCtx : Ctx := (((cx0.setE 6 0x0004000010002000).setE 7 0x0040004000000000).setS 11 0x2800).setS 13 4
def sp (x : Ctx) : State := one x core0 part0
def spcmd (i : Instr) : SplatCmd := { key := 0, pc := 0x400000, instr := i, x := 0, y := 0, z := 0, e6 := spCtx.e 6, e7 := 0, clock := 0 }
theorem test_meets_SplatAndFrameWords_splats :
    s0.splatAreas (s0.cx.e 6) = false ∧ (sp spCtx).splatAreas ((sp spCtx).cx.e 6) = true ∧ SMap.find [(0x400000, 7)] spCtx.pc.toNat = some 7 ∧
    (spCtx.s 13).toNat ≤ bits (spCtx.e 6) 63 48 ∧ frameOk (spCtx.e 7) = true ∧ bits (spCtx.s 13) 62 32 = 0 ∧
    (spCtx.s 8).toNat % 32 = 0 ∧ spCtx.s 0 = 0 ∧ (spCtx.s 11).toNat % 2048 = 0 ∧ (sp spCtx).inScratch 0 (spCtx.s 11).toNat 2048 = true ∧
    SMap.find (sp spCtx).cx.resume (sp spCtx).cx.pc.toNat = none ∧ (sp spCtx).vbusy 0 = false ∧ spCtx.seqr = none ∧ spCtx.deferred = none ∧
    ((sp spCtx).core 0).ways = none ∧ ((sp spCtx).clu (cluOf (sp spCtx).curCore)).splats = [] := by and_intros <;> decide
def frDie : Die := { Die.reset with streams := Die.reset.streams.set 0 { Stream.reset with reg := Stream.reset.reg.set 0 0x8000000000000000 } }
theorem test_meets_SplatAndFrameWords_frames :
    let s := { sp spCtx with dies := [(0, frDie)] }
    (s.core 0).ways = none ∧ s.cx.relq = [] ∧ s.markers = [] ∧ isOk (s.ordered s.cur (s.cx.s 11) 2048) () = true ∧
    SMap.find s.cx.resume s.cx.pc.toNat = none ∧ s.vbusy 0 = false ∧ s.cx.isWork = false ∧ s.frDescOk 0 (s.cx.s 0) = true ∧ s.cx.st.chk = false ∧ (s.core 0).fqFrozen = false ∧ (s.die 0).fq.length < 64 ∧
    bits (s.cx.s 0) 63 32 < (s.stream 0 0).closed + 2 ∧ good (s.scrRead s.cur (s.cx.s 11).toNat 256) = true ∧
    (let t := { sp spCtx with clus := [(0, { Cluster.reset with splats := [spcmd (.spsort 0)] })] }
     (t.clu 0).splats = [spcmd (.spsort 0)] ∧ good ((t.setClu 0 { t.clu 0 with splats := [] }).splatEffect (spcmd (.spsort 0))) = true) := by
  and_intros <;> decide +kernel

/-- KRB0 with one rank of 64 bins, KRB1 zero; E(0) to E(7) of an edge program of one group. -/
def krb0v : Word := 0x0000000001040000
def edgeE : Vector Word 8 := #v[0x400000, 0x400040, 0x400080, 0x400088, 0x4000A0, 0x4000C0, 0, 0x0001000100000000]
def edgeCtx : Ctx := { (cx0.setS 11 krb0v) with ereg := edgeE }
def edgeCore : Core := { core0 with krb0 := krb0v }
theorem test_meets_EdgeWords :
    krbOk (s0.cx.s 8) (s0.cx.s 9) = false ∧ krbOk (edgeCtx.s 11) (edgeCtx.s 0) = true ∧ edgeOk s0.cx.ereg (s0.core 0).krb0 1 = false ∧
    edgeOk edgeCtx.ereg edgeCore.krb0 1 = true ∧ (one edgeCtx edgeCore part0).cx.isWork = false ∧
    ((one edgeCtx edgeCore part0).part 1).det = false ∧ (one edgeCtx edgeCore part0).fenceMet 0 0 = true ∧ edgeCtx.relq = [] ∧ (edgeCtx.s 9).toNat < 4 ∧
    s0.cx.st.chk = false := by decide

def exch (clk : Nat) (c : Core) : State :=
  { one { (cx0.setS 8 0x100) with task := some (workTask .exchange) } c part0 with dies := [(0, { Die.reset with exE := some 10 })], clock := clk }
def held0 : Held := { loop := 0, cycle := 2, data := List.replicate 64 0, addr := 0x100, d := 5, ctx := 0 }
def flit0 : LoopFlit := { loop := 0, pos := 15, cycle := 1, data := List.replicate 64 1 }
theorem test_meets_Exchange_issue :
    s0.cx.isExch = false ∧ (exch 0 core0).cx.isExch = true ∧ ((exch 0 core0).die (dieOf 0)).exE = some 10 ∧ ((exch 0 core0).cx.s 9).toNat < 2 ^ 12 ∧
    stopPos 0 0 = some 0 ∧ (0 + ((exch 0 core0).cx.s 9).toNat) % 2 = 0 ∧ ((exch 0 core0).cx.s 8).toNat % 64 = 0 ∧
    (exch 0 core0).inScratch 0 0x100 64 = true ∧ 10 + 2 / 2 < 20 + 4 ∧ 0 + 4 ≤ 10 + 2 / 2 ∧ isOk ((exch 0 core0).ordered 0 0x100 64) () = true ∧
    ((exch 0 core0).core 0).xmits.length < 8 ∧ isOk ((exch 0 core0).scrRead 0 0x100 8) (List.replicate 64 0) = true ∧
    ((exch 0 core0).core 0).xsels = [] ∧ ((exch 0 core0).core 0).ways = none ∧ (exch 0 core0).cx.relq = [] := by and_intros <;> decide
theorem test_meets_Exchange_steps :
    (let s := exch 12 { core0 with xmits := [held0] }
     (s.core 0).xmits = [held0] ∧ 10 + held0.cycle / 2 ≤ s.clock ∧ (∀ kc ∈ s.cores, kc.2.xmits = [] ∨ kc = (0, s.core 0)) ∧
     flitAt (s.die 0).flits 0 0 2 = none) ∧
    (let s := exch 20 { core0 with xsels := [held0] }
     (s.core 0).xsels = [held0] ∧ 10 + (held0.cycle + 1) / 2 + 3 ≤ s.clock ∧ (∀ kc ∈ s.cores, kc.2.xmits = []) ∧
     flitPassing (s.die 0).flits 0 0 2 = none ∧ flitPassing [flit0] 0 0 2 = some flit0) := by and_intros <;> decide

/-! ### States that meet the hypotheses of the statements: tasks, queues, system words -/

def mailCtx : Ctx := (cx0.setS 11 0x400100).setS 13 0x400000
def msg0 (kind : Nat) (mbox : Word) (hdr : List Word) : Message := { mbox := mbox, start := 0, hdr := hdr, part := 1, kind := kind, sender := 0, task := 0 }
theorem test_meets_TaskWords :
    let s := one mailCtx core0 part0
    s.cx.st.chk = false ∧ s.cx.isWork = false ∧ (s.cx.s 8).toNat % 64 = 0 ∧ s.inScratch 0 (s.cx.s 8).toNat 64 = true ∧ spaceOf (s.cx.s 11) = .translated ∧
    (s.core 0).ways = none ∧ s.cx.relq = [] ∧
    s.fenceMet 0 0 = true ∧ isOk (s.ordered 0 (s.cx.s 8) 64) () = true ∧ (s.core 0).unsent.length + (s.core 0).held.length < 8 ∧
    isOk (s.scrRead 0 (s.cx.s 8).toNat 8) (List.replicate 64 0) = true ∧ 8 ≤ (List.replicate 8 (msg0 0 0 [])).length ∧
    bit (s.cx.s 13) 0 = false ∧ bits (s.cx.s 13) 63 56 = 0 ∧ (s.cx.s 11).toNat % 64 = 0 ∧ s.cx.s 13 ≠ 0 ∧ (s.part 1).dir = [] ∧ (s.part 1).fwd = [] ∧
    (0x400108 : Word).toNat % 64 ≠ 0 ∧ s.cx.s 0 = 0 ∧ (∀ e ∈ [((0x400100 : Word), 0, (0x400000 : Word))], e.2.1 = s.curCore) ∧
    (5 : BitVec 6).toNat ≤ 5 ∧ s.cx.widw = 0 ∧ 5 < (6 : BitVec 6).toNat ∧
    (let x := { cx0 with widw := 0x0000000000208208 }
     ∀ j, j ≤ (3 : BitVec 6).toNat → bits x.widw (6 * j + 5) (6 * j) ≠ 0) ∧
    s.cx.gang = none ∧ s.cx.cs = .ready ∧ s.exitMet 0 = true ∧ s.cx.task.all (fun t => t.check.isNone && t.slot.isNone) = true ∧
    (∀ o ∈ (s.cell 0).mq, o.key ≠ s.cur ∨ o.remote.isSome = true) ∧ sCnt.exitMet 0 = false := by and_intros <;> decide
/-- The management mailbox in s11 of a supervisor, a full interface, and a directory with entries of another core and a forward. -/
def tableFull : Part := { part0 with dir := List.replicate 4096 ((0x500000 : Word), 1, (0x400000 : Word)) }
def twoCores : Part := { part0 with dir := [((0x400100 : Word), 1, (0x400000 : Word))], fwd := [((0x400140 : Word), 2, 0)] }
theorem test_meets_TaskWords_refusals :
    (one { mailCtx with st := { mailCtx.st with priv := 1 } } core0 part0).cx.st.priv = 1 ∧ (mailCtx.setS 14 mgmtMailbox).s 14 = mgmtMailbox ∧
    8 ≤ ({ core0 with unsent := List.replicate 8 (msg0 0 0 []) } : Core).unsent.length ∧
    twoCores.bound 0x400100 = some (1, 0x400000) ∧ (twoCores.forward 0x400140).isSome = true ∧
    part0.bound 0x400100 = none ∧ part0.forward 0x400100 = none ∧ 4096 ≤ tableFull.dir.length + tableFull.fwd.length := by and_intros <;> decide +kernel

def role0 : GangRole := { leader := 0, member := 0, members := [0, 4], wait := none }
def sGang : State := { s0 with ctxs := [(0, { cx0 with gang := some role0 }), (4, { cx0 with gang := some { role0 with member := 1 }, cs := .held })] }
theorem test_meets_TaskWords_gang :
    sGang.cx.gang = some role0 ∧ role0.members.Nodup ∧ (∀ m ∈ role0.members, sGang.quiet m = true ∧ (sGang.ctx m).isExch = false) := by
  and_intros <;> decide
theorem test_meets_GangWords :
    s0.cx.isWork = false ∧ s0.cx.st.pure = false ∧ s0.cx.gang = none ∧ (3 : BitVec 6) ≠ 2 ∧ s0.vbusy 0 = false ∧ s0.cx.seqr = none ∧ s0.cx.deferred = none ∧
    s0.curCore % 8 + (2 : BitVec 6).toNat ≤ 8 ∧ 8 < 7 + (2 : BitVec 6).toNat ∧ s0.gangKeys 0 1 1 1 = some [4] ∧ 4 ≠ s0.cur ∧
    (let t := { s0 with ctxs := [(0, cx0), (4, cx0), (5, cx0), (6, cx0), (7, cx0)] }
     t.gangKeys t.curCore t.curPart ((2 : BitVec 6).toNat - 1) 1 = none) ∧
    (s0.setCx { s0.cx with gang := some role0 }).cx.gang = some role0 ∧ role0.leader = s0.cur := by and_intros <;> decide

theorem test_meets_QueueWords :
    s0.cx.st.chk = false ∧ (s0.core 0).qwait = [] ∧ s0.fenceMet 0 0 = true ∧ s0.cx.relq = [] ∧ (s0.core 0).qclaim[(7 : BitVec 3).toNat] = none ∧
    ((s0.core 0).q[(7 : BitVec 3).toNat]).length < 4 ∧ (s0.core 0).q[(3 : BitVec 3).toNat] = [] ∧
    (let c := { core0 with q := core0.q.set 3 [1, 2, 3, 4] }
     4 ≤ (c.q[(3 : BitVec 3).toNat]).length ∧ c.q[(3 : BitVec 3).toNat] = 1 :: [2, 3, 4]) ∧ 4 ≤ (4 : BitVec 3).toNat := by and_intros <;> decide

def stage0 : Stage := { seed := false, inp := [0], out := [0], plen := 1, param := 0, template := [0, 0x400000, 0, 0, 0, 0, 0, 0], cells := [0], joining := [] }
def queue0 (recs : List QRec) : StageQueue := { lg := 4, base := 0x400400, prod := 0, cons := 0, recs := recs, next := recs.length, wasEmpty := true, wait := [] }
def graph0 (recs : List QRec) : Graph := { stages := [stage0], queues := [queue0 recs], rctr := 0, rarea := 0, rdepth := 1, due := [], window := 0 }
def res0 : Reserved := { port := 0, tag := 7, queue := 0, num := 0, place := 0 }
def stageTask : Task := { workTask .handler with hdr := [0, 0, 0, 0, 0, 0, 0, 0], reserved := [res0] }
def sStage : State := { one { cx0 with task := some stageTask } core0 { partW with graph := some (graph0 []) } with mem := tables }
theorem test_meets_StageQueueWords :
    s0.cx.st.chk = false ∧ s0.cx.task = none ∧ (3 : BitVec 6).toNat ≤ 3 ∧ sStage.curStage = some (0, stage0) ∧ (0 : BitVec 6).toNat < stage0.out.length ∧
    (sStage.cx.s 8).toNat % 64 = 0 ∧ sStage.inScratch 0 (sStage.cx.s 8).toNat 64 = true ∧ isOk (sStage.ordered 0 (sStage.cx.s 8) 64) () = true ∧
    (sStage.part 1).graph = some (graph0 []) ∧ (graph0 []).queues[stage0.out.getD 0 0]? = some (queue0 []) ∧ (queue0 []).full = false ∧
    (queue0 []).wait = [] ∧ (sStage.core 0).ways = none ∧ sStage.cx.relq = [] ∧ isOk (sStage.scrRead 0 0x100 8) (List.replicate 64 0) = true := by and_intros <;> decide
theorem test_meets_StageQueueWords_storage :
    sStage.partHold 0 1 ((queue0 []).base + BitVec.ofNat 64 (64 * (queue0 []).place)) 64 = none ∧
    (sStage.partStore 0 1 ((queue0 []).base + BitVec.ofNat 64 (64 * (queue0 []).place)) (List.replicate 64 0)).2 = none ∧
    sStage.cx.task = some stageTask ∧ bits (stageTask.hdr.getD 2 0) 63 48 ≠ 0xFFFF ∧ stageTask.reserved.find? (fun r => r.port = 0) = some res0 ∧
    isOk (sStage.partRead 1 (((graph0 []).queues[res0.queue]?).elim 0 (fun q => q.base) + BitVec.ofNat 64 (64 * res0.place)) 64) (List.replicate 64 0) = true ∧
    (match sStage.scrWrite 0 0x100 8 (List.replicate 64 0) with
      | .ok u => decide (u.cx.task = some stageTask)
      | .error _ => false) = true := by and_intros <;> decide +kernel

theorem test_meets_ExtensionAndOutputWords_wait :
    (one { cx0 with cs := .blocked .sequencer } core0 part0).cx.seqr = none ∧
    (one { cx0 with cs := .blocked .sequencer } core0 part0).cx.gang = none ∧
    SMap.find (one { cx0 with cs := .blocked .sequencer } core0 part0).cx.resume leaving = none := by decide

theorem test_meets_ExtensionAndOutputWords :
    s0.cx.seqr = none ∧ sSeq.cx.seqr = some seq0 ∧ 8 ≤ (List.replicate 8 ((0 : Word), 1)).length ∧ s0.cx.outl = [] ∧
    (s0.cx.s 9).toNat ≤ 262144 ∧ s0.rangeOk (s0.cx.s 8) (s0.cx.s 9).toNat = true ∧ s0.cx.isWork = false ∧ s0.fenceMet 0 5 = true ∧
    canonical (s0.cx.s 8) = true ∧
    (match s0.outBytes 0 [(0x100, 2)] with
      | .ok (bs, _) => decide (bs = [0, 0])
      | .error _ => false) = true := by decide

theorem test_meets_WaysWord :
    (3 : BitVec 6) ≠ 63 ∧ work.cx.isWork = true ∧ s0.cx.isWork = false ∧ s0.cx.st.chk = false ∧ s0.fenceMet 0 0 = true ∧ (s0.core 0).ways = none ∧
    s0.cx.relq = [] ∧ SMap.get (s0.cell 0).holding [] 1 = [] ∧ s0.waysClear 0 (s0.waysRun 0 0 3) (affected (s0.core 0).waym 3) = true ∧ (2 : Nat) < 6 ∧ (s0.core 0).waym.getLsbD 2 ≠ (3 : BitVec 6).getLsbD 2 := by decide +kernel

def sSup : State := one sup core0 part0
theorem test_meets_SystemRegisterWords :
    sysReg 0x16 = false ∧ sysReg 0x46 = false ∧ sysReg 0x7D = true ∧ sSup.cx.st.priv ≠ 0 ∧ sSup.cx.isWork = false ∧ sSup.cx.st.pure = false ∧
    s0.cx.st.priv = 0 ∧ (0x40 ≤ (0x75 : BitVec 11).toNat ∧ (0x75 : BitVec 11).toNat < 0x80 ∧ (0x75 : BitVec 11).toNat % 8 < 6) ∧
    (sysReg 6 && sysWritable 6) = false ∧ s0.cx.st.priv.toNat < 2 := by decide

theorem test_meets_SystemWords :
    s0.cx.st.priv = 0 ∧ sSup.cx.st.priv ≠ 0 ∧ sSup.cx.gang = none ∧ sSup.cx.st.ppriv.toNat ≤ 1 ∧ sSup.cx.epc.getLsbD 0 = false ∧ (1 : Word).getLsbD 0 = true ∧
    1 < (2 : BitVec 2).toNat ∧ sSup.quiet 0 = true ∧ (one { sup with modCnt := 1 } core0 part0).quiet 0 = false ∧
    bits (0x1000 : Word) 55 6 ≠ 0 ∧ (sSup.part 1).image = none ∧ (sSup.part 1).snapT = none := by decide

/-! ### States that meet the hypotheses of the statements: the module's own steps -/

def hdr0 (w2 : Word) : List Word := [0, 0x400000, w2, 0, 0, 0, 0, 0]
def header0 (w2 : Word) : Header :=
  { hdr := hdr0 w2, mbox := 0x400100, start := 0, bound := 0x400000, late := false, param := 0, reserved := [], slot := none, copied := false,
    sender := msg0 0 0x400100 (hdr0 w2) }
def unsent1 (p : Part) : State := one cx0 { core0 with unsent := [msg0 0 0x400100 (hdr0 0)] } p
def queued (w2 : Word) : State := one cx0 { core0 with launchQ := [header0 w2] } part0
def slist0 (ph idx : Nat) : SuperList := { hdr := hdr0 0x42, mbox := 0, base := 0x400500, idx := idx, running := 0, joined := false, late := false, exch := 0, phase := ph }
/-- Entries of the list at 0x400500: a work routine at 0x400000, an exchange routine, an end. -/
def listMem : Mem :=
  [(0x1000, 1), (0x1001, 32), (0x1002, 0), (0x1003, 0), (0x1004, 0), (0x1005, 0), (0x1006, 0), (0x1007, 0),
   (0x2000, 1), (0x2001, 48), (0x2002, 0), (0x2003, 0), (0x2004, 0), (0x2005, 0), (0x2006, 0), (0x2007, 0),
   (0x3000, 125), (0x3001, 0), (0x3002, 0), (0x3003, 0), (0x3004, 0), (0x3005, 0), (0x3006, 16), (0x3007, 0),
   (0x400502, 64), (0x40050A, 64), (0x40050F, 128), (0x400517, 192)]
def listed (ph idx : Nat) (d : Die) : State := { one { cx0 with cs := .idle } { core0 with slist := some (slist0 ph idx) } { partW with det := true } with mem := listMem, dies := [(0, d)] }
theorem test_meets_LaunchSteps :
    (unsent1 part0).core 0 = { core0 with unsent := [msg0 0 0x400100 (hdr0 0)] } ∧ (0x400100 : Word) ≠ mgmtMailbox ∧
    part0.bound 0x400100 = none ∧ part0.forward 0x400100 = none ∧
    (let p := { part0 with dir := [((0x400100 : Word), 1, (0x400000 : Word))] }
     p.bound 0x400100 = some (1, 0x400000) ∧ ((unsent1 p).cell (1 / 4)).part = some 1 ∧ ((unsent1 p).core 1).launchQ.length < 16 ∧
     (unsent1 p).mayArrive (msg0 0 0x400100 (hdr0 0)).die (dieOf 1) = true ∧ (unsent1 p).validCell (1 / 4) = true ∧
     ({ unsent1 p with disabled := [0] } : State).validCell (1 / 4) = false ∧ SMap.get ((unsent1 p).cell (1 / 4)).holding [] 1 = [] ∧
     headerBad p.det ((unsent1 p).listBusy 1 1) 0x400000 (hdr0 0x40) = true ∧
     headerBad p.det ((unsent1 p).listBusy 1 1) 0x400000 (hdr0 0) = false) ∧
    ((queued 0).core 0).launchQ = [header0 0] ∧ (queued 0).runs 0 = true ∧ ((queued 0).die 0).overBudget = false ∧ (header0 0).start.toNat ≤ (queued 0).pace.toNat ∧
    hdrList (hdr0 0x40) = true ∧ ((queued 0x40).core 0).slist.any (fun l => !(l.phase = 3 && l.running = 0)) = false ∧ hdrList (hdr0 0) = false ∧ hdrHeat (hdr0 0) = false ∧ (queued 0).idleCtx 0 = some 1 ∧
    hdrHeat (hdr0 4) = true ∧ hdrList (hdr0 4) = false ∧ (header0 4).copied = false ∧
    (queued 0xC).retainAll 0 1 [0, 0x400000, 0xC, 0, 0xFFF1, 0, 0, 0] 1 = none ∧ (queued 4).retainAll 0 1 (hdr0 4) (hdrNret (hdr0 4)) = some [] ∧
    hdrNret [0, 0x400000, 0xC, 0, 0xFFF1, 0, 0, 0] = 1 := by and_intros <;> decide
theorem test_meets_LaunchSteps_lists :
    ((listed 0 0 Die.reset).core 0).slist = some (slist0 0 0) ∧ (listed 0 0 Die.reset).runs 0 = true ∧
    isOk ((listed 0 0 Die.reset).listEntry 0 (slist0 0 0)) (0, 0x400000) = true ∧ (listed 0 0 Die.reset).idleCtx 0 = some 0 ∧
    isOk ((listed 0 1 Die.reset).listEntry 0 (slist0 0 1)) (2, 0x400000) = true ∧ (slist0 0 1).running = 0 ∧
    isOk ((listed 0 2 Die.reset).listEntry 0 (slist0 0 2)) (3, 0) = true ∧
    (let d := { Die.reset with exStart := some 0 }
     ((listed 2 1 d).die 0).exStart = some 0 ∧ (slist0 2 1).phase = 2 ∧ 0 ≤ (listed 2 1 d).clock ∧ ((listed 2 1 d).cell 0).part.isSome = true) ∧
    good (({ listed 0 0 Die.reset with mem := [] } : State).listEntry 0 (slist0 0 0)) = false ∧
    (let t := { s0 with cores := (List.range 4).map (fun c => (c, { core0 with joined := 1 })), parts := [(1, { part0 with det := true })] }
     t.syncMet 1 = true ∧ (t.part 1).det = true ∧ t.clock % 8 = 0 ∧ ({ t with clock := 3 } : State).clock % 8 ≠ 0 ∧
       (∀ c ∈ (t.part 1).cells, (t.cell c).dq = false)) ∧
    s0.syncMet 1 = false ∧
    (let t := { s0 with cores := (List.range 4).map (fun c => (c, { core0 with joined := 1 })) }
     t.syncMet 1 = true ∧ (t.part 1).det = false) ∧
    (let p := { part0 with slots := [(0, { kept := [], hdr := [], mbox := 0, bound := 0, param := 0, orig := 0, checker := none, third := none, digest := none, digest2 := none, digest3 := none, shadow := [], written := [] })] }
     p.freeSlot = none) := by and_intros <;> decide +kernel

def rec7 : QRec := { num := 0, tag := 7, reserved := false, place := 0 }
def graphMem : Mem :=
  [(0x1000, 1), (0x1001, 32), (0x1002, 0), (0x1003, 0), (0x1004, 0), (0x1005, 0), (0x1006, 0), (0x1007, 0),
   (0x2000, 1), (0x2001, 48), (0x2002, 0), (0x2003, 0), (0x2004, 0), (0x2005, 0), (0x2006, 0), (0x2007, 0),
   (0x3000, 125), (0x3001, 0), (0x3002, 0), (0x3003, 0), (0x3004, 0), (0x3005, 0), (0x3006, 16), (0x3007, 0),
   (0x400109, 2), (0x40010A, 64), (0x400111, 3), (0x400112, 64), (0x400202, 36), (0x400207, 1), (0x40020A, 255),
   (0x40020B, 255), (0x40020C, 255), (0x40020D, 255), (0x40020E, 255), (0x40020F, 255), (0x400212, 255),
   (0x400213, 255), (0x400214, 255), (0x400215, 255), (0x400216, 255), (0x400217, 255), (0x40022A, 64),
   (0x400301, 4), (0x400302, 64), (0x400307, 32)]
def bind0 : Binding := { host := 3, part := 1, launch := true, read := true, write := true, flip := true }
def hosted (m : Mem) : State := { one { cx0 with cs := .idle } core0 partW with mem := m, bindings := [bind0] }
theorem test_meets_StageSteps :
    (s0.part 1).graph = none ∧
    (let s := one { cx0 with cs := .idle } core0 { partW with graph := some (graph0 [rec7]) }
     ((graph0 [rec7]).settle s 1).stages[0]? = some stage0 ∧ 0 ∈ stage0.cells ∧ s.runs (4 * 0) = true ∧ ((graph0 [rec7]).settle s 1).fires stage0 = some 7 ∧
     s.stageCore 0 = some 0) ∧
    (sStage.pace.toNat / 4096 ≤ (graph0 []).window ∧ (graph0 []).window < (4096 : Word).toNat / 4096 ∧ (graph0 []).due = []) ∧
    (let g := { graph0 [] with due := [(1, 1, [[]])] }
     g.due = [(1, 1, [[]])] ∧ (sStage.replayHeldUp 1 1 { g.settle sStage 1 with due := [] } [[]] = false) ∧ (∀ st ∈ g.stages, st.seed = false) ∧ ∀ x ∈ [([] : List Byte)], x = []) ∧
    (hosted []).boot = 8 ∧ (hosted []).bootHeld = false ∧ (hosted []).frozenHosts = [] ∧ 3 < 4096 ∧ 1 < 64 ∧
    ({ hosted [] with mgmt := [{ host := 3, tag := 5, words := [mgmtWord 7 1 0, 0x400100] }] } : State).mgmt =
      { host := 3, tag := 5, words := [mgmtWord 7 1 0, 0x400100] } :: [] ∧ (hosted []).right 3 1 (fun b => b.launch) = true ∧
    ((hosted []).part 1).det = false ∧ ({ part0 with det := true } : Part).det = true ∧ (hosted graphMem).graphIdle 1 = true ∧
    (match (hosted graphMem).readGraph 1 0x400100 with
      | .ok g => decide (g.stages = [stage0] ∧ g.queues = [queue0 []])
      | .error _ => false) = true := by and_intros <;> decide +kernel

def blocked (w : Wait) : Ctx := { cx0 with cs := .blocked w }
def cause0 : Async := { src := 2, coord := 0, what := { code := 0x22, info := 0, va := 0 } }
theorem test_meets_ContextSteps :
    (blocked .vq).cs = .blocked .vq ∧ (blocked .vq).gang = none ∧ (blocked .vq).isLeaving = false ∧ (blocked (.waitw 5)).isLeaving = false ∧
    (let x := { cx0 with apend := [cause0] }
     x.apend = [cause0] ∧ x.cs = .ready ∧ x.st.chk = false ∧ x.gang = none ∧ x.isLeaving = false ∧ x.deferred = none ∧ x.st.aie = true) ∧
    ({ cx0.st with aie := false } : Status).aie = false ∧
    (let x := { cx0 with deferred := some (0x400010, cz 0x21) }
     x.deferred = some (0x400010, cz 0x21) ∧ x.cs = .ready ∧ (one x core0 part0).vbusy 0 = false ∧ (cz 0x21).code ≠ 0x25 ∧ x.st.aie = true) ∧
    (let x := { blocked (.waitw 5) with resume := [(0x400000, 3)] }
     let s := one x core0 part0
     s.timedOut (SMap.get x.resume 0 x.pc.toNat) = false ∧ ({ s with pace := 3 } : State).timedOut (SMap.get x.resume 0 x.pc.toNat) = true) ∧
    sCnt.keysOut 0 < (sCnt.ctx 0).modCnt ∧ ({ cx0 with sysCnt := 1 } : Ctx).heldUnder 0 true < 1 ∧
    (let x := { cx0 with cs := .frozen }
     x.cs = .frozen ∧ x.isLeaving = false ∧ (one x core0 part0).quiet (4 * 0 + 0) = true ∧ (one x core0 part0).exchangeDone (4 * 0 + 0) = true ∧
       (one { x with sysCnt := 1 } core0 part0).quiet (4 * 0 + 0) = false) ∧
    s0.frozenBit 0 8 = false ∧ ((inMq (.mma 0) true).cell (0 / 4)).mqFrozen = true := by and_intros <;> decide

def retry0 : MissReq := { coord := 0, tag := 0, mask := 0, kind := 0, keyid := 0, again := 9 }
theorem test_meets_MemorySteps :
    isGddr 0x400100 = true ∧ 0x400100 % 128 = 0 ∧ (s0.clu (homeClu 0x400100)).ecc.ret = false ∧
    ((s0.clu (homeClu 0x400100)).setOf (0x400100 / 128)).length < 16 - (s0.clu (homeClu 0x400100)).pins ∧ SMap.find (s0.clu (homeClu 0x400100)).near (0x400100 / 128) = none ∧
    SMap.get (s0.clu (homeClu 0x400100)).miss [] (0x400100 / 128) = [] ∧ isOk (s0.fillTag 0 0x400100) (0, 0) = true ∧
    (let c := { Cluster.reset with retry := [(5, retry0)] }
     c.retry = (5, retry0) :: [] ∧ 8 < retry0.again ∧ retry0.again ≤ 9 ∧
       (let u := { c with near := [(5, { tag := 0, sb := 0, keyid := 0, valid := 7, dirty := 0 })], miss := [(5, List.replicate 4 retry0)] }
        SMap.get u.miss [] 5 ≠ [] ∧ ({ tag := 0, sb := 0, keyid := 0, valid := 7, dirty := 0 } : NearLine).places ≤ (SMap.get u.miss [] 5).length)) ∧
    spaceOf 0x400100 = .translated ∧ isOk ((hosted tables).walk 1 0x400100) (0x001000000000007D, 30) = true ∧
    (match s0.walk 1 0x400100 with
      | .error c => decide (c = 0x22)
      | .ok _ => false) = true ∧
    2047 < 3072 ∧ (s0.core 0).waym.getLsbD (2047 / 512) = true ∧ (s0.core 0).ecc = Ecc.reset ∧ 15 < 16 ∧ 8 ≤ bits (0x0800000000000000 : Word) 59 56 ∧ 16 ≤ 16 := by
  and_intros <;> decide
/-- A rank table of 512 entries at 0x5000, whose entry 0 is core 0. -/
def ranked : Part := { part0 with desc := part0.desc.set 6 0x5001, nranks := 1 }
def rankMem : Mem := [(0x5007, 0x80)]
theorem test_meets_MemorySteps_ranks :
    (let s := { s0 with cells := [(0, { Cell.reset with part := some 1, holding := [(1, [.launch 0 (header0 0)])] })] }
     (s.cell 0).part = some 1 ∧ s.parking (4 * 0) = false ∧ SMap.get (s.cell 0).holding [] 1 = [.launch 0 (header0 0)] ∧ (s.core 0).launchQ.length < 16 ∧ (∀ i, i < 4 → (s.core (4 * 0 + i)).held = [])) ∧
    (let s := { one { cx0 with cs := .idle } core0 ranked with mem := rankMem }
     0x8000000000000000 = s.rankEntry 1 0 ∧ (∀ q ∈ s.rankList 1, bit q.2 63 = true → bits q.2 17 0 ≠ 1) ∧ (s.part 1).live = true ∧ bit (0x8000000000000000 : Word) 63 = true ∧
     bit (0x8000000000000000 : Word) 62 = false ∧ bits (0x8000000000000000 : Word) 17 0 ≠ 1 ∧ (s.cell (1 / 4)).part = some 1 ∧ s.validCell (1 / 4) = true ∧
     1 < 2 ^ 18 ∧ (∀ i, i < 4 → (s.ctx (4 * 1 + i)).cs = .idle) ∧ (s.core 1).launchQ = [] ∧ s.coreRest 1 = true) ∧
    (State.reset.part 1).live = false := by and_intros <;> decide +kernel

def packet0 (pl : Payload) : Packet :=
  { dst := 0, src := 0, vc := 0, dir := 0, len := 0, cls := 0, stamp := none, core := 0, from' := 0, tag := 0, op := 0, pa := 0, payload := pl,
    dstMod := 0, srcMod := 0, fvc := 0, hops := 0, seq := 0 }
def ring0 (got : Nat) (dst : Nat) : RingEntry := { pkt := { packet0 (.bytes []) with dst := dst }, got := got, sent := 0, places := [(true, 0)], passed := false }
def dies (l : SMap Die) : State := { State.reset with dies := l }
/-- The packet of 06 R141's example, within its stop or on its loop. -/
def onLoop (l : Option Nat) (fs : List (Nat × Nat)) : LoopPkt :=
  { pkt := packet0 (.ack 0 0 1), src := 22, dst := 17, loop := l, flits := fs, taken := none, seen := 1, refused := 0 }
/-- 06 R141's example: from cluster (2,6) to cell 10 of cluster (2,1), the loop is 16, from position 6 to position 1; two rows
take their own loop, and one stop none. -/
theorem test_loop_choice :
    loopFor 22 17 (17 * 512 + 40) = some 16 ∧ loopRows 16 = some (2, 6) ∧ posOf 22 16 = some 6 ∧ posOf 17 16 = some 1 ∧
    loopFor 3 60 0 = some 6 ∧ loopFor 60 3 0 = some 6 ∧ loopFor 9 9 0 = none := by decide
theorem test_meets_NetworkSteps :
    (let s := dies [(0, { Die.reset with loopPkts := [onLoop none []] })]
     (s.die 0).loopPkts = [onLoop none []] ∧ (onLoop none []).seen ≤ 2 * s.clock + 1 ∧
     ((s.dropPkt 0 0).takePacket 0 (onLoop none []).pkt).isSome = true ∧
     (onLoop (some 16) [(0, 0)]).more = false ∧ (max 1 (2 * s.clock) - 0) % 16 ≠ (onLoop (some 16) [(0, 0)]).hops % 16) ∧
    (let s := { dies [(0, { Die.reset with gw := Die.reset.gw.set 0 { Gateway.reset with q := [ring0 1 0] } })] with clock := 4 }
     ((s.die 0).gateway 0).q = [ring0 1 0] ∧ (ring0 1 0).pkt.dst = 0 ∧ (ring0 1 0).pkt.stamp = none ∧ (ring0 1 0).pkt.len < (ring0 1 0).got ∧ (ring0 1 0).ready s.clock = true) ∧
    ((State.reset.die (ringPrev 0 0)).gateway 0).q = [] ∧
    (let s := { dies [(ringPrev 1 0, { Die.reset with gw := Die.reset.gw.set 0 { Gateway.reset with q := [ring0 1 1] } })] with clock := 4 }
     ((s.die (ringPrev 1 0)).gateway 0).q = [ring0 1 1] ∧ ((s.die 1).gateway 0).q = [] ∧ 1 ≠ ringPrev 1 0 ∧ (ring0 1 1).sent = 0 ∧
     (ring0 1 1).ready s.clock = true ∧ ((s.die 1).gateway 0).room (vcAt 1 0 0) s.clock = some true ∧ (ring0 1 1).pkt.vc < 2 ∧ (ring0 1 1).pkt.len < 5 ∧ 8 ≤ (ring0 1 9).pkt.dst ∧ 9 ≠ ringPrev 1 0) ∧
    (1 < 2 ∧ ((State.reset.die 7).port 1).up = false) ∧
    (let p : Port := { Port.reset with up := true, replays := 15 }
     let s := dies [(7, { Die.reset with ports := Die.reset.ports.set 1 p })]
     ((s.die 7).port 1).up = true ∧ ((s.die 7).port 1).replays < 16 ∧ s.fabOut = [] ∧ ((s.die 7).port 1).buf = [] ∧
     ((s.die 7).port 1).frozen = false ∧ 16 ≤ ({ p with replays := 16 } : Port).replays) ∧
    State.reset.boot < 3 ∧ 4 ≤ ({ State.reset with boot := 4 } : State).boot ∧ 7 ≤ ({ State.reset with boot := 8 } : State).boot := by and_intros <;> decide
/-- A write of a copy into a core whose WAYS is under way is held at the core (03 Table 3-3). -/
def intoArray : Packet := packet0 (.copyWrite (.array 0 0x100) [1] [] 0 0 0 1)
def waiting : State := { s0 with cores := [(0, { core0 with ways := some (s0.waysRun 0 0 3) })],
                                 dies := [(0, { Die.reset with loopPkts := [{ onLoop none [] with pkt := intoArray }] })] }
theorem test_meets_NetworkSteps_kinds :
    (packet0 (.ack 0 0 1)).dstMod = State.reset.modNum ∧ (packet0 (.ack 0 0 1)).payload = .ack 0 0 1 ∧
    (packet0 (.copyWrite data100 [1] [] 0 0 0 1)).payload = .copyWrite data100 [1] [] 0 0 0 1 ∧
    (packet0 (.launch (msg0 0 0 []) 1)).payload = .launch (msg0 0 0 []) 1 ∧
    (match (waiting.dropPkt 0 0).takePacket 0 intoArray with
      | some u => (u.die 0).landing.map (fun l => l.held)
      | none => []) = [true] := by and_intros <;> decide
theorem test_meets_NetworkSteps_place : ∀ c o, data100 ≠ .array c o := by
  intro c o h; cases h
theorem test_meets_NetworkSteps_fabric :
    5 ≤ bits (0x00A00000000000000000000000000000 : BitVec 128) 119 117 ∧ bits (0 : BitVec 128) 119 117 < 5 ∧
    bits (0x001000FF00000000 : Word) 63 52 ≠ State.reset.modNum ∧ bits (0x0010003F00000000 : Word) 37 32 = 63 ∧
    62 ≤ bits (0x0010003F00000000 : Word) 37 32 ∧ bits (0x0010000000000000 : Word) 37 32 < 62 ∧
    bits (0 : Word) 63 52 = State.reset.modNum ∧ bits (0xC000000000000000 : BitVec 128) 63 56 = 0xC0 ∧
    bits (0xC100000000000000 : BitVec 128) 63 56 = 0xC1 ∧ bits (0 : BitVec 128) 63 56 < 0xC0 ∧
    SMap.find [(1, ((3, (0, 0)) : Nat × Nat × Nat))] (bits (0x0010000000000000 : Word) 63 52) = some (3, 0, 0) ∧
    State.reset.paceAge < 65536 ∧ 65536 ≤ ({ State.reset with paceAge := 65536 } : State).paceAge ∧ (1 : Int).natAbs ≤ 1 ∧ 1 < (2 : Int).natAbs ∧
    State.reset.paceFix = 0 ∧ State.reset.pacePhase = 0 ∧ State.reset.paceAge < 2 ^ 20 ∧ 2 ^ 20 ≤ 1048576 ∧
    (State.reset.die 0).exE = none ∧ ((dies [(0, { Die.reset with exE := some 5 })]).die 0).exE.isSome = true ∧
    (let s := { State.reset with pace := 4096 }
     (s.die 0).measured < s.pace.toNat / 4096 ∧ 375 < 376 ∧ 400 < (s.die 0).mhz ∧ 349 < 350 ∧ 350 ≤ 350 ∧ 375 ≤ 375) := by decide

def edgeProg : EdgeProg :=
  { key := 0, task := 0, pc := 0x400000, core := 0, krb0 := krb0v, krb1 := 0, e := edgeE, s := Vector.replicate 32 0, priv := 0, num := 0 }
/-- An index block of one vertex and no edge at 0x400000 and at 0x400040, its offsets at 0x400100, and a VADD.f32 as the body. -/
def edgeMem : Mem :=
  [(0x400000, 1), (0x400009, 1), (0x40000A, 0x40), (0x400011, 1), (0x400012, 0x40), (0x400019, 1), (0x40001A, 0x40),
   (0x400040, 1), (0x400049, 1), (0x40004A, 0x40), (0x400051, 1), (0x400052, 0x40), (0x400059, 1), (0x40005A, 0x40), (0x4000A0, 0x41)]
def onGq (m : Mem) : State := { one edgeCtx edgeCore part0 with cells := [(0, { Cell.reset with part := some 1, gq := [edgeProg] })], mem := m }
/-- The optional value is there. -/
def good2 {a : Type} : Option a → Bool
  | some _ => true
  | none => false
theorem test_meets_EdgeAndEncoderSteps_start :
    (s0.cell 0).gq = [] ∧ ((onGq []).cell 0).gq = edgeProg :: [] ∧ ((onGq []).cell 0).edge = none ∧ ((onGq []).cell 0).gqFrozen = false ∧ (onGq []).markers = [] ∧
    (match (onGq []).edgeCheck edgeProg with
      | .error (.trap c) => decide (c.code = 0x43)
      | _ => false) = true ∧ good2 ((onGq []).edgeAbort 0 edgeProg (cz 0x43)) = true ∧
    good ((onGq edgeMem).edgeCheck edgeProg) = true := by and_intros <;> decide +kernel
def update0 : KeyUpdate := { key := 0, value := 3, rank := 0, sender := 0, task := 0, edge := none, stamp := none }
theorem test_meets_EdgeAndEncoderSteps_updates :
    let s := fun (k0 : Word) => one cx0 { core0 with kin := [update0], krb0 := k0 } part0
    (((s 0).core 0).kin = update0 :: [] ∧ ((s 0).core 0).ways = none ∧ krbNr ((s 0).core 0).krb0 = 0) ∧
    (((s krb0v).core 0).kin = update0 :: [] ∧ krbNr ((s krb0v).core 0).krb0 ≠ 0 ∧ krbBs ((s krb0v).core 0).krb0 ≠ 0 ∧
      binAddr ((s krb0v).core 0).krb0 ((s krb0v).core 0).krb1 0 = 0 ∧ (s krb0v).inScratch 0 0 8 = true ∧ ((s krb0v).core 0).ecc = Ecc.reset) := by decide
/-- A program at vertex 0 of one, push or pull, with an edge from it to itself when there is one. -/
def run0 (vtx phase : Nat) : EdgeRun :=
  { prog := edgeProg, nv := 1, ne := 1, ids := 0x400200, ew := 0x400240, offs := 0x400280, cids := 0x400200, cew := 0x400240, coffs := 0x4002C0,
    body := [0x41], vreg := Vector.replicate 8 (Vector.replicate 8 0), m := #v[255, 0, 0], vtx := vtx, edge := 0, phase := phase }
def statE : EdgeProg := { edgeProg with e := edgeProg.e.set 5 0x410000 }
def running (p : Part) (r : EdgeRun) (pull : Bool) (m : Mem) : State :=
  { one edgeCtx edgeCore p with cells := [(0, { Cell.reset with part := some 1, edge := some r, esw := { EdgeSw.reset with run := true, mode := pull } })], mem := m }
theorem test_meets_EdgeAndEncoderSteps_batches :
    (s0.cell 0).edge = none ∧ ((running part0 (run0 0 0) false []).cell 0).edge = some (run0 0 0) ∧ (run0 0 0).phase = 0 ∧ (run0 0 0).vtx < (run0 0 0).nv ∧
    ((running part0 (run0 0 0) false []).cell 0).gqFrozen = false ∧ (running part0 (run0 0 0) false []).ownerHere 0 (run0 0 0) 0 = none ∧
    (let m : Mem := [(0x5007, 0x80), (0x400080, 1), (0x400284, 1)]
     let s := running ranked (run0 0 0) false m
     (s.cell 0).esw.mode = false ∧ (s.ownerHere 0 (run0 0 0) 0).isSome = true ∧
     isOk (s.bitAt edgeProg (frontiers edgeProg 0).1 0) true = true ∧ isOk (s.edgeWord edgeProg (0x400280 + 4 * 0)) 0 = true ∧
     isOk (s.edgeWord edgeProg (0x400280 + 4 * 1)) 1 = true ∧ isOk (s.seqUnit 0 (valueAddr krb0v 0 0) 4) 0 = true ∧ 0 + 0 < 1 ∧
     good (s.keysReady 0 1 krb0v []) = true ∧ good (s.keysReady 0 1 krb0v [0]) = true ∧
     good (s.outEdges (run0 0 0) 0 0 (min 8 (1 - (0 + 0))) (0 + 0)) = true) ∧
    (let s := running ranked (run0 0 0) true rankMem
     (s.cell 0).esw.mode = true ∧ (s.ownerHere 0 (run0 0 0) 0).isSome = true ∧ bit edgeProg.e[7] 46 = false ∧
     isOk (s.edgeWord edgeProg (0x4002C0 + 4 * 0)) 0 = true ∧ isOk (s.edgeWord edgeProg (0x4002C0 + 4 * (0 + 1))) 0 = true ∧
     isOk (s.seqUnit 0 (valueAddr krb0v 0 0) 4) 0 = true ∧ good (s.isSettled 0 (run0 0 0) 0 0 0) = true) := by and_intros <;> decide +kernel
theorem test_meets_EdgeAndEncoderSteps_levels :
    (let r := { run0 1 0 with prog := statE }
     let s := running part0 r false []
     r.phase = 0 ∧ r.nv ≤ r.vtx ∧ s.edgeKeysOut 0 = false ∧ good (s.edgeAdd statE (levelCtr 0 0) 1) = true) ∧
    (let r := { run0 1 1 with prog := statE }
     let s := running part0 r false []
     r.phase = 1 ∧ isOk (s.edgeCount statE (levelCtr 0 0)) 0 = true ∧ isOk (s.edgeCount statE 8) 0 = true ∧ 0 < statE.g) ∧
    (let s := running part0 { run0 1 2 with prog := statE } false [(0x410008, 1)]
     isOk (s.edgeCount statE (levelCtr 0 8)) 0 = true ∧ isOk (s.edgeCount statE 8) 1 = true ∧ 1 ≤ 1 ∧ good (s.edgePost statE 0) = true) := by and_intros <;> decide +kernel
def tile0 (f : Nat) : FqTile := { key := 0, part := 1, core := 0, stream := 0, frame := f, ty := 0, tx := 0, data := [] }
def withStream (st : Stream) (fq : List FqTile) : State :=
  { one cx0 core0 partW with cores := [(0, core0), (stopCoord 0 encoderStop, { Core.reset with tlb := tlb0 })],
                             dies := [(0, { Die.reset with streams := Die.reset.streams.set 0 st, fq := fq })], mem := tables }
/-- A stream whose ring of 4 KiB lies at 0x401000 and whose counters are at 0x410000. -/
def stream0 : Stream := { Stream.reset with reg := #v[0x8000000000000000, 0, 0, 0x0000000000401000, 0x410000, 0], part := 1 }
theorem test_meets_EdgeAndEncoderSteps_encoder :
    (State.reset.die 0).fq = [] ∧ (let s := withStream stream0 [tile0 2]
      (s.die 0).fq = tile0 2 :: [] ∧ s.markers = [] ∧ (s.stream 0 0).closed + 2 ≤ 2) ∧
    ((withStream stream0 [tile0 1]).stream 0 0).closed + 2 > 1 ∧ bit ((State.reset.stream 0 7).reg[0]) 63 = false ∧ 7 < 8 ∧
    bit (((withStream stream0 []).stream 0 0).reg[0]) 63 = true ∧ ((withStream stream0 []).stream 0 0).deadline 0 ≤ (withStream stream0 []).pace.toNat ∧
    ((withStream stream0 []).stream 0 0).out = [] ∧
    ((withStream stream0 []).stream 0 0).early = none ∧ ((withStream { stream0 with early := some [] } []).stream 0 0).early = some [] ∧
    ((withStream stream0 []).stream 0 0).frozen = false ∧ ((withStream { stream0 with frozen := true } []).stream 0 0).frozen = true ∧
    isOk ((withStream stream0 []).counterPa (stopCoord 0 encoderStop) 1 false false (stream0.reg[4] + 8)) ctr8 = true ∧
    isOk ((withStream stream0 []).readPlace (4 * stopCoord 0 encoderStop) ctr8 8 (stream0.reg[4] + 8)) (List.replicate 8 0) = true ∧
    ringSize stream0.reg[3] + 0 < 4090 + 8 ∧ 0 + 2 ≤ ringSize stream0.reg[3] + 0 ∧
    (withStream stream0 []).ringHold 0 1 (BitVec.ofNat 64 (bits stream0.reg[3] 55 12 * 4096)) (ringSize stream0.reg[3]) 0 2 = false ∧
    ((withStream stream0 []).ringWrite 0 1 (BitVec.ofNat 64 (bits stream0.reg[3] 55 12 * 4096)) 4096 0 [1, 2]).2 = none ∧
    good ((withStream stream0 []).post (stopCoord 0 encoderStop) 1 false stream0.reg[4] 2) = true ∧ 6 ≤ 6 % 8 ∧ 8 % 8 = 0 ∧
    (Die.reset).encRefuses 0 0x8000000000000000 = true ∧ 0 < 4 % 8 ∧ 4 % 8 < 5 ∧ (State.reset.stream 0 0).resting = true ∧
    ((withStream stream0 [tile0 1]).stream 0 0).resting = false := by and_intros <;> decide +kernel

def slot0 : RetSlot :=
  { kept := [], hdr := hdr0 0, mbox := 0, bound := 0, param := 0, orig := 0, checker := some 4, third := some 8, digest := some (1, 2),
    digest2 := none, digest3 := none, shadow := [], written := [] }
def heat (cells : List Nat) (r : RetSlot) (q t : List Nat) : State :=
  { s0 with cells := cells.map (fun c => (c, { Cell.reset with part := some 1 })), parts := [(1, { part0 with cells := cells, slots := [(0, r)], checkQ := q, thirdQ := t })] }
theorem test_meets_HeatSteps :
    (heat [0, 1, 8192] slot0 [0] []).checkCell 1 0 [] = some 8192 ∧ (s0.part 1).checkQ = [] ∧ ((heat [0] slot0 [0] [0]).part 1).checkQ = 0 :: [] ∧
    SMap.find ((heat [0] slot0 [0] [0]).part 1).slots 0 = some slot0 ∧ ((heat [0] slot0 [0] [0]).part 1).thirdQ ≠ [] ∧
    ((heat [0] slot0 [0] []).part 1).thirdQ = [] ∧ (heat [0] slot0 [0] []).checkCell 1 0 [] = none ∧
    (let s := heat [0, 1] slot0 [0] []
     s.checkCell 1 0 [] = some 1 ∧ s.runs (4 * 1) = true ∧ (s.core (4 * 1)).launchQ = [] ∧ s.idleCtx (4 * 1) = some 0) ∧
    SMap.find (s0.part 1).slots 0 = none ∧ slot0.digest2 = none ∧ slot0.digest3 = none ∧
    (let r := { slot0 with digest2 := some (some (1, 2)), third := none }
     r.digest2 = some (some (1, 2)) ∧ r.digest3 = none ∧ r.third = none ∧ r.digest = some (1, 2)) ∧
    (let r := { slot0 with digest2 := some (some (3, 4)), digest3 := some (some (1, 2)) }
     r.digest3 = some (some (1, 2)) ∧ r.checker = some 4 ∧ r.third = some 8 ∧ r.digest = some (1, 2) ∧ r.digest ≠ some (3, 4) ∧ r.digest2 = some (some (3, 4)) ∧
     some ((3 : Word), (4 : Word)) ≠ some (5, 6)) ∧
    s0.score 0 + 32 < 64 ∧ 0 ∉ (s0.part 1).thirdQ ∧
    (let s := heat [0, 1, 2] slot0 [] [0]
     0 ∈ (s.part 1).thirdQ ∧ s.checkCell 1 slot0.orig [slot0.checker.getD 0 / 4] = some 2 ∧ s.runs (4 * 2) = true ∧ s.idleCtx (4 * 2) = some 0) ∧
    s0.completed < 2 ^ 20 ∧ 2 ^ 20 ≤ ({ s0 with completed := 1048576 } : State).completed := by and_intros <;> decide +kernel

/-- Partition 1 in share set 0 with a budget of 10 ticks in 100. -/
def shared (p : Part) (v : ShareSet) : State := { one cx0 core0 { p with share := some 0, budg := 0x000000640000000A } with shares := [(0, v)] }
def set0 : ShareSet := { ShareSet.reset with cells := [0], parts := [1] }
def saved0 : Saved := { ctxs := [(0, cx0.park)], cores := [], cells := [], markers := [] }
theorem test_meets_PartitionSteps_switches :
    leastD [(3, 9), (2, 9), (1, 10)] = some (2, 9) ∧ s0.choice (s0.shareSet 0) = none ∧
    (let s := shared { part0 with saved := some saved0 } set0
     (s.shareSet 0).switching = none ∧ s.choice (s.shareSet 0) = some 1 ∧ (s.shareSet 0).current ≠ some 1) ∧ (s0.part 1).share = none ∧
    ((shared part0 set0).part 1).share = some 0 ∧ (shared part0 set0).pace.toNat < 0 + budPeriod ((shared part0 set0).part 1).budg ∧
    budPeriod ((shared part0 set0).part 1).budg ≠ 0 ∧ 0 + budPeriod ((shared part0 set0).part 1).budg ≤ 100 ∧
    (let s := { shared part0 set0 with ctxs := [(0, { cx0 with modCnt := 1 })] }
     s.drained (s.part 1) = false) ∧
    (let s := shared part0 { set0 with current := some 1, switching := some (2, false) }
     s.drained (s.part 1) = true ∧ (s.shareSet 0).switching = some (2, false) ∧ (s.shareSet 0).current = some 1) ∧
    ((shared part0 set0).shareSet 0).switching ≠ some (1, true) ∧
    (let s := shared { part0 with saved := some saved0, areas := [0x400000] } { set0 with switching := some (1, true) }
     (s.shareSet 0).switching = some (1, true) ∧ (s.part 1).saved = some saved0 ∧ (s.part 1).areas.any (fun a => s.memEcc.failing a areaSize) = false ∧
     (∀ c ∈ (s.part 1).cells, SMap.get (s.cell c).holding [] 1 = []) ∧ (saved0.ctxs.map Prod.fst).Nodup) ∧ cx0.cs = .ready := by and_intros <;> decide +kernel
theorem test_meets_PartitionSteps_failing_area :
    let s := { shared { part0 with saved := some saved0, areas := [0x400000] } set0 with memEcc := { Ecc.reset with bad := [0x400000 / 8] } }
    (s.part 1).areas.any (fun a => s.memEcc.failing a areaSize) = true := by decide +kernel
theorem test_meets_PartitionSteps_firmware :
    State.reset.mayCreate 1 true 0 [0] (List.replicate 8 0) = false ∧ ({ State.reset with boot := 8 } : State).mayCreate 1 true 0 [0] (List.replicate 8 0) = true ∧
    (State.reset.part 1).live = false ∧ (s0.part 1).live = true ∧ (s0.cell 0).part = some 1 ∧ s0.boot = 8 ∧ (s0.part 1).cells = [0] ∧
    s0.allIdle 1 = false ∧ (one { cx0 with cs := .idle } core0 part0).allIdle 1 = true ∧
    (let p := { part0 with snapT := some 5 }
     p.snapT = some 5 ∧ 1 < 64 ∧ (0 : Word).toNat < 5 ∧ 5 ≤ (5 : Word).toNat) ∧ (s0.part 1).snapT = none ∧ (s0.part 1).image = none := by and_intros <;> decide +kernel
theorem test_meets_HostSteps :
    let s := hosted tables
    s.hostQ = [] ∧ s.hostQ.any (fun r => r.host = 3) = false ∧ s.partHold 0 1 0x400100 8 = none ∧ s.partHold 0 1 0x400100 7 = none ∧
    s.partHold 0 1 0x40000000 8 = none ∧ State.reset.boot ≠ 8 ∧ s.boot = 8 ∧ 5 ∉ s.frozenHosts ∧ s.bindings.all (fun b => b.host ≠ 5) = true ∧ s.bootHeld = false ∧ 3 ∉ s.frozenHosts ∧
    s.right 3 1 (fun b => b.launch) = true ∧ hostMbox 0x400100 = none ∧ (hdr0 0).length = 8 ∧ s.right 3 1 (fun b => b.read) = true ∧ 7 < 8 ∧ 256 < 257 ∧
    isOk (s.partRead 1 0x400100 8) (List.replicate 8 0) = true ∧
    (match s.partRead 1 0x40000000 8 with
      | .error c => decide (c.code = 0x22)
      | .ok _ => false) = true ∧
    s.right 3 1 (fun b => b.write) = true ∧ (s.writeCause 1 0x40000000 0x40000008 0x40000000 8).isSome = true ∧
    s.writeCause 1 0x400100 0x400108 0x400100 8 = none ∧ s.right 3 1 (fun b => b.flip) = true ∧ bits (0xFFFF : Word) 55 16 = 0 ∧
    s.right 3 1 (fun _ => true) = true ∧ 2 ^ 20 ≤ ({ s with hss := 1048576 } : State).hss ∧ s.hss < 2 ^ 20 := by and_intros <;> decide +kernel
/-- A stamped packet that is still at a gateway holds a later write for its die. -/
theorem test_meets_HostSteps_held :
    (({ hosted tables with dies := [(1, { Die.reset with gw := Die.reset.gw.set 0 { Gateway.reset with q :=
      [{ ring0 1 1 with pkt := { (ring0 1 1).pkt with stamp := some (Vector.replicate 8 0) } }] } })] } : State).partHold 0 1 0x404000 8).isSome = true := by
  decide +kernel
theorem test_meets_HostSteps_management :
    let s := hosted []
    ({ s with mgmt := [{ host := 3, tag := 5, words := [mgmtWord 4 1 8] }] } : State).mgmt = { host := 3, tag := 5, words := [mgmtWord 4 1 8] } :: [] ∧ 3 < 4096 ∧
    bits (0x0000800000000000 : Word) 63 52 = s.modNum ∧ bits (0x0000800000000000 : Word) 45 0 = 0 ∧
    s.right 3 (bits (0x0000800000000000 : Word) 51 46) (fun b => b.launch) = false ∧
    bits (0x40000 : BitVec 38) 37 18 ≠ 0 ∧ bits (8 : BitVec 38) 37 18 = 0 ∧ bits (8 : BitVec 38) 15 0 % 8 = 0 ∧ bits (1 : BitVec 38) 37 1 = 0 ∧
    bits (0x0010400000000000 : Word) 45 0 = 0 ∧ bit (0 : BitVec 38) 0 = false ∧ bit (1 : BitVec 38) 0 = true ∧ bits (0x0010400000000000 : Word) 63 52 ≠ s.modNum ∧
    (s.part 1).bound 0x400100 = none ∧ (0x400100 : Word).toNat % 64 = 0 ∧ spaceOf 0x400100 = .translated ∧ (s.part 1).dir.length + (s.part 1).fwd.length < 4096 ∧
    4096 ≤ 4098 ∧ 4098 - 4096 ≠ 1 ∧
    (let r := { State.reset with boot := 4, bootHeld := true, recovery := [(0, List.replicate 256 0)] }
     r.boot = 4 ∧ r.bootHeld = true ∧ (List.replicate 256 (0 : Byte)).length = 256 ∧ 65535 < 2 ^ 16 ∧ recovered r.recovery 0 ((257 + 255) / 256) = none ∧
     recovered r.recovery 0 ((256 + 255) / 256) = some (List.replicate 256 0) ∧ 256 ≤ 2 ^ 24) := by and_intros <;> decide +kernel

theorem test_meets_NoInstructionStops :
    (Instr.ways 5 63).isWord = true ∧ (Instr.ways 5 63).wellFormed = false ∧ (1 : BitVec 32).getLsbD 0 = true ∧ bits (1 : BitVec 32) 6 1 = 0 ∧
    (0x5B : BitVec 32).getLsbD 0 = true ∧ 45 ≤ bits (0x5B : BitVec 32) 6 1 := by decide
theorem test_meets_NoInstructionStops_others :
    (∀ n, Instr.ways 5 63 ≠ .repb n) ∧ (∀ a b, Instr.ways 5 63 ≠ .mmaR a b) ∧ (∀ w, Instr.ways 5 63 ≠ .reservedMajor w) := by
  refine ⟨fun n h => ?_, fun a b h => ?_, fun w h => ?_⟩ <;> cases h
theorem test_meets_TrapEntry :
    (s0.ctx 0).st.chk = false ∧ (cz 0x22).code ≠ 0x25 ∧ (cz 0x25).code = 0x25 ∧ ¬ ((s0.ctx 0).st.priv = 1 ∧ (s0.ctx 0).st.aie = false) ∧
    (let x := { sup with st := { sup.st with aie := false } }
     x.st.priv = 1 ∧ x.st.aie = false ∧ x.st.chk = false) ∧ s0.vbusy s0.cur = false ∧
    (withVq 1 (.vadd 1 2 3 0 0)).vbusy (withVq 1 (.vadd 1 2 3 0 0)).cur = true := by decide

/-- ADD s5, s8, s9 at 0x400000, and the turn of its core. -/
def addMem : Mem := [(0x400000, 0x83), (0x400001, 0x82), (0x400002, 0x12)]
def turned (m : Mem) : State := { s0 with mem := m, turns := [.issue 0] }
theorem test_meets_StepRunsWord :
    (turned addMem).power = true ∧ (turned addMem).turns = .issue 0 :: [] ∧ ((turned addMem).core 0).issues ≤ (turned addMem).clock ∧
    ({ turned addMem with turns := [] } : State).turnOf 0 = some 0 ∧ ((turned addMem).ctx 0).cs = .ready ∧ ((turned addMem).ctx 0).deferred = none ∧
    ((turned addMem).ctx 0).interrupted = false ∧ ((turned addMem).ctx 0).seqr = none ∧ ((turned addMem).ctx 0).gang = none ∧
    isOk ((turned addMem).fetchInstr 0 0x400000) (.add 5 8 9) = true ∧
    (match (turned []).fetchInstr 0 0x400000 with
      | .error _ => false
      | .ok i => decide (i = .zeroWord)) = true ∧
    (match (one { cx0 with pc := 0x410000 } core0 part0).fetchInstr 0 0x410000 with
      | .error c => decide (c.code = 0x24)
      | .ok _ => false) = true ∧ (turned addMem).vbusy 0 = false ∧ (withVq 1 (.vadd 1 2 3 0 0)).vbusy 0 = true ∧
    (0x400000 : Word).getLsbD 0 = false ∧ isOk ((turned addMem).fetchHalf 0 0x400000) 0x8283 = true ∧ (0x8283 : BitVec 16).getLsbD 0 = true ∧
    isOk ((turned addMem).fetchHalf 0 (0x400000 + 2)) 0x0012 = true ∧ decodeTableWord 32 ((0x0012 : BitVec 16) ++ (0x8283 : BitVec 16)).toNat = some (.add 5 8 9) ∧
    decodeTableWord 32 ((0x8000 : BitVec 16) ++ (0x62C7 : BitVec 16)).toNat = none ∧ decodeTableWord 16 (0x0020 : BitVec 16).toNat = some .cNop := by
  and_intros <;> decide +kernel
theorem test_meets_DecodeOfEncode : (Instr.amo 3 4 5 0 2 3 1).isWord = true ∧ (Instr.amo 3 4 5 0 2 3 1).wellFormed = true := by decide
theorem test_meets_StepKeepsInvariant : (turned addMem).power = true ∧ State.reset.Inv ∧ ({ s0 with mem := [(3, 7)] } : State).Inv ∧ ran (step State.reset) = true := by
  and_intros <;> decide +kernel

/-! ### States that meet the hypotheses of single clauses -/

/-- A property of the value of a check. -/
def okAnd {e a : Type} (r : Except e a) (p : a → Bool) : Bool :=
  match r with
  | .ok v => p v
  | .error _ => false
/-- What a context waits for. -/
def waits {a : Type} : Except Stop a → Option Wait
  | .error (.block w) => some w
  | _ => none

def heldSt : RankMsg := { rank := 0, off := 0, ctx := 0, task := 0, act := .store [1] }
/-- A store after one that is held for a rank in transit, one to a sector of a queued VLD, and one with 64 unacknowledged. -/
def sHeldSt : State := one sMem.cx { core0 with held := [heldSt] } part0
def sVld : State := one sMem.cx { core0 with vq := [vword (.vld 1 13 0 0) 0x100 0] } part0
theorem test_meets_StoreWords_waiting :
    isOk (sMem.ordered sMem.cur (0x110 : Word) 4) () = true ∧ sMem.heldStore sMem.cur (2 ^ 20) = none ∧
    (waits ((one { sMem.cx with modCnt := 64 } core0 part0).ackRoom 0 data100)).isSome = true ∧
    sHeldSt.heldStore sHeldSt.cur (2 ^ 20) = some 0 ∧ (waits (sVld.ordered sVld.cur 0x100 8)).isSome = true ∧
    isOk (sVld.reach sVld.cur (Req.store 8) 0x100) (.array 0 0x100) = true ∧
    (trapCode ({ sMem with memEcc := { Ecc.reset with bad := [0x400100 / 8] } }.writePlace 0 data100 [1] 0x400100)).isSome = true := by
  and_intros <;> decide +kernel
/-- A check heat of slot 0. -/
def heatTask : Task := { workTask .handler with check := some (0, false) }
def sHeat : State := one { chkd sMem.cx with task := some heatTask } core0 { part0 with slots := [(0, slot0)] }
theorem test_meets_MemoryWordFrame_heat :
    storeOf sHeat.cx (.st 8 8 0 3) = some (4, 8, 0x100, 0x100) ∧ sHeat.cx.st.chk = true ∧
    isOk (sHeat.reach sHeat.cur (Req.store 8) 0x100) (.shadow 0x100) = true ∧ sHeat.retSlot sHeat.cur = some (1, 0, slot0) ∧
    isOk (sHeat.ordered sHeat.cur 0x100 8) () = true ∧ sHeat.heldStore sHeat.cur (2 ^ 20) = none ∧
    (slot0.put 0x100 (leBytes 8 (0x100 : Word).toNat)).sectors ≤ 8192 ∧ ran (exec (.st 8 8 0 3) sHeat) = true := by
  and_intros <;> decide +kernel
theorem test_meets_CacheWords_line :
    sMem.dirtyFailing (0x400100 / 128) = false ∧
    isOk (sMem.ordered sMem.cur (BitVec.ofNat 64 ((sMem.cx.s 11).toNat / 128 * 128)) 128) () = true := by decide
theorem test_meets_CounterWords_more :
    isOk (sCnt.counterAt true (sCnt.cx.s 12)) ctr0 = true ∧ sCnt.fenceMet sCnt.cur 5 = false ∧ isOk (sCnt.ackRoom sCnt.cur ctr0) () = true ∧
    ctr0.counted sCnt.curCore = some false ∧ isOk (sCnt.readPlace (sCnt.curCore * 4) ctr0 8 (sCnt.cx.s 12)) (List.replicate 8 0) = true ∧
    good (sCnt.writePlace (sCnt.curCore * 4) ctr0 (leBytes 8 (min (0 + 2) (2 ^ 64 - 1))) (sCnt.cx.s 12)) = true ∧
    isOk (sMem.ordered sMem.cur (sMem.cx.s 11) 8) () = true ∧ isOk (sMem.ackRoom sMem.cur data100) () = true ∧ data100.atHome ≠ data100 ∧
    isOk (sMem.readPlace sMem.cur data100.atHome 8 0x400100) (List.replicate 8 0) = true ∧
    good (sMem.writePlace sMem.cur data100.atHome (leBytes 8 (redValue 0 8 0 0x100)) 0x400100) = true := by and_intros <;> decide
def sPace : State := { one { cx0 with cs := .blocked (.pace 3) } core0 part0 with pace := 9 }
theorem test_meets_WaitAndWatchWords_pace :
    SMap.find paused.resume paused.pc.toNat = some 5 ∧ SMap.find s0.cx.resume s0.cx.pc.toNat = none ∧
    (sPace.ctx 0).cs = .blocked (.pace 3) ∧ (sPace.ctx 0).gang = none ∧ SMap.find (sPace.ctx 0).resume leaving = none ∧
    (3 : Word).toNat ≤ sPace.pace.toNat ∧ paused.isWork = false ∧ paused.st.pure = false := by decide

/-- VTAB of one segment: the entry (a, b) at scratch 0x200. -/
def vtabW : VWord := { vword (.vtab 2 1 0) 0 0 with e6 := 0x0000000000000200 }
def sVtab : State := one cx0 { core0 with vq := [vtabW] } part0
theorem test_meets_VectorPerform_table :
    let u := sVtab.setCore 0 { sVtab.core 0 with vq := [] }
    (sVtab.core 0).vq = [vtabW] ∧ (sVtab.ctx vtabW.key).relq = [] ∧ bits vtabW.e6 15 0 % 8 = 0 ∧
    u.inScratch 0 (bits vtabW.e6 15 0) (8 * (bits vtabW.e6 31 24 + 1)) = true ∧ bits vtabW.e6 31 24 = 0 ∧
    isOk (u.reach 0 (Req.load 8) (BitVec.ofNat 64 (bits vtabW.e6 15 0 + 8 * 0))) (.array 0 0x200) = true ∧
    isOk (u.readPlace 0 (.array 0 0x200) 8 (BitVec.ofNat 64 (bits vtabW.e6 15 0 + 8 * 0))) (List.replicate 8 0) = true ∧
    (∀ r ∈ (vstIn.ctx 0).relq, r.ord ≠ 3) ∧ (∀ r ∈ (vldIn.ctx 0).relq, r.ord ≠ 3) ∧
    (vstIn.setCore 0 { vstIn.core 0 with vq := [] }).heldStore 0 (2 ^ 20) = none := by and_intros <;> decide
theorem test_meets_VectorLanes_more :
    vcvtOk 0x98 2 1 0 = true ∧ (intCode (bits (0x98 : Word) 3 0) && intCode (bits (0x98 : Word) 7 4)) = true ∧
    vcvtOk 0x17 2 1 0 = true ∧ intCode (bits (0x17 : Word) 3 0) = false ∧ bits (0x17 : Word) 7 4 ≠ 6 ∧ bits (0x17 : Word) 3 0 ≠ 6 ∧
    vcvtOk 0x67 2 4 0 = true ∧ bits (0x67 : Word) 7 4 = 6 ∧ vcvtOk 0x76 2 4 0 = true ∧ bits (0x76 : Word) 3 0 = 6 ∧
    treeOf (fun p q => (fMinMax false p q).1) (vcx.m 1) (vcx.v 2) 3 0 = some 1 ∧
    (vcx.m 1).getLsbD 2 = true ∧ scannedBy (fun p q => (fMinMax false p q).1) (vcx.m 1) (vcx.v 2) 3 2 = some 1 ∧
    (vcx.m 1).getLsbD 5 = false := by decide
/-- A write of a copy for die 1 that is still at a gateway, with a stamp. -/
def onWay (s : State) : State :=
  { s with dies := [(1, { Die.reset with gw := Die.reset.gw.set 0 { Gateway.reset with q :=
      [{ ring0 1 1 with pkt := { (ring0 1 1).pkt with stamp := some (Vector.replicate 8 0) } }] } })] }
theorem test_meets_MatrixScalarWords_more :
    isOk (s0.engineFree s0.cur) () = true ∧ isOk ((claimed 0).engineFree 0) () = true ∧
    8 ≤ ({ Cell.reset with grants := List.replicate 8 grant1 } : Cell).grants.length ∧
    ((inMq (.mma 0) false).cell 0).mq.any (fun o => o.key = (inMq (.mma 0) false).cur && o.remote.isNone) = true ∧
    ((inMq (.mma 0) false).cell 0).mq.all (fun o => o.key ≠ (inMq (.mma 0) false).cur || o.remote.isSome) = false ∧
    (s0.cell 0).mq.all (fun o => o.key ≠ s0.cur || o.remote.isSome) = true ∧
    s0.cx.s 0 = 0 ∧ (cx0.setS 5 1).s 5 = 1 ∧ s0.cx.s 9 = 2 ∧ 3 ≤ (s0.cx.s 10).toNat ∧
    s0.mayArrive (dieOf s0.curCore) 1 = true ∧ (onWay s0).mayArrive (dieOf (onWay s0).curCore) 1 = false := by and_intros <;> decide +kernel

def sh0 : MShape := mshape (mcx.e 0) (mcx.e 1) (mcx.e 2) none
/-- The cell of `claimed`, with one MMA of K = 64 queued, as it starts and after its first K-step. -/
def mmaCell (k : Option (Nat × BitVec 5)) : State :=
  { s0 with cells := [(0, { Cell.reset with part := some 1, mq := [{ mqop (.mma 0) none with e0 := mcx.e 0, kAt := k }] })] }
theorem test_meets_MatrixPerform_steps :
    shapeOk (mcx.e 0) 0x700 = true ∧ sh0.k = 64 ∧ good (((mmaCell none).cell 0).mmaCheck sh0) = true ∧
    (mmaCell none).parking (0 * 4) = false ∧ ((mmaCell none).core 0).ways = none ∧
    (mcells sh0).all (fun c => (((mmaCell none).cell 0).lineFmt (sh0.aSlot + c.aOff) c.aRow sh0.fa sh0.ak0 sh0.k).isSome &&
      (((mmaCell none).cell 0).lineFmt (sh0.bSlot + c.bOff) c.bRow sh0.fb sh0.bk0 sh0.k).isSome) = true ∧
    0 + min (sh0.k - 0) (((mmaCell none).cell 0).kStep sh0) < sh0.k ∧
    sh0.k ≤ 63 + min (sh0.k - 63) (((mmaCell (some (63, 0))).cell 0).kStep sh0) ∧ (∀ c ∈ mcells sh0, accKey sh0.h c ≠ 999) := by
  and_intros <;> decide +kernel
/-- An MLOAD of FP8 lines from scratch 0x80 and one of plain lines from 0x400100 into slot 2. -/
def mloadOp (x : Word) : MqOp := { mqop (.mload 1 2 0) none with x := x, y := 2 }
def mloadIn (x : Word) : State := { s0 with cells := [(0, { Cell.reset with part := some 1, mq := [mloadOp x] })] }
theorem test_meets_MatrixPerform_loads :
    ((mloadIn 0x80).cell 0).mq = [mloadOp 0x80] ∧ (mloadIn 0x80).cmdChk 0 0 = false ∧ spaceOf 0x80 = .scratch ∧
    (0x80 : Word).toNat % 128 = 0 ∧ (mloadIn 0x80).inScratch 0 0x80 1024 = true ∧ (mloadIn 0x80).inScratch 0 0x80 0x440 = true ∧
    ((mloadIn 0x80).core 0).ecc = Ecc.reset ∧ (0 : BitVec 4).toNat ≤ 6 ∧
    ((mloadIn 0x400000).mload 0 (mloadOp 0x400000) 0 2 8 0).2 = none ∧
    (((mloadIn 0x400000).mload 0 (mloadOp 0x400000) 0 2 8 0).1.cell 0).mq = [mloadOp 0x400000] ∧
    isOk ((mloadIn 0x400000).placeOf 0 false true (Req.load 128) (0x400000 + BitVec.ofNat 64 (128 * 0))) (.phys 0x400000 0 false false false) = true ∧
    isOk ((mloadIn 0x400000).readPlace 0 (.phys 0x400000 0 false false false) 128 0x400000) (List.replicate 128 0) = true := by
  and_intros <;> decide +kernel
/-- An MDRAIN as FP32 at 0x100 with rows of 4 bytes. -/
def drainOp : MqOp := { mqop (.mdrain 1 0 2) none with x := 0x100, y := 4, e0 := mcx.e 0 }
theorem test_meets_MatrixPerform_drain :
    let s : State := { s0 with cells := [(0, { Cell.reset with part := some 1, mq := [drainOp] })] }
    let sh := mshape drainOp.e0 drainOp.e1 drainOp.e2 none
    (s.cell 0).mq = [drainOp] ∧ shapeOk drainOp.e0 drainOp.e2 = true ∧ (fmtOf sh.outFmt).isSome = true ∧ drainOp.e3 = 0 ∧ s.cmdChk 0 0 = false ∧
    drainOp.x.toNat % drainBytes sh.outFmt = 0 ∧ drainOp.y.toNat % drainBytes sh.outFmt = 0 ∧ s.drainInScratch 0 sh drainOp.x drainOp.y = true ∧
    (s.core 0).ecc = Ecc.reset ∧ mcells sh ≠ [] := by and_intros <;> decide +kernel
theorem test_meets_CopyCommands_phases :
    isOk ((one cx0 (chan [] false) part0).engineFree 0) () = true ∧
    (let d := { cmd0 e64 0x200 with done := 64, phase := 1 }
     d.total ≤ d.done ∧ d.phase = 1 ∧ d.e[4] = 0 ∧ ({ d with phase := 2 } : CopyCmd).phase = 2) := by and_intros <;> decide

/-- A REPB over a scalar word, over a word that fails its decoding, and at the last word of a LOOP. -/
def capState (m : Mem) (x : Ctx) : State := { one x core0 part0 with mem := m }
theorem test_meets_RepetitionWords_more :
    sSeq.cx.seqr ≠ none ∧ ((capState [(0x400004, 0x83)] cx0).capture 0 0x400004 1).isOk = false ∧
    (match (capState [(0x400004, 0x83)] cx0).capture 0 0x400004 1 with
      | .error c => decide (c.code = 0x05)
      | .ok _ => false) = true ∧
    (let m : Mem := [(0x400004, 0x41), (0x400005, 0x84), (0x400007, 2)]
     okAnd ((capState m cx0).capture 0 0x400004 1) (fun l => l.any (fun p => (capturedInstr p.2).isNone)) = true) ∧
    (let x := { cx0 with rep := body0 }.setE 0 0xFFC0000000000000
     x.rep ≠ [] ∧ 32 < bits (x.e 0) 63 59 + (bits (x.e 0) 58 54 + 1)) ∧
    (let x := { cx0 with rep := body0 }.setS 8 65536
     x.rep ≠ [] ∧ 65535 < (x.s 8).toNat) ∧
    (let x := { cx0 with rep := body0, seqr := some seq0 }
     x.rep ≠ [] ∧ x.seqr ≠ none ∧ bits (x.e 0) 63 59 + (bits (x.e 0) 58 54 + 1) ≤ 32 ∧ (x.s 8).toNat ≤ 65535) ∧
    0 < seq0.ws ∧ seq0.wb + seq0.ws ≤ 32 ∧ seq0.idx + 1 < 2 ∧ 1 ≤ seq0.idx + 1 ∧ seq0.iter + 1 < seq0.count ∧
    ({ seq0 with iter := 1 } : Sequencer).count ≤ ({ seq0 with iter := 1 } : Sequencer).iter + 1 := by and_intros <;> decide
theorem test_meets_CarouselRequestWords_more :
    let c := { car1 with cutAt := some 5, settled := false, skipNext := [3], skipReq := [(2, 4)], skipped := [2], promos := [(0, 0, 2)] }
    (c.settled = false ∧ c.cutAt.any (fun t => decide (t < 6)) = true ∧ c.cutAt.any (fun t => decide (t < 5)) = false) ∧
    (SMap.find c.skipReq 2).isSome = true ∧ 3 ∈ c.skipNext ∧ 2 ∈ c.skipped ∧ c.promos.any (fun r => r.2.2 = 2) = true ∧
    64 ≤ (List.replicate 64 ((0, 0, 1) : Nat × Nat × Nat)).length ∧ ({ part0 with promx := 0 } : Part).promx = 0 ∧ (s0.part 1).promx ≠ 0 ∧ (s0.part 1).car.nseg ≤ bits (s0.cx.s 0) 11 0 ∧
    (cx0.setS 5 2).s 5 = 2 ∧ SMap.find (s0.core 0).subs (bits (s0.cx.s 0) 5 0) = none ∧
    SMap.find ([(0, sub1 0 2 9)] : SMap Sub) 0 = some (sub1 0 2 9) ∧ (sub1 0 2 9).fin < 6 ∧ (sub1 0 0 0).st = 0 ∧ (sub1 0 3 0).st = 3 := by
  and_intros <;> decide
theorem test_meets_CarouselSourceSteps_groups :
    (let c := { car1 with cur := some pass0 }
     let s := { withCar cx0 core0 c with mem := tables }
     8 * c.sent < c.len pass0.seg + 2 ∧ s.carTurn ((s.part 1).dies.headD 0) 1 = true ∧ s.relayRoom 1 = true ∧ (s.part 1).cells.Nodup ∧
       good (s.beatRead 1 (cardef1.table.getD pass0.seg 0 + BitVec.ofNat 64 (128 * (8 * c.sent + 1)))) = true ∧
       isOk (s.partPlace 1 false 0x400300) (0x400300, 0, false) = true ∧ s.memFailing 0x400300 128 = false ∧ isOk (s.lineTag 0 0x400300) (0, 0) = true ∧
       good ({ s with mem := [] }.beatRead 1 0x400300) = false) ∧
    (let c := { car1 with left := [0], inGap := false }
     let s := withCar cx0 core0 c
     c.cdef = some cardef1 ∧ c.cur = none ∧ c.ready ≤ s.clock ∧ c.inGap = false ∧ c.reinst = [] ∧ c.promos = [] ∧ c.left = 0 :: [] ∧
       s.carTurn ((s.part 1).dies.headD 0) 1 = true ∧ s.relayRoom 1 = true ∧ s.carLive 1 = true ∧ (s.part 1).cells.Nodup ∧
       0 ∈ (s.part 1).cells ∧ 0 / 8192 = (s.part 1).dies.headD 0) ∧
    ({ car1 with left := [0, 1] } : Carousel).left = 0 :: [1] ∧ ({ car1 with next := some none } : Carousel).next = some none ∧
    ({ car1 with next := some (some cardef1) } : Carousel).next = some (some cardef1) ∧ 0 < ({ car1 with ready := 1 } : Carousel).ready ∧
    (let c := { car1 with noticed := [0], grants := [0] }
     0 ∈ c.noticed ∧ 0 ∈ c.grants ∧ 0 ∉ c.reinstNext) := by and_intros <;> decide +kernel

/-- A cell whose core 0 has the one entry q, before the beat b of the pass p. -/
def caught (q : Sub) (b : Beat) (p : Option Passing) : State :=
  { s0 with cells := [(0, { Cell.reset with part := some 1, catchQ := [b], passing := p })], cores := [(0, { core0 with subs := [(0, q)] })], clock := 1 }
/-- A beat with data, and the pass whose header came before it. -/
def fullBeat (len : Nat) : Beat := { beat (some 0) len with data := List.replicate 128 1 }
def passing0 (len : Nat) : Passing := { head := { beat none len with prims := 2 }, arrived := 0, payload := [] }
def subTk (tk : Word) (st : BitVec 2) : Sub := { sub1 0 st 0 with e4 := tk }
theorem test_meets_CatchUnitSteps_header :
    (let s := caught (subTk 0 0) (beat none 0) none
     (s.cell 0).lqFrozen = false ∧ s.markers = [] ∧ (s.cell 0).part = some (beat none 0).part ∧
       (∀ i, i < 4 → (s.core (4 * 0 + i)).subs = if 4 * 0 + i = 0 then [(0, subTk 0 0)] else []) ∧ (subTk 0 0).valid = true ∧
       (subTk 0 0).seg = (beat none 0).seg ∧ (s.core 0).ways = none ∧ (s.core 0).ecc = Ecc.reset ∧ (subTk 0 0).reg ≠ s.clock ∧
       ({ subTk 0 0 with reg := 1 } : Sub).reg = s.clock ∧ e4Tk (subTk 0 0).e4 ≠ 2) ∧
    (let q := { subTk 0x8000000000000200 0 with e5 := 0x400100 }
     e4Tk q.e4 = 2 ∧ (caught q (beat none 0) none).inScratch 0 (e4Addr q.e4) 64 = true ∧ canonical q.e5 = true ∧
       ((caught q (beat none 0) none).core 0).unsent.length < 8) := by and_intros <;> decide +kernel
theorem test_meets_CatchUnitSteps_beats :
    (fullBeat 0).num = some 0 ∧ ((caught (subTk 0 1) (fullBeat 0) (some (passing0 0))).cell 0).passing = some (passing0 0) ∧
    (passing0 0).head.part = (fullBeat 0).part ∧ (passing0 0).head.slot = (fullBeat 0).slot ∧ (passing0 0).head.lap = (fullBeat 0).lap ∧
    (subTk 0 1).st = 1 ∧ (subTk 0 1).ovr = false ∧ (subTk 0 1).busy = false ∧ (fullBeat 0).data.length = 128 ∧
    (let q := subTk 0x200 1
     e4Tk q.e4 = 0 ∧ e4Cpost q.e4 = false ∧ 0 < q.rel + e4Beats q.e4 ∧ (caught q (fullBeat 0) none).inScratch 0 (e4Addr q.e4) (128 * e4Beats q.e4) = true ∧
       q.rel + e4Beats q.e4 ≤ 40) ∧ 0 = (passing0 0).head.len ∧ 0 ≠ (passing0 5).head.len ∧
    (let q := subTk 0x4000000000000001 1
     e4Tk q.e4 = 1 ∧ e4Cpost q.e4 = false ∧ (maskSlots (BitVec.ofNat 64 (e4Addr q.e4)))[0 / 8]? = some 0) ∧
    (let q := { subTk 0xC000000000000200 1 with mask := [1] ++ List.replicate 31 0 }
     e4Tk q.e4 = 3 ∧ e4Any q.e4 = false ∧ e4Cpost q.e4 = false ∧ maskBits q.mask = [0] ∧ (passing0 0).head.nodes = 0 ∧
       (caught q (fullBeat 0) none).inScratch 0 (e4Addr q.e4 + 32 * 0) 32 = true ∧ (caught q (fullBeat 0) none).inScratch 0 (q.hit 0) 8 = true) := by
  and_intros <;> decide +kernel
theorem test_meets_Exchange_gang :
    let x : Ctx := { (cx0.setS 8 0x100) with task := some (workTask .exchange), gang := some { role0 with member := 1 } }
    let s := { one x core0 part0 with dies := [(0, { Die.reset with exE := some 10 })], clock := 4 }
    s.cx.isExch = true ∧ 6 = s.clock + 2 * s.cx.gang.elim 0 (fun g => g.member) ∧ 6 + 4 ≤ 10 + (s.cx.s 9).toNat / 2 ∧
    10 + (s.cx.s 0).toNat / 2 < 7 + 4 := by and_intros <;> decide
theorem test_meets_Gang_and_queues :
    s0.cx.relq = [] ∧ s0.cx.pendR = [] ∧ s0.fenceMet s0.cur 1 = true ∧ (∀ r ∈ sRel.cx.relq, r.ord ≠ 3) ∧ s0.heldStore s0.cur (2 ^ 20) = none ∧
    isOk (s0.engineFree s0.cur) () = true := by and_intros <;> decide
/-- A group that retains 64 bytes of scratch, and one that retains a sector of memory. -/
def heatHdr (r : Word) : List Word := [0, 0x400000, 0xC, 0, r, 0, 0, 0]
def heatQ (r : Word) : State :=
  one { cx0 with cs := .idle } { core0 with launchQ := [{ header0 0 with hdr := heatHdr r }], vq := [vword (.vld 1 13 0 0) 0x100 0] } partW
theorem test_meets_LaunchSteps_retention :
    hdrNret (heatHdr 0x8002) = 1 ∧ hdrHeat (heatHdr 0x8002) = true ∧ hdrList (heatHdr 0x8002) = false ∧ (hdrRange (heatHdr 0x8002) 0).1 < 0x10000 ∧
    (heatQ 0x8002).storesDone 0 = false ∧ s0.storesDone 0 = true ∧ 0x10000 ≤ (hdrRange (heatHdr 0x20008001) 0).1 ∧
    ((heatQ 0x8002).retainAll 0 1 (heatHdr 0x8002) 1).isSome = true ∧
    (({ heatQ 0x20008001 with mem := tables } : State).retainAll 0 1 (heatHdr 0x20008001) 1).isSome = true ∧ 0 < hdrNret (heatHdr 0x8002) ∧
    hdrNret (hdr0 4) = 0 := by and_intros <;> decide +kernel
theorem test_meets_LaunchSteps_release :
    let t := { s0 with cores := (List.range 4).map (fun c => (c, { core0 with joined := 1 })), parts := [(1, { part0 with det := true })] }
    let u := { t with dies := [(0, { Die.reset with mhz := 600 })] }
    (t.part 1).dies = [0] ∧ (t.die 0).fullClock t.clock = true ∧ (u.die 0).fullClock u.clock = false ∧ u.syncMet 1 = true := by
  and_intros <;> decide +kernel
theorem test_meets_ContextSteps_more :
    (blocked (.pace 3)).cs = .blocked (.pace 3) ∧ (3 : Word).toNat ≤ ({ s0 with pace := 3 } : State).pace.toNat ∧ ¬ ((3 : Word).toNat ≤ s0.pace.toNat) ∧
    (∀ d, Wait.vq ≠ .waitw d) ∧ (∀ p, Wait.vq ≠ .pace p) ∧ (blocked (.pace 3)).isLeaving = false := by
  refine ⟨by decide, by decide, by decide, fun d h => ?_, fun p h => ?_, by decide⟩ <;> cases h

/-- Two pieces of a copy that have landed for memory, and one held for an array. -/
def land0 (p : Place) (held : Bool) (left : List Nat) : Landing :=
  { place := p, data := List.replicate 128 1, tags := [], core := 0, ch := 0, off := 0, exch := false, stamp := none, left := left, held := held, post := none }
def landed (l : Landing) : State := { s0 with dies := [(0, { Die.reset with landing := [l] })] }
theorem test_meets_NetworkSteps_landing :
    (let s := landed (land0 data100 false [1, 0])
     (s.die 0).loopPkts = [] ∧ (s.die 0).landing = [land0 data100 false [1, 0]] ∧ 2 ∉ (land0 data100 false [1, 0]).left ∧
       1 ∈ (land0 data100 false [1, 0]).left ∧ (land0 data100 false [1, 0]).left.erase 1 ≠ [] ∧ (land0 data100 false [1]).left.erase 1 = [] ∧
       good (s.writePlace 0 (.phys (0x400100 + 64 * 1) 0 false true false) (((land0 data100 false [1, 0]).data.drop 64).take 64) 0) = true ∧
       isOk (s.mayWrite data100.atHome 128 0) () = true) ∧
    (let l := land0 (.array 0 0x100) true [0, 1]
     l.held = true ∧ (({ landed l with cores := [(0, { core0 with ways := some (s0.waysRun 0 0 3) })] } : State).core 0).ways.isSome = true) ∧
    (packet0 (.post data100 2 0 1)).payload = .post data100 2 0 1 := by and_intros <;> decide +kernel
/-- A group of the other side: `n` its number, with the CRC of its flits or another. -/
def group (n : Nat) (c : BitVec 32) : ControlFlit := { good := 1, credits := 5, ack := 2, seq := n, crc := c, flits := [] }
theorem test_meets_NetworkSteps_groups :
    let q : Port := { Port.reset with up := true, buf := [(1, []), (3, [])], again := [3] }
    (group 1 (Config.crc32 [])).crc = Config.crc32 (group 1 (Config.crc32 [])).flits ∧ (group 1 (Config.crc32 [])).seq = q.heard + 1 ∧
    (group 7 0).seq ≠ q.heard + 1 ∧ q.asked < 16 ∧ q.asked = 0 ∧ (group 1 0).good ≠ 0 ∧ q.frozen = false ∧
    q.again.filter (fun g => decide ((group 1 0).ack < g)) = 3 :: [] ∧ ({ q with again := [] } : Port).again.filter (fun g => decide (2 < g)) = [] ∧
    State.reset.fabOut = [] ∧ State.reset.boot < 3 ∧ 4 ≤ ({ State.reset with boot := 4 } : State).boot ∧
    ({ State.reset with boot := 4 } : State).boot < 7 ∧ bits (0xC400000000000000 : BitVec 128) 63 56 = 0xC4 := by
  refine ⟨rfl, by decide, by decide, by decide, by decide, by decide, by decide, by decide, by decide, by decide, by decide, by decide, by decide, by decide⟩
theorem test_meets_NetworkSteps_time :
    (let s : State := { State.reset with routes := [(3, (0, 1, 0))], paceAge := 65536 }
     65536 ≤ s.paceAge ∧ s.egress 3 = some (0, 1) ∧ s.egress 3 ≠ some (0, 0) ∧ 3 ≠ s.modNum ∧ s.modNum = s.modNum) ∧
    (State.reset.die 0).ramp = none ∧ ((dies [(0, { Die.reset with ramp := some 5 })]).die 0).ramp.isSome = true ∧
    ((State.reset.die 1).gateway 0).room (vcAt 1 0 0) 4 = some true := by and_intros <;> decide

theorem test_meets_EdgeAndEncoderSteps_waits :
    (onGq []).parking (0 * 4) = false ∧
    (let run := { s0.waysRun 0 0 3 with gq := 0 }
     let s := { onGq [] with cores := [(0, { edgeCore with ways := some run })] }
     (s.core edgeProg.core).ways = some run ∧ run.gq ≤ edgeProg.num ∧ edgeProg.num < ({ run with gq := 1 } : WaysRun).gq) ∧
    (let s := shared part0 { set0 with current := some 1, switching := some (2, false) }
     s.parking (0 * 4) = true) := by and_intros <;> decide +kernel
theorem test_meets_EdgeAndEncoderSteps_output :
    let s := withStream { stream0 with out := [(0, stream0.reg, 1, [1, 2])] } []
    (s.stream 0 0).out = (0, stream0.reg, 1, [1, 2]) :: [] ∧ (s.stream 0 0).frozen = false ∧
    isOk (s.unitCounter (stopCoord 0 encoderStop) 1 false (stream0.reg[4] + 8)) ctr8 = true ∧
    isOk (s.unitCounter (stopCoord 0 encoderStop) 1 true stream0.reg[4]) ctr0 = true ∧
    (0x1F8 + 8 : Word).toNat % 8 = 0 ∧ spaceOf (0x1F8 + 8) = .scratch := by and_intros <;> decide +kernel
theorem test_meets_HeatSteps_more :
    (let s := { heat [0, 1] slot0 [0] [] with parts := [(1, { part0 with det := true, cells := [0, 1], slots := [(0, slot0)], checkQ := [0] })] }
     (s.part 1).det = true ∧ (s.part 1).checkQ = 0 :: []) ∧
    (let s := { heat [0, 1] slot0 [0] [] with cells := [(0, { Cell.reset with part := some 1 }), (1, { Cell.reset with part := some 2 })] }
     s.checkCell 1 0 [] = some 1 ∧ (s.cell 1).part ≠ some 1) ∧
    ((heat [0, 1] slot0 [0] []).cell 1).part = some 1 ∧ ((heat [0, 1] slot0 [0] []).part 1).det = false ∧
    ((heat [0, 1, 2] slot0 [] [0]).cell 2).part = some 1 := by and_intros <;> decide +kernel
theorem test_meets_PartitionSteps_snapshot :
    let s : State := { one cx0 core0 { partW with image := some [1, 2], snapBuf := 0x400400 } with mem := tables }
    (s.part 1).image = some [1, 2] ∧ s.partHold 0 1 (s.part 1).snapBuf 2 = none ∧ (s.partStore 0 1 (s.part 1).snapBuf [1, 2]).2 = none ∧
    (onWay { s with parts := [(1, { partW with image := some [1, 2], snapBuf := 0x404000 })] }).partHold 0 1 0x404000 2 ≠ none := by
  and_intros <;> decide +kernel
/-- A module at bring-up step 4. -/
def booting : State := { hosted [] with boot := 4, bootHeld := true }
theorem test_meets_HostSteps_bring_up :
    (hosted []).failed = false ∧ booting.failed = true ∧ 4 ≤ booting.boot ∧ booting.boot ≠ 8 ∧ booting.hostQ = [] ∧ 3 ∉ booting.frozenHosts ∧
    ({ booting with boot := 5 } : State).failed = true ∧ ({ booting with boot := 5 } : State).boot ≠ 4 ∧ State.reset.boot < 4 ∧ booting.boot < 7 ∧
    bits (mgmtWord 4 1 0) 63 48 ∈ [1, 4, 5, 6, 7] ∧ bits (0x0004100000000000 : Word) 47 44 ≠ 0 ∧ 8 ≤ bits (0x0009000000000000 : Word) 63 48 ∧
    bits (0 : Word) 63 48 = 0 ∧ 4096 ≤ 4097 ∧ bits (mgmtWord 2 0 0) 63 48 ∈ [1, 2, 3, 6] ∧ bits (mgmtWord 4 2 0) 63 48 ∈ [4, 5, 7] ∧
    bits (mgmtWord 4 2 0) 43 38 ≠ 4097 - 4096 ∧ bits (mgmtWord 4 2 0) 47 44 = 0 ∧ hostMbox 0x400100 = none ∧
    (match (hosted tables).partRead 1 0x430000 8 with
      | .ok _ => true
      | .error _ => false) = true := by and_intros <;> decide +kernel
/-- A page of another partition. -/
def foreign : Mem := tables.map (fun e => if e.1 = 0x3006 then (e.1, 32) else e)
theorem test_meets_HostSteps_flip :
    (({ hosted foreign with mem := foreign } : State).flip 1 (0x400000 &&& 0x00FFFFFFFFFF0000) true).1 = 0x25 := by decide +kernel
theorem test_meets_StepRunsWord_fetch :
    (cx0.takes (.beq 0 0 6)) = true ∧ cx0.takes (.add 5 8 9) = false ∧ cx0.takes (.bne 0 0 6) = false ∧ s0.wrote = [] ∧
    (let s := s0.putByte 0 0x400000 7
     (∀ w ∈ s.wrote, w.num < 1) ∧ (∀ w ∈ s.wrote, w.num < s.wroteNum) ∧ 0 ≤ s.wroteNum ∧ s.fetchByte 0 0 0x400000 = 0 ∧ s.byteAt 0 0x400000 = 7) := by
  and_intros <;> decide +kernel
def gr1 : Graph := { graph0 [] with due := [(1, 1, [List.replicate 64 0])], rarea := 0x404000 }
theorem test_meets_StageSteps_replay :
    let s := onWay { one cx0 core0 { partW with graph := some gr1 } with mem := tables }
    (s.part 1).graph = some gr1 ∧ gr1.due = (1, 1, [List.replicate 64 0]) :: [] ∧
    s.replayHeldUp 1 1 { gr1.settle s 1 with due := [] } [List.replicate 64 0] = true := by and_intros <;> decide +kernel

/-! ### One step each: values worked out from the spec -/

/-- S(d) of the current context after an instruction on given s8, s9 and s10. -/
def result (i : Instr) (a b c : Word) (d : BitVec 5) : Option Word :=
  match exec i (one (((cx0.setS 8 a).setS 9 b).setS 10 c) core0 part0) with
  | .next t => some (t.cx.s d)
  | _ => none
/-- The flags after it. -/
def flagsOf (i : Instr) (a b : Word) : Option (BitVec 5) :=
  match exec i (one ((cx0.setS 8 a).setS 9 b) core0 part0) with
  | .next t => some t.cx.st.flags
  | _ => none

/-- 22 R349: modulo 2^64; 15 R295: a write to s0 is discarded. -/
theorem test_add_wraps : result (.add 5 8 9) (-1) 2 0 5 = some 1 ∧ result (.add 0 8 9) 1 2 0 0 = some 0 := by decide
/-- 24 R422: the spec's example of SHR and SHA. -/
theorem test_shift_example :
    result (.shr 5 8 9) 0x8000000000000010 0x44 0 5 = some 0x0800000000000001 ∧
    result (.sha 5 8 9) 0x8000000000000010 0x44 0 5 = some 0xF800000000000001 := by decide
/-- 22 R372, 23 R412: division by zero and the overflowing quotient. -/
theorem test_division_corners :
    result (.div 5 8 9 0) 7 0 0 5 = some (-1) ∧ result (.rem 5 8 9 0) 7 0 0 5 = some 7 ∧
    result (.div 5 8 9 0) 0x8000000000000000 (-1) 0 5 = some 0x8000000000000000 ∧ result (.rem 5 8 9 0) (-7) 2 0 5 = some (-1) := by decide
/-- 23 R398: the high half of a signed product; a .w form sign-extends its 32 bits. -/
theorem test_multiply : result (.mulh 5 8 9 0) (-1) 2 0 5 = some (-1) ∧ result (.mul 5 8 9 1) 0x80000000 1 0 5 = some 0xFFFFFFFF80000000 := by decide
/-- 22 R358, 23 R402. -/
theorem test_counts : result (.clz 5 8) 1 0 0 5 = some 63 ∧ result (.ctz 5 8) 8 0 0 5 = some 3 ∧ result (.popc 5 8) 0xFF 0 0 5 = some 8 := by decide
/-- 23 R394: LUI's immediate times 2^15, sign-extended. -/
theorem test_lui : result (.lui 9 0x7D00) 0 0 0 9 = some 0x3E800000 ∧ result (.lui 9 0x80000) 0 0 0 9 = some 0xFFFFFFFC00000000 := by decide
/-- 23 R376, 05 R123: 1 + 1 = 2; 1 / 0 is infinity with DZ; 0 / 0 raises NV. -/
theorem test_float :
    result (.fadd 5 8 9) 0x3F800000 0x3F800000 0 5 = some 0x40000000 ∧ result (.fdiv 5 8 9) 0x3F800000 0 0 5 = some 0x7F800000 ∧
    flagsOf (.fdiv 5 8 9) 0x3F800000 0 = some 0x08 ∧ flagsOf (.fdiv 5 8 9) 0 0 = some 0x10 := by decide
/-- 15 Table 15-26: BEQ s13, s14, +12 at 0x40000A goes to 0x400016. -/
theorem test_branch_target :
    gives (exec (.beq 13 14 6) (one { cx0 with pc := 0x40000A } core0 part0)) (fun t => t.cx.pc = 0x400016) = true ∧
    gives (exec (.bltu 8 9 0x7FFC) s0) (fun t => t.cx.pc = 0x400004) = true := by decide
/-- 15 R293: an odd target traps with 0x07 at the JALR. -/
theorem test_jalr_odd : codeOf (exec (.jalr 1 8 1) s0) = some 7 ∧ gives (exec (.jalr 1 8 0) s0) (fun t => t.cx.pc = 0x100 ∧ t.cx.s 1 = 0x400004) = true := by decide
/-- 24 R429, 23 R388: a byte is stored little-endian and sign-extended when it is loaded; a misaligned word traps with 0x20. -/
theorem test_store_then_load :
    gives (exec (.st 9 8 0 3) (one (cx0.setS 9 0x8081) core0 part0)) (fun t =>
      gives (exec (.ld 5 8 1 0) t) (fun u => u.cx.s 5 = 0xFFFFFFFFFFFFFF80)) = true ∧ codeOf (exec (.ld 5 8 2 2) s0) = some 0x20 := by decide
/-- 22 R346: AMO.add gives the old value and stores the sum. -/
theorem test_amo :
    gives (exec (.amo 5 11 9 0 0 1 0) { sMem with mem := [(0x400100, 5)] })
      (fun t => t.cx.s 5 = 5 ∧ t.byteAt 0 0x400100 = 7) = true := by decide
/-- 22 R375: only quarter H = 3 of E(0) is written. -/
theorem test_exti : gives (exec (.exti 0 0x41C2 3) (one (cx0.setE 0 0x1111222233334444) core0 part0)) (fun t => t.cx.e 0 = 0x41C2222233334444) = true := by decide
/-- 12 R262: TRAP enters the handler at TVEC with the saved registers, and SRET returns. -/
theorem test_trap_and_sret :
    gives (exec (.trap 1) (one { cx0 with tvec := 0x500000 } core0 part0)) (fun t =>
      t.cx.pc = 0x500000 ∧ t.cx.epc = 0x400000 ∧ t.cx.cause = 9 ∧ t.cx.st.priv = 1 ∧ t.cx.st.aie = false) = true ∧
    gives (exec .sret (one { sup with epc := 0x400004, st := { sup.st with paie := true } } core0 part0)) (fun t =>
      t.cx.pc = 0x400004 ∧ t.cx.st.priv = 0 ∧ t.cx.st.aie = true) = true := by decide
/-- 02 R28, R29, 23 R406: a push of q4 claims it for the context; QPOP of q4 traps with 0x02. -/
theorem test_queue : gives (exec (.qpush 8 4) s0) (fun t => (t.core 0).q[4] = [0x100] ∧ (t.core 0).qclaim[4] = some 0) = true ∧ codeOf (exec (.qpop 5 4) s0) = some 2 := by
  decide
/-- 23 R390: a LOOP with a count of zero goes past its body. -/
theorem test_loop_zero : gives (exec (.loop 0 2) sLoop) (fun t => t.cx.pc = 0x40000A ∧ t.cx.loops = []) = true := by decide
/-- 24 R447, R440: VFMA and an integer sum modulo the element width, in the active lanes only. -/
theorem test_vector_lanes :
    (vcx.vecPure (.vadd 1 2 2 1 0) 0 0 0 0).map (fun z => (lane (z.v 1) 3, lane (z.v 1) 4)) = some (2, 0) ∧
    ((cx0.setV 2 (Vector.replicate 8 0x3F800000)).vecPure (.vfma 2 2 2 0) 0 0 0 0).map (fun z => lane (z.v 2) 7) = some 0x40000000 := by decide
/-- 24 R437, R458, 12 R269: a trap at PRIV 1 with AIE 0 freezes the context. -/
theorem test_double_trap :
    gives (exec (.trap 1) (one { sup with st := { sup.st with aie := false } } core0 part0)) (fun t => t.cx.cs = .frozen ∧ t.notices.length = 1) = true := by decide
/-- 24 R432, 04 Table 4-4: a FENCE with an operation in flight waits. -/
theorem test_fence_waits :
    gives (exec (.fence 5) sCnt) (fun t => t.cx.cs = .blocked (.fence 5)) = true ∧ gives (exec (.fence 5) s0) (fun t => t.cx.pc = 0x400004) = true := by decide
/-- 03 R62, R64: a WAYS gives the old map, and a way that becomes scratch reads as zero. -/
theorem test_ways : gives (exec (.ways 5 3) s0) (fun t => t.cx.s 5 = 0x0F ∧ (t.core 0).waym = 3) = true := by decide +kernel
/-- 13 R284: without power nothing executes. -/
theorem test_powered_off :
    (match step { State.reset with power := false } with
      | .fault .poweredOff => true
      | _ => false) = true := by decide

theorem test_reset_inv : State.reset.Inv := by decide

end Sys2Proof.Tests
end

section
/-! SUPPORT. That a step keeps memory's canonical form (O59). Each function that a step is made of has one lemma here, in the
model's order: `f_mem` where it leaves memory as it was, `f_inv` where it may write it. A proof splits along the branches of
the definition; the state that a branch gives is closed by the lemmas of the functions called there. -/

/-! ### What the parts of a result satisfy -/

namespace Sys2Proof.Machine

/-- Every value that a partial result gives satisfies P. -/
def Ensures {ε α : Type} (r : Except ε α) (P : α → Prop) : Prop := ∀ a, r = .ok a → P a

@[simp] theorem ensures_ok {ε α : Type} (a : α) (P : α → Prop) : Ensures (.ok a : Except ε α) P ↔ P a := by
  simp [Ensures]
@[simp] theorem ensures_error {ε α : Type} (e : ε) (P : α → Prop) : Ensures (.error e : Except ε α) P := by
  simp [Ensures]
@[simp] theorem ensures_true {ε α : Type} (r : Except ε α) : Ensures r (fun _ => True) := by simp [Ensures]
/-- A composition ensures what its first part ensures that the rest ensures. -/
@[simp] theorem ensures_bind {ε α β : Type} (x : Except ε α) (f : α → Except ε β) (P : β → Prop) :
    Ensures (x >>= f) P ↔ Ensures x (fun a => Ensures (f a) P) := by
  cases x with
  | ok a => simp [Bind.bind, Except.bind]
  | error e => simp [Bind.bind, Except.bind]
@[simp] theorem ensures_exceptBind {ε α β : Type} (x : Except ε α) (f : α → Except ε β) (P : β → Prop) :
    Ensures (x.bind f) P ↔ Ensures x (fun a => Ensures (f a) P) := ensures_bind x f P
@[simp] theorem ensures_map {ε α β : Type} (x : Except ε α) (f : α → β) (P : β → Prop) :
    Ensures (x.map f) P ↔ Ensures x (fun a => P (f a)) := by
  cases x <;> simp [Except.map]
@[simp] theorem ensures_mapError {ε δ α : Type} (x : Except ε α) (f : ε → δ) (P : α → Prop) :
    Ensures (x.mapError f) P ↔ Ensures x P := by
  cases x <;> simp [Except.mapError]
@[simp] theorem ensures_ite {ε α : Type} (c : Prop) [Decidable c] (x y : Except ε α) (P : α → Prop) :
    Ensures (if c then x else y) P ↔ if c then Ensures x P else Ensures y P := by
  split <;> rfl
theorem Ensures.of_forall {ε α : Type} {r : Except ε α} {P : α → Prop} (h : ∀ a, P a) : Ensures r P := fun a _ => h a
theorem Ensures.mono {ε α : Type} {r : Except ε α} {P Q : α → Prop} (h : Ensures r Q) (hp : ∀ a, Q a → P a) :
    Ensures r P := fun a ha => hp a (h a ha)
/-- The first part of a composition matters to no claim about the rest. -/
theorem Ensures.bind_of_forall {ε α β : Type} {x : Except ε α} {f : α → Except ε β} {P : β → Prop} (h : ∀ a, Ensures (f a) P) :
    Ensures (x >>= f) P := (ensures_bind x f P).2 (.of_forall h)
theorem Ensures.bind_of {ε α β : Type} {x : Except ε α} {f : α → Except ε β} {P : β → Prop} {Q : α → Prop} (hx : Ensures x Q)
    (h : ∀ a, Q a → Ensures (f a) P) : Ensures (x >>= f) P := (ensures_bind x f P).2 (hx.mono h)
/-- What holds of every form of a place holds of a place that a check gives. -/
theorem ensures_place {ε : Type} (r : Except ε Place) (P : Place → Prop) (ha : ∀ c o, P (.array c o))
    (hp : ∀ pa key ctr unc hb, P (.phys pa key ctr unc hb)) (hc : ∀ c, P (.completion c)) (hs : ∀ a, P (.shadow a)) : Ensures r P := by
  intro p _
  cases p with
  | array c o => exact ha c o
  | phys pa key ctr unc hb => exact hp pa key ctr unc hb
  | completion c => exact hc c
  | shadow a => exact hs a

/-- The value of an option, where it has one, satisfies P. -/
def OnSome {α : Type} (o : Option α) (P : α → Prop) : Prop := ∀ a, o = some a → P a

@[simp] theorem onSome_some {α : Type} (a : α) (P : α → Prop) : OnSome (some a) P ↔ P a := by simp [OnSome]
@[simp] theorem onSome_none {α : Type} (P : α → Prop) : OnSome none P := by simp [OnSome]
@[simp] theorem onSome_true {α : Type} (o : Option α) : OnSome o (fun _ => True) := by simp [OnSome]
@[simp] theorem onSome_ite {α : Type} (c : Prop) [Decidable c] (x y : Option α) (P : α → Prop) :
    OnSome (if c then x else y) P ↔ if c then OnSome x P else OnSome y P := by
  split <;> rfl
@[simp] theorem onSome_map {α β : Type} (o : Option α) (f : α → β) (P : β → Prop) :
    OnSome (o.map f) P ↔ OnSome o (fun a => P (f a)) := by cases o <;> simp
@[simp] theorem onSome_bind {α β : Type} (o : Option α) (f : α → Option β) (P : β → Prop) :
    OnSome (o.bind f) P ↔ OnSome o (fun a => OnSome (f a) P) := by cases o <;> simp
theorem OnSome.mono {α : Type} {o : Option α} {P Q : α → Prop} (h : OnSome o Q) (hp : ∀ a, Q a → P a) : OnSome o P :=
  fun a ha => hp a (h a ha)

/-! ### The form through options, pairs, folds and outcomes -/

@[simp] theorem getD_inv (o : Option State) (s : State) (h : s.Inv) (ho : OnSome o State.Inv) : (o.getD s).Inv := by
  cases o with
  | none => exact h
  | some t => exact ho t rfl
@[simp] theorem elim_inv {α : Type} (o : Option α) (s : State) (f : α → State) (h : s.Inv) (ho : OnSome o (fun a => (f a).Inv)) :
    (o.elim s f).Inv := by
  cases o with
  | none => exact h
  | some a => exact ho a rfl
@[simp] theorem State.mem_ite (c : Prop) [Decidable c] (s t : State) : (if c then s else t).mem = if c then s.mem else t.mem :=
  apply_ite State.mem c s t
theorem inv_of_fst {α : Type} {r : State × α} {t : State} {e : α} (hr : r = (t, e)) (h : r.1.Inv) : t.Inv := by
  rw [hr] at h; exact h
/-- A fold of steps that keep the form keeps it. -/
theorem foldl_inv {α : Type} (f : State → α → State) (hf : ∀ s a, s.Inv → (f s a).Inv) (l : List α) (s : State) (h : s.Inv) :
    (l.foldl f s).Inv := by
  induction l generalizing s with
  | nil => exact h
  | cons a t ih => exact ih _ (hf s a h)

/-- The state that an outcome goes on to is in canonical form. -/
def Keeps {φ ρ : Type} : Host.Outcome State φ ρ → Prop
  | .next t => t.Inv
  | _ => True

@[simp] theorem keeps_next {φ ρ : Type} (t : State) : Keeps (.next t : Host.Outcome State φ ρ) ↔ t.Inv := Iff.rfl
@[simp] theorem keeps_fault {φ ρ : Type} (r : φ) : Keeps (.fault r : Host.Outcome State φ ρ) := trivial
@[simp] theorem keeps_ite {φ ρ : Type} (c : Prop) [Decidable c] (x y : Host.Outcome State φ ρ) :
    Keeps (if c then x else y) ↔ if c then Keeps x else Keeps y := by
  split <;> rfl
@[simp] theorem keeps_out (s : State) (r : Except Stop State) (h : s.Inv) (hr : Ensures r State.Inv) : Keeps (s.out r) := by
  cases r with
  | ok u => simpa [State.Inv] using hr
  | error e => exact s.stopped_inv e h

/-! ### The laws of the shared operations, as results that ensure the form -/

@[simp] theorem writePlace_ensures (s : State) (k p b va) (h : s.Inv) : Ensures (s.writePlace k p b va) State.Inv :=
  fun t => s.writePlace_inv t k p b va h
@[simp] theorem rmw_ensures (s : State) (k p n va f) (h : s.Inv) : Ensures (s.rmw k p n va f) (fun r => r.2.Inv) :=
  fun r => s.rmw_inv r.2 k p n va f r.1 h
@[simp] theorem load_ensures (s : State) (n va) (h : s.Inv) : Ensures (s.load n va) (fun r => r.2.Inv) :=
  fun r hr => by show Memory.wf r.2.mem = true; rw [s.load_mem r.2 n va r.1 hr]; exact h
@[simp] theorem holdRank_ensures (s : State) (va r a n) (h : s.Inv) : Ensures (s.holdRank va r a n) State.Inv :=
  fun t hr => by unfold State.Inv; rw [s.holdRank_mem t va r a n hr]; exact h
@[simp] theorem store_ensures (s : State) (n va v) (h : s.Inv) : Ensures (s.store n va v) State.Inv :=
  fun t => s.store_inv t n va v h
@[simp] theorem counterAdd_ensures (s : State) (c p n va) (h : s.Inv) : Ensures (s.counterAdd c p n va) (fun r => r.2.Inv) :=
  fun r => s.counterAdd_inv r.2 c p n va r.1 h
@[simp] theorem post_ensures (s : State) (c p u va n) (h : s.Inv) : Ensures (s.post c p u va n) State.Inv :=
  fun t => s.post_inv t c p u va n h
theorem partStore_inv_of_eq {s t : State} {src part : Nat} {va : Word} {b : List Byte} {e : Option CauseRec} (h : s.Inv)
    (hr : s.partStore src part va b = (t, e)) : t.Inv := inv_of_fst hr (s.partStore_inv _ _ _ _ h)
/-- Reads that are counted leave memory as it was. -/
theorem afterReads_mem (s : State) (core : Nat) (l : List (Place × Word × Nat)) :
    (l.foldl (fun t r => t.afterRead core r.1 r.2.2 r.2.1) s).mem = s.mem :=
  foldl_mem _ (fun _ _ => State.afterRead_mem _ _ _ _ _) _ _

end Sys2Proof.Machine
end

section
/-! ### The shared operations (Machine/Ops) -/

namespace Sys2Proof.Machine

@[simp] theorem State.asOwner_mem (s : State) (part : Nat) (f : State → State) (hf : ∀ t, (f t).mem = t.mem) :
    (s.asOwner part f).mem = s.mem := by
  simp only [State.asOwner]
  split
  · exact hf s
  · simp -implicitDefEqProofs [foldl_mem, hf]
@[simp] theorem State.asOwner_inv (s : State) (part : Nat) (f : State → State) (h : s.Inv) (hf : ∀ t, t.Inv → (f t).Inv) :
    (s.asOwner part f).Inv := by
  simp only [State.asOwner]
  split
  · exact hf s h
  · simp -implicitDefEqProofs only [State.Inv, State.setPart_mem, foldl_mem, State.setCtx_mem, State.setCore_mem, State.setCell_mem, implies_true]
    exact hf _ (by simpa -implicitDefEqProofs [State.Inv, foldl_mem] using h)
@[simp] theorem State.fireCompletion_mem (s : State) (core) : (s.fireCompletion core).mem = s.mem := by
  simp [State.fireCompletion]
@[simp] theorem State.postFrom_mem (s : State) (coord k task src c) : (s.postFrom coord k task src c).mem = s.mem := by
  simp [State.postFrom]
@[simp] theorem State.postTo_mem (s : State) (part coord k task src c) : (s.postTo part coord k task src c).mem = s.mem := by
  simp [State.postTo]
@[simp] theorem State.freshFetch_mem (s : State) (k) : (s.freshFetch k).mem = s.mem := by
  simp [State.freshFetch]
@[simp] theorem State.unitTouch_mem (s : State) (core a n) : (s.unitTouch core a n).mem = s.mem := by
  simp [State.unitTouch]
@[simp] theorem State.scrTouch_mem (s : State) (k a n) : (s.scrTouch k a n).mem = s.mem := by
  simp [State.scrTouch]
@[simp] theorem State.setRank_inv (s : State) (part rank e) (h : s.Inv) : (s.setRank part rank e).Inv := by
  simp [State.setRank, State.Inv, State.putBytes_inv, h]
@[simp] theorem State.partTouch_mem (s : State) (part va n) : (s.partTouch part va n).mem = s.mem := by
  refine foldl_mem _ (fun t i => ?_) _ _
  dsimp only
  split <;> simp
@[simp] theorem State.unwait_mem (s : State) (k) : (s.unwait k).mem = s.mem := by
  simp only [State.unwait]
  (repeat' split) <;> simp
@[simp] theorem State.leave_mem (s : State) (k) : (s.leave k).mem = s.mem := by
  simp [State.leave]
@[simp] theorem State.disband_mem (s : State) (leader) : (s.disband leader).mem = s.mem := by
  simp only [State.disband]
  (repeat' split) <;> simp -implicitDefEqProofs [foldl_mem]
@[simp] theorem State.arrest_mem (s : State) (k c) : (s.arrest k c).mem = s.mem := by
  simp [State.arrest]

end Sys2Proof.Machine
end

section
/-! ### Flags (Machine/Flags) -/

namespace Sys2Proof.Machine

@[simp] theorem State.wrF_mem (s : State) (d r) : (s.wrF d r).mem = s.mem := by
  simp [State.wrF]

end Sys2Proof.Machine
end

section
/-! ### Integer words (Machine/Alu) -/

namespace Sys2Proof.Machine

@[simp] theorem State.alu_inv (s : State) (d a b f) (h : s.Inv) : Keeps (s.alu d a b f) := by
  simp [State.alu, State.Inv, h]
@[simp] theorem State.alu1_inv (s : State) (d a f) (h : s.Inv) : Keeps (s.alu1 d a f) := by
  simp [State.alu1, State.Inv, h]
@[simp] theorem execAdd_inv (s : State) (d a b) (h : s.Inv) : Keeps (execAdd d a b s) :=
  State.alu_inv _ _ _ _ _ h
@[simp] theorem execSub_inv (s : State) (d a b) (h : s.Inv) : Keeps (execSub d a b s) :=
  State.alu_inv _ _ _ _ _ h
@[simp] theorem execAnd_inv (s : State) (d a b) (h : s.Inv) : Keeps (execAnd d a b s) :=
  State.alu_inv _ _ _ _ _ h
@[simp] theorem execOr_inv (s : State) (d a b) (h : s.Inv) : Keeps (execOr d a b s) :=
  State.alu_inv _ _ _ _ _ h
@[simp] theorem execXor_inv (s : State) (d a b) (h : s.Inv) : Keeps (execXor d a b s) :=
  State.alu_inv _ _ _ _ _ h
@[simp] theorem execShl_inv (s : State) (d a b) (h : s.Inv) : Keeps (execShl d a b s) :=
  State.alu_inv _ _ _ _ _ h
@[simp] theorem execShr_inv (s : State) (d a b) (h : s.Inv) : Keeps (execShr d a b s) :=
  State.alu_inv _ _ _ _ _ h
@[simp] theorem execSha_inv (s : State) (d a b) (h : s.Inv) : Keeps (execSha d a b s) :=
  State.alu_inv _ _ _ _ _ h
@[simp] theorem execSlt_inv (s : State) (d a b) (h : s.Inv) : Keeps (execSlt d a b s) :=
  State.alu_inv _ _ _ _ _ h
@[simp] theorem execSltu_inv (s : State) (d a b) (h : s.Inv) : Keeps (execSltu d a b s) :=
  State.alu_inv _ _ _ _ _ h
@[simp] theorem execSeq_inv (s : State) (d a b) (h : s.Inv) : Keeps (execSeq d a b s) :=
  State.alu_inv _ _ _ _ _ h
@[simp] theorem execMin_inv (s : State) (d a b) (h : s.Inv) : Keeps (execMin d a b s) :=
  State.alu_inv _ _ _ _ _ h
@[simp] theorem execMax_inv (s : State) (d a b) (h : s.Inv) : Keeps (execMax d a b s) :=
  State.alu_inv _ _ _ _ _ h
@[simp] theorem execMinu_inv (s : State) (d a b) (h : s.Inv) : Keeps (execMinu d a b s) :=
  State.alu_inv _ _ _ _ _ h
@[simp] theorem execMaxu_inv (s : State) (d a b) (h : s.Inv) : Keeps (execMaxu d a b s) :=
  State.alu_inv _ _ _ _ _ h
@[simp] theorem execSel_inv (s : State) (d a b c) (h : s.Inv) : Keeps (execSel d a b c s) :=
  State.alu_inv _ _ _ _ _ h
@[simp] theorem execAddi_inv (s : State) (d a i) (h : s.Inv) : Keeps (execAddi d a i s) :=
  State.alu1_inv _ _ _ _ h
@[simp] theorem execAndi_inv (s : State) (d a i) (h : s.Inv) : Keeps (execAndi d a i s) :=
  State.alu1_inv _ _ _ _ h
@[simp] theorem execOri_inv (s : State) (d a i) (h : s.Inv) : Keeps (execOri d a i s) :=
  State.alu1_inv _ _ _ _ h
@[simp] theorem execXori_inv (s : State) (d a i) (h : s.Inv) : Keeps (execXori d a i s) :=
  State.alu1_inv _ _ _ _ h
@[simp] theorem execSlti_inv (s : State) (d a i) (h : s.Inv) : Keeps (execSlti d a i s) :=
  State.alu1_inv _ _ _ _ h
@[simp] theorem execShli_inv (s : State) (d a h1) (h : s.Inv) : Keeps (execShli d a h1 s) :=
  State.alu1_inv _ _ _ _ h
@[simp] theorem execShri_inv (s : State) (d a h1) (h : s.Inv) : Keeps (execShri d a h1 s) :=
  State.alu1_inv _ _ _ _ h
@[simp] theorem execShai_inv (s : State) (d a h1) (h : s.Inv) : Keeps (execShai d a h1 s) :=
  State.alu1_inv _ _ _ _ h
@[simp] theorem execLui_inv (s : State) (d i) (h : s.Inv) : Keeps (execLui d i s) := by
  simp [execLui, State.Inv, h]
@[simp] theorem execAddpc_inv (s : State) (d i) (h : s.Inv) : Keeps (execAddpc d i s) := by
  simp [execAddpc, State.Inv, h]
@[simp] theorem execMul_inv (s : State) (d a b w) (h : s.Inv) : Keeps (execMul d a b w s) :=
  State.alu_inv _ _ _ _ _ h
@[simp] theorem execMulh_inv (s : State) (d a b w) (h : s.Inv) : Keeps (execMulh d a b w s) :=
  State.alu_inv _ _ _ _ _ h
@[simp] theorem execMulhu_inv (s : State) (d a b w) (h : s.Inv) : Keeps (execMulhu d a b w s) :=
  State.alu_inv _ _ _ _ _ h
@[simp] theorem execDiv_inv (s : State) (d a b w) (h : s.Inv) : Keeps (execDiv d a b w s) :=
  State.alu_inv _ _ _ _ _ h
@[simp] theorem execDivu_inv (s : State) (d a b w) (h : s.Inv) : Keeps (execDivu d a b w s) :=
  State.alu_inv _ _ _ _ _ h
@[simp] theorem execRem_inv (s : State) (d a b w) (h : s.Inv) : Keeps (execRem d a b w s) :=
  State.alu_inv _ _ _ _ _ h
@[simp] theorem execRemu_inv (s : State) (d a b w) (h : s.Inv) : Keeps (execRemu d a b w s) :=
  State.alu_inv _ _ _ _ _ h
@[simp] theorem execClz_inv (s : State) (d a) (h : s.Inv) : Keeps (execClz d a s) :=
  State.alu1_inv _ _ _ _ h
@[simp] theorem execCtz_inv (s : State) (d a) (h : s.Inv) : Keeps (execCtz d a s) :=
  State.alu1_inv _ _ _ _ h
@[simp] theorem execPopc_inv (s : State) (d a) (h : s.Inv) : Keeps (execPopc d a s) :=
  State.alu1_inv _ _ _ _ h
@[simp] theorem execBrev_inv (s : State) (d a) (h : s.Inv) : Keeps (execBrev d a s) :=
  State.alu1_inv _ _ _ _ h
@[simp] theorem execBswap_inv (s : State) (d a) (h : s.Inv) : Keeps (execBswap d a s) :=
  State.alu1_inv _ _ _ _ h
@[simp] theorem execBfx_inv (s : State) (d a b) (h : s.Inv) : Keeps (execBfx d a b s) :=
  State.alu_inv _ _ _ _ _ h
@[simp] theorem execBfi_inv (s : State) (d a b) (h : s.Inv) : Keeps (execBfi d a b s) :=
  State.alu_inv _ _ _ _ _ h

end Sys2Proof.Machine
end

section
/-! ### Loads and stores (Machine/MemOps) -/

namespace Sys2Proof.Machine

@[simp] theorem State.loadTo_inv (s : State) (len n va d ext) (h : s.Inv) : Ensures (s.loadTo len n va d ext) State.Inv := by
  simp [State.loadTo, State.Inv, h]
@[simp] theorem State.storeFrom_inv (s : State) (len n va v) (h : s.Inv) : Ensures (s.storeFrom len n va v) State.Inv := by
  simp [State.storeFrom, State.Inv, h]
@[simp] theorem execLd_inv (s : State) (d a o z) (h : s.Inv) : Keeps (execLd d a o z s) := by
  simp [execLd, State.Inv, h]
@[simp] theorem execLdx_inv (s : State) (d a b z h1) (h : s.Inv) : Keeps (execLdx d a b z h1 s) := by
  simp [execLdx, State.Inv, h]
@[simp] theorem execSt_inv (s : State) (v a o z) (h : s.Inv) : Keeps (execSt v a o z s) := by
  simp [execSt, State.Inv, h]
@[simp] theorem execStx_inv (s : State) (v a b z h1) (h : s.Inv) : Keeps (execStx v a b z h1 s) := by
  simp [execStx, State.Inv, h]
@[simp] theorem State.askFill_mem (s : State) (line r) : (s.askFill line r).mem = s.mem := by
  simp only [State.askFill]
  (repeat' split) <;> simp
@[simp] theorem State.askLine_mem (s : State) (core pa keyid) : (s.askLine core pa keyid).mem = s.mem := by
  simp [State.askLine]
@[simp] theorem execPref_inv (s : State) (a) (h : s.Inv) : Keeps (execPref a s) := by
  simp only [execPref]
  (repeat' split) <;> simp [State.Inv, h]
@[simp] theorem State.cleanLine_mem (s : State) (line) : (s.cleanLine line).mem = s.mem := by
  simp only [State.cleanLine]
  (repeat' split) <;> simp -implicitDefEqProofs [foldl_mem]
@[simp] theorem State.killLine_mem (s : State) (line) : (s.killLine line).mem = s.mem := by
  simp -implicitDefEqProofs [State.killLine, foldl_mem]
@[simp] theorem State.lineOp_inv (s : State) (a) (f : State → Nat → Nat → State) (h : s.Inv)
    (hf : ∀ t pa key, (f t pa key).mem = t.mem) : Keeps (s.lineOp a f) := by
  simp [State.lineOp, State.Inv, h, hf, ensures_place]
@[simp] theorem execCflush_inv (s : State) (a) (h : s.Inv) : Keeps (execCflush a s) :=
  s.lineOp_inv a _ h fun _ _ _ => by simp
@[simp] theorem execCinv_inv (s : State) (a) (h : s.Inv) : Keeps (execCinv a s) :=
  s.lineOp_inv a _ h fun _ _ _ => by simp

end Sys2Proof.Machine
end

section
/-! ### Loops (Machine/Loops) -/

namespace Sys2Proof.Machine

@[simp] theorem State.sendFrom_mem (s : State) (die stop p) : (s.sendFrom die stop p).mem = s.mem := by
  simp [State.sendFrom]
@[simp] theorem State.sendPacket_mem (s : State) (p) : (s.sendPacket p).mem = s.mem := by
  simp [State.sendPacket]
@[simp] theorem State.sendOut_inv (s : State) (die stop p) (h : s.Inv) : OnSome (s.sendOut die stop p) State.Inv := by
  simp [State.sendOut, State.Inv, h]
@[simp] theorem State.setPort_mem (s : State) (die p x) : (s.setPort die p x).mem = s.mem := by
  simp [State.setPort]

end Sys2Proof.Machine
end

section
/-! ### Floating-point words (Machine/FpOps) -/

namespace Sys2Proof.Machine

@[simp] theorem State.fpu_inv (s : State) (d a b f) (h : s.Inv) : Keeps (s.fpu d a b f) := by
  simp [State.fpu, State.Inv, h]
@[simp] theorem execFadd_inv (s : State) (d a b) (h : s.Inv) : Keeps (execFadd d a b s) :=
  State.fpu_inv _ _ _ _ _ h
@[simp] theorem execFsub_inv (s : State) (d a b) (h : s.Inv) : Keeps (execFsub d a b s) :=
  State.fpu_inv _ _ _ _ _ h
@[simp] theorem execFmul_inv (s : State) (d a b) (h : s.Inv) : Keeps (execFmul d a b s) :=
  State.fpu_inv _ _ _ _ _ h
@[simp] theorem execFdiv_inv (s : State) (d a b) (h : s.Inv) : Keeps (execFdiv d a b s) :=
  State.fpu_inv _ _ _ _ _ h
@[simp] theorem execFsqrt_inv (s : State) (d a) (h : s.Inv) : Keeps (execFsqrt d a s) :=
  State.fpu_inv _ _ _ _ _ h
@[simp] theorem execFmin_inv (s : State) (d a b) (h : s.Inv) : Keeps (execFmin d a b s) :=
  State.fpu_inv _ _ _ _ _ h
@[simp] theorem execFmax_inv (s : State) (d a b) (h : s.Inv) : Keeps (execFmax d a b s) :=
  State.fpu_inv _ _ _ _ _ h
@[simp] theorem execFcmp_inv (s : State) (d a b r) (h : s.Inv) : Keeps (execFcmp d a b r s) :=
  State.fpu_inv _ _ _ _ _ h
@[simp] theorem execFclass_inv (s : State) (d a) (h : s.Inv) : Keeps (execFclass d a s) :=
  State.fpu_inv _ _ _ _ _ h
@[simp] theorem execFfma_inv (s : State) (d a b c) (h : s.Inv) : Keeps (execFfma d a b c s) :=
  State.fpu_inv _ _ _ _ _ h
@[simp] theorem execFcvt_inv (s : State) (d a sat x y rtz) (h : s.Inv) : Keeps (execFcvt d a sat x y rtz s) := by
  simp [execFcvt, State.Inv, h]

end Sys2Proof.Machine
end

section
/-! ### Atomic words (Machine/Atomic) -/

namespace Sys2Proof.Machine

@[simp] theorem State.atomicNow_inv (s : State) (k r va) (h : s.Inv) : Ensures (s.atomicNow k r va) State.Inv := by
  simp [State.atomicNow, State.Inv, h]
@[simp] theorem State.atomicLate_inv (s : State) (k r) (h : s.Inv) : OnSome (s.atomicLate k r) State.Inv := by
  simp only [State.atomicLate]
  split
  · rename_i t ht
    have ha : Ensures (s.waysFree k r.va >>= fun _ => s.placeOf k false r.user (Req.atomic (atomSize r.wide) false) r.va >>= fun p =>
        s.atomicNow k { r with place := p } r.va) State.Inv := by simp [State.Inv, h]
    simpa [State.Inv] using ha t ht
  · simp [State.Inv, h]
  · simp
@[simp] theorem State.atomic_inv (s : State) (va r ord) (h : s.Inv) : Ensures (s.atomic va r ord) State.Inv := by
  simp only [State.atomic]
  (repeat' split) <;> simp -implicitDefEqProofs [State.Inv, h]
@[simp] theorem execAmo_inv (s : State) (d a b w r p f) (h : s.Inv) : Keeps (execAmo d a b w r p f s) := by
  simp [execAmo, State.Inv, h]
@[simp] theorem execAcas_inv (s : State) (d a b w r f) (h : s.Inv) : Keeps (execAcas d a b w r f s) := by
  simp [execAcas, State.Inv, h]
@[simp] theorem execRed_inv (s : State) (a b w p f) (h : s.Inv) : Keeps (execRed a b w p f s) := by
  refine keeps_out _ _ h (.bind_of_forall fun _ => ?_)
  dsimp only
  split
  · simp [State.Inv, h]
  · split
    · simp [State.Inv, h]
    · simp
    · refine .bind_of_forall fun _ => .bind_of_forall fun _ => ?_
      split
      · rename_i hr
        simpa [State.Inv] using rmw_ensures _ _ _ _ _ _ h _ hr
      · simp [State.Inv, h]
      · simp
@[simp] theorem execRelAtomicDepart_inv (s : State) (key) (h : s.Inv) : Keeps (execRelAtomicDepart key s) := by
  simp only [execRelAtomicDepart]
  (repeat' split) <;> simp [State.Inv, h]
@[simp] theorem execStoreAcknowledge_inv (s : State) (key sys) (h : s.Inv) : Keeps (execStoreAcknowledge key sys s) := by
  simp [execStoreAcknowledge, State.Inv, h]

end Sys2Proof.Machine
end

section
/-! ### Counters, fences, waits and lines (Machine/Sync) -/

namespace Sys2Proof.Machine

@[simp] theorem execFence_inv (s : State) (sc) (h : s.Inv) : Keeps (execFence sc s) := by
  simp [execFence, State.Inv, h]
@[simp] theorem State.blockWith_mem (s : State) (v w) : (s.blockWith v w).mem = s.mem := by
  simp [State.blockWith]
@[simp] theorem State.forget_mem (s : State) : (s.forget).mem = s.mem := by
  simp [State.forget]
@[simp] theorem State.counterRead_inv (s : State) (p va) (h : s.Inv) : Ensures (s.counterRead p va) (fun r => r.2.Inv) := by
  simp [State.counterRead, State.Inv, h]
@[simp] theorem execCadd_inv (s : State) (d a sc b) (h : s.Inv) : Keeps (execCadd d a sc b s) := by
  simp [execCadd, State.Inv, h]
@[simp] theorem execCaddNr_inv (s : State) (a sc b) (h : s.Inv) : Keeps (execCaddNr a sc b s) := by
  refine keeps_out _ _ h (.bind_of_forall fun _ => ?_)
  dsimp only
  split
  · simp [State.Inv, h]
  · refine .bind_of_forall fun p => .bind_of_forall fun _ => ?_
    split
    · rename_i hr
      simpa [State.Inv] using counterAdd_ensures _ _ _ _ _ h _ hr
    · simp [State.Inv, h]
    · simp
@[simp] theorem State.counterWait_inv (s : State) (va target sc) (h : s.Inv) :
    Ensures (s.counterWait va target sc) (fun r => r.2.Inv) :=
  .bind_of_forall fun p => .bind_of_forall fun _ => .bind_of (s.counterRead_inv p va h) fun r hr => .bind_of_forall fun _ => by
    simpa using hr
@[simp] theorem execCwait_inv (s : State) (d a sc b) (h : s.Inv) : Keeps (execCwait d a sc b s) := by
  simp [execCwait, State.Inv, h]
@[simp] theorem execCread_inv (s : State) (d a sc) (h : s.Inv) : Keeps (execCread d a sc s) := by
  simp [execCread, State.Inv, h]
@[simp] theorem execBar_inv (s : State) (a sc b) (h : s.Inv) : Keeps (execBar a sc b s) := by
  refine keeps_out _ _ h (.bind_of_forall fun _ => .bind_of_forall fun _ => .bind_of_forall fun p => ?_)
  dsimp only
  split
  · simp [State.Inv, h]
  · exact .bind_of (s.counterRead_inv p _ h) fun r hr => .bind_of_forall fun _ => by simpa [State.Inv] using hr
@[simp] theorem execSync_inv (s : State) (h : s.Inv) : Keeps (execSync s) := by
  simp only [execSync]
  (repeat' split) <;> simp [State.Inv, h]
@[simp] theorem execPacew_inv (s : State) (d a) (h : s.Inv) : Keeps (execPacew d a s) := by
  simp only [execPacew]
  (repeat' split) <;> simp [State.Inv, h]
@[simp] theorem State.dropRecords_mem (s : State) (k) : (s.dropRecords k).mem = s.mem := by
  simp [State.dropRecords]
@[simp] theorem State.placeRecord_mem (s : State) (sec k idx) : (s.placeRecord sec k idx).mem = s.mem := by
  simp only [State.placeRecord]
  (repeat' split) <;> simp
@[simp] theorem State.arm_inv (s : State) (g) (h : s.Inv) : (s.arm g).1.Inv := by
  simp only [State.arm]
  (repeat' split) <;> simp [State.Inv, h]
@[simp] theorem execWatch_inv (s : State) (d a) (h : s.Inv) : Keeps (execWatch d a s) := by
  refine keeps_out _ _ h (.bind_of_forall fun _ => .bind_of_forall fun _ => ?_)
  dsimp only
  split <;> simp [State.Inv, h, ensures_place]
@[simp] theorem State.waitwReturn_mem (s : State) (k d timeout intr) : (s.waitwReturn k d timeout intr).mem = s.mem := by
  simp [State.waitwReturn]
@[simp] theorem State.waitwAll_mem (s : State) (k d intr) : (s.waitwAll k d intr).mem = s.mem := by
  simp only [State.waitwAll]
  (repeat' split) <;> simp -implicitDefEqProofs [foldl_mem]
@[simp] theorem State.wfiAll_mem (s : State) (k) : (s.wfiAll k).mem = s.mem := by
  simp only [State.wfiAll]
  (repeat' split) <;> simp -implicitDefEqProofs [foldl_mem]
@[simp] theorem execWaitw_inv (s : State) (d a) (h : s.Inv) : Keeps (execWaitw d a s) := by
  simp [execWaitw, State.Inv, h]
@[simp] theorem execWaitwTimeout_inv (s : State) (key) (h : s.Inv) : Keeps (execWaitwTimeout key s) := by
  simp only [execWaitwTimeout]
  (repeat' split) <;> simp [State.Inv, h]
@[simp] theorem execQfence_inv (s : State) (a) (h : s.Inv) : Keeps (execQfence a s) := by
  simp [execQfence, State.Inv, h]

end Sys2Proof.Machine
end

section
/-! ### The vector unit (Machine/VecUnit) -/

namespace Sys2Proof.Machine

@[simp] theorem State.vecLoad_inv (s : State) (k n d m addr) (h : s.Inv) : Ensures (s.vecLoad k n d m addr) State.Inv := by
  simp -implicitDefEqProofs [State.vecLoad, State.Inv, h, foldl_mem]
@[simp] theorem State.lanesWrite_inv (s : State) (k n addr val l) (h : s.Inv) : Ensures (s.lanesWrite k n addr val l) State.Inv := by
  induction l generalizing s with
  | nil => simpa [State.lanesWrite, State.Inv] using h
  | cons e t ih => exact .bind_of (writePlace_ensures _ _ _ _ _ h) fun u hu => ih _ (by simpa [State.Inv] using hu)
@[simp] theorem State.vecStore_inv (s : State) (k n v m addr) (h : s.Inv) : Ensures (s.vecStore k n v m addr) State.Inv := by
  simp [State.vecStore, State.Inv, h]
@[simp] theorem State.vtab_inv (s : State) (k d a m e6) (h : s.Inv) : Ensures (s.vtab k d a m e6) State.Inv := by
  simp [State.vtab, State.Inv, h]
@[simp] theorem State.vecEffect_inv (s : State) (w) (h : s.Inv) : Ensures (s.vecEffect w) State.Inv := by
  simp only [State.vecEffect]
  (repeat' split) <;> simp [State.Inv, h]

end Sys2Proof.Machine
end

section
/-! ### Rays and splats (Machine/Ray) -/

namespace Sys2Proof.Machine

@[simp] theorem State.scrWrite_inv (s : State) (k a n b) (h : s.Inv) : Ensures (s.scrWrite k a n b) State.Inv := by
  induction n generalizing s a b with
  | zero => simpa [State.scrWrite, State.Inv] using h
  | succ n ih =>
    exact .bind_of_forall fun p => .bind_of_forall fun _ => .bind_of (writePlace_ensures _ _ _ _ _ h) fun u hu => ih _ _ _ hu
@[simp] theorem State.rayTriEffect_inv (s : State) (k d a m addr) (h : s.Inv) : Ensures (s.rayTriEffect k d a m addr) State.Inv := by
  simp [State.rayTriEffect, State.Inv, h]
@[simp] theorem State.rayBoxEffect_inv (s : State) (k d a m addr) (h : s.Inv) : Ensures (s.rayBoxEffect k d a m addr) State.Inv := by
  simp [State.rayBoxEffect, State.Inv, h]
@[simp] theorem execRayhit_inv (s : State) (d a b) (h : s.Inv) : Keeps (execRayhit d a b s) := by
  simp [execRayhit, State.Inv, h]
@[simp] theorem State.attrEffect_inv (s : State) (k d a addr e7) (h : s.Inv) : Ensures (s.attrEffect k d a addr e7) State.Inv := by
  simp [State.attrEffect, State.Inv, h]
@[simp] theorem State.pixelsWrite_inv (s : State) (k base e7 b l) (h : s.Inv) : Ensures (s.pixelsWrite k base e7 b l) State.Inv := by
  induction l generalizing s with
  | nil => simpa [State.pixelsWrite, State.Inv] using h
  | cons p t ih => exact .bind_of (s.scrWrite_inv _ _ _ _ h) fun u hu => ih u hu
@[simp] theorem State.pxLanes_inv (s : State) (k base e7 px rgba l) (h : s.Inv) : Ensures (s.pxLanes k base e7 px rgba l) State.Inv := by
  induction l generalizing s with
  | nil => simpa [State.pxLanes, State.Inv] using h
  | cons i t ih =>
    simp only [State.pxLanes]
    split
    · exact ih s h
    · exact .bind_of (s.pixelsWrite_inv _ _ _ _ _ h) fun u hu => ih _ (by simpa [State.Inv] using hu)
@[simp] theorem State.pxoutEffect_inv (s : State) (k a b tile e7 frm) (h : s.Inv) : Ensures (s.pxoutEffect k a b tile e7 frm) State.Inv := by
  simp [State.pxoutEffect, State.Inv, h]
@[simp] theorem State.splatWord_inv (s : State) (d f) (h : s.Inv) (hf : Ensures f State.Inv) : Ensures (s.splatWord d f) State.Inv := by
  simp only [State.splatWord]
  split
  · split <;> simp [State.Inv, h]
  · exact .bind_of_forall fun _ => hf
@[simp] theorem State.splat_inv (s : State) (i x y z) (h : s.Inv) : Ensures (s.splat i x y z) State.Inv := by
  simp [State.splat, State.Inv, h]
@[simp] theorem execSpsort_inv (s : State) (a) (h : s.Inv) : Keeps (execSpsort a s) :=
  keeps_out _ _ h (s.splatWord_inv _ _ h (by simp [State.Inv, h]))
@[simp] theorem execSpsortG_inv (s : State) (d a b) (h : s.Inv) : Keeps (execSpsortG d a b s) :=
  keeps_out _ _ h (s.splatWord_inv _ _ h (by simp [State.Inv, h]))
@[simp] theorem execSpcomp_inv (s : State) (d a b) (h : s.Inv) : Keeps (execSpcomp d a b s) :=
  keeps_out _ _ h (s.splatWord_inv _ _ h (by simp [State.Inv, h]))
@[simp] theorem State.spGather_inv (s : State) (k e6 e7 src count ovf n) (h : s.Inv) :
    Ensures (s.spGather k e6 e7 src count ovf n) (fun r => r.1.Inv) := by
  induction n generalizing s src count ovf with
  | zero => simpa [State.spGather, State.Inv] using h
  | succ n ih =>
    have ht : (s.scrTouch k src 32).Inv := by simpa [State.Inv] using h
    refine .bind_of_forall fun r => ?_
    dsimp only
    split
    · split
      · exact .bind_of (State.scrWrite_inv _ _ _ _ _ ht) fun u hu => ih _ _ _ _ hu
      · exact ih _ _ _ _ ht
    · exact ih _ _ _ _ ht
@[simp] theorem State.spSort_inv (s : State) (k e6 n) (h : s.Inv) : Ensures (s.spSort k e6 n) State.Inv :=
  .bind_of_forall fun _ => .bind_of (State.scrWrite_inv _ _ _ _ _ (by simpa [State.Inv] using h)) fun u hu => u.scrWrite_inv _ _ _ _ hu
@[simp] theorem State.spPixels_inv (s : State) (k tile e7 stop recs count l) (h : s.Inv) :
    Ensures (s.spPixels k tile e7 stop recs count l) (fun r => r.1.Inv) := by
  induction l generalizing s count with
  | nil => simpa [State.spPixels, State.Inv] using h
  | cons p t ih =>
    exact .bind_of_forall fun _ => .bind_of (State.scrWrite_inv _ _ _ _ _ (by simpa [State.Inv] using h)) fun u hu =>
      ih _ _ (by simpa [State.Inv] using hu)
@[simp] theorem State.splatEffect_inv (s : State) (c) (h : s.Inv) : Ensures (s.splatEffect c) (fun r => r.1.Inv) := by
  simp only [State.splatEffect]
  (repeat' split) <;> simp [State.Inv, h]
@[simp] theorem execSplatCommandPerform_inv (s : State) (clu) (h : s.Inv) : Keeps (execSplatCommandPerform clu s) := by
  simp only [execSplatCommandPerform]
  split
  · exact h
  · split
    · rename_i hr
      simpa [State.Inv] using State.splatEffect_inv _ _ (by simpa [State.Inv] using h) _ hr
    all_goals simp [State.Inv, State.escapeHeat_inv, h]
@[simp] theorem State.setStream_mem (s : State) (die n v) : (s.setStream die n v).mem = s.mem := by
  simp [State.setStream]
@[simp] theorem execFrsend_inv (s : State) (a b) (h : s.Inv) : Keeps (execFrsend a b s) := by
  simp only [execFrsend]
  (repeat' split) <;> simp [State.Inv, h]

end Sys2Proof.Machine
end

section
/-! ### Gangs (Machine/Gang) -/

namespace Sys2Proof.Machine

@[simp] theorem State.takeFollowers_mem (s : State) (leader pc keys d l i) : (s.takeFollowers leader pc keys d l i).mem = s.mem := by
  induction l generalizing s i with
  | nil => rfl
  | cons f t ih => simp [State.takeFollowers, ih]
@[simp] theorem execGang_inv (s : State) (d n) (h : s.Inv) : Keeps (execGang d n s) := by
  simp only [execGang]
  (repeat' split) <;> simp [State.Inv, h]
@[simp] theorem execUngang_inv (s : State) (h : s.Inv) : Keeps (execUngang s) := by
  simp [execUngang, State.Inv, h]

end Sys2Proof.Machine
end

section
/-! ### Vector words (Machine/VecIssue) -/

namespace Sys2Proof.Machine

@[simp] theorem State.vecPush_inv (s : State) (k pc i x y fromSeq) (h : s.Inv) : Ensures (s.vecPush k pc i x y fromSeq) State.Inv := by
  simp [State.vecPush, State.Inv, h]
@[simp] theorem State.vecExec_inv (s : State) (i) (h : s.Inv) : Keeps (s.vecExec i) := by
  simp [State.vecExec, State.Inv, h]
@[simp] theorem execVaddF32_inv (s : State) (d a b k) (h : s.Inv) : Keeps (execVaddF32 d a b k s) :=
  State.vecExec_inv _ _ h
@[simp] theorem execVsubF32_inv (s : State) (d a b k) (h : s.Inv) : Keeps (execVsubF32 d a b k s) :=
  State.vecExec_inv _ _ h
@[simp] theorem execVmulF32_inv (s : State) (d a b k) (h : s.Inv) : Keeps (execVmulF32 d a b k s) :=
  State.vecExec_inv _ _ h
@[simp] theorem execVfma_inv (s : State) (d a b k) (h : s.Inv) : Keeps (execVfma d a b k s) :=
  State.vecExec_inv _ _ h
@[simp] theorem execVminF32_inv (s : State) (d a b k) (h : s.Inv) : Keeps (execVminF32 d a b k s) :=
  State.vecExec_inv _ _ h
@[simp] theorem execVmaxF32_inv (s : State) (d a b k) (h : s.Inv) : Keeps (execVmaxF32 d a b k s) :=
  State.vecExec_inv _ _ h
@[simp] theorem execVabsF32_inv (s : State) (d a k) (h : s.Inv) : Keeps (execVabsF32 d a k s) :=
  State.vecExec_inv _ _ h
@[simp] theorem execVcmpEqF32_inv (s : State) (m a b k) (h : s.Inv) : Keeps (execVcmpEqF32 m a b k s) :=
  State.vecExec_inv _ _ h
@[simp] theorem execVcmpLtF32_inv (s : State) (m a b k) (h : s.Inv) : Keeps (execVcmpLtF32 m a b k s) :=
  State.vecExec_inv _ _ h
@[simp] theorem execVcmpLeF32_inv (s : State) (m a b k) (h : s.Inv) : Keeps (execVcmpLeF32 m a b k s) :=
  State.vecExec_inv _ _ h
@[simp] theorem execVcmpNeF32_inv (s : State) (m a b k) (h : s.Inv) : Keeps (execVcmpNeF32 m a b k s) :=
  State.vecExec_inv _ _ h
@[simp] theorem execVrcp_inv (s : State) (d a k) (h : s.Inv) : Keeps (execVrcp d a k s) :=
  State.vecExec_inv _ _ h
@[simp] theorem execVrsq_inv (s : State) (d a k) (h : s.Inv) : Keeps (execVrsq d a k s) :=
  State.vecExec_inv _ _ h
@[simp] theorem execVexp2_inv (s : State) (d a k) (h : s.Inv) : Keeps (execVexp2 d a k s) :=
  State.vecExec_inv _ _ h
@[simp] theorem execVlog2_inv (s : State) (d a k) (h : s.Inv) : Keeps (execVlog2 d a k s) :=
  State.vecExec_inv _ _ h
@[simp] theorem execVredAddF32_inv (s : State) (d a k) (h : s.Inv) : Keeps (execVredAddF32 d a k s) :=
  State.vecExec_inv _ _ h
@[simp] theorem execVredMinF32_inv (s : State) (d a k) (h : s.Inv) : Keeps (execVredMinF32 d a k s) :=
  State.vecExec_inv _ _ h
@[simp] theorem execVredMaxF32_inv (s : State) (d a k) (h : s.Inv) : Keeps (execVredMaxF32 d a k s) :=
  State.vecExec_inv _ _ h
@[simp] theorem execVscanAddF32_inv (s : State) (d a k) (h : s.Inv) : Keeps (execVscanAddF32 d a k s) :=
  State.vecExec_inv _ _ h
@[simp] theorem execVscanMinF32_inv (s : State) (d a k) (h : s.Inv) : Keeps (execVscanMinF32 d a k s) :=
  State.vecExec_inv _ _ h
@[simp] theorem execVscanMaxF32_inv (s : State) (d a k) (h : s.Inv) : Keeps (execVscanMaxF32 d a k s) :=
  State.vecExec_inv _ _ h
@[simp] theorem execVtab_inv (s : State) (d a k) (h : s.Inv) : Keeps (execVtab d a k s) :=
  State.vecExec_inv _ _ h
@[simp] theorem execVcvt_inv (s : State) (d a k) (h : s.Inv) : Keeps (execVcvt d a k s) :=
  State.vecExec_inv _ _ h
@[simp] theorem execVadd_inv (s : State) (d a b k e) (h : s.Inv) : Keeps (execVadd d a b k e s) :=
  State.vecExec_inv _ _ h
@[simp] theorem execVsub_inv (s : State) (d a b k e) (h : s.Inv) : Keeps (execVsub d a b k e s) :=
  State.vecExec_inv _ _ h
@[simp] theorem execVmul_inv (s : State) (d a b k e) (h : s.Inv) : Keeps (execVmul d a b k e s) :=
  State.vecExec_inv _ _ h
@[simp] theorem execVmin_inv (s : State) (d a b k e) (h : s.Inv) : Keeps (execVmin d a b k e s) :=
  State.vecExec_inv _ _ h
@[simp] theorem execVmax_inv (s : State) (d a b k e) (h : s.Inv) : Keeps (execVmax d a b k e s) :=
  State.vecExec_inv _ _ h
@[simp] theorem execVminU_inv (s : State) (d a b k e) (h : s.Inv) : Keeps (execVminU d a b k e s) :=
  State.vecExec_inv _ _ h
@[simp] theorem execVmaxU_inv (s : State) (d a b k e) (h : s.Inv) : Keeps (execVmaxU d a b k e s) :=
  State.vecExec_inv _ _ h
@[simp] theorem execVabs_inv (s : State) (d a k e) (h : s.Inv) : Keeps (execVabs d a k e s) :=
  State.vecExec_inv _ _ h
@[simp] theorem execVand_inv (s : State) (d a b k) (h : s.Inv) : Keeps (execVand d a b k s) :=
  State.vecExec_inv _ _ h
@[simp] theorem execVor_inv (s : State) (d a b k) (h : s.Inv) : Keeps (execVor d a b k s) :=
  State.vecExec_inv _ _ h
@[simp] theorem execVxor_inv (s : State) (d a b k) (h : s.Inv) : Keeps (execVxor d a b k s) :=
  State.vecExec_inv _ _ h
@[simp] theorem execVshl_inv (s : State) (d a b k e) (h : s.Inv) : Keeps (execVshl d a b k e s) :=
  State.vecExec_inv _ _ h
@[simp] theorem execVshr_inv (s : State) (d a b k e) (h : s.Inv) : Keeps (execVshr d a b k e s) :=
  State.vecExec_inv _ _ h
@[simp] theorem execVsha_inv (s : State) (d a b k e) (h : s.Inv) : Keeps (execVsha d a b k e s) :=
  State.vecExec_inv _ _ h
@[simp] theorem execVpopc_inv (s : State) (d a k) (h : s.Inv) : Keeps (execVpopc d a k s) :=
  State.vecExec_inv _ _ h
@[simp] theorem execVcmpEq_inv (s : State) (m a b k e) (h : s.Inv) : Keeps (execVcmpEq m a b k e s) :=
  State.vecExec_inv _ _ h
@[simp] theorem execVcmpNe_inv (s : State) (m a b k e) (h : s.Inv) : Keeps (execVcmpNe m a b k e s) :=
  State.vecExec_inv _ _ h
@[simp] theorem execVcmpLt_inv (s : State) (m a b k e) (h : s.Inv) : Keeps (execVcmpLt m a b k e s) :=
  State.vecExec_inv _ _ h
@[simp] theorem execVcmpLe_inv (s : State) (m a b k e) (h : s.Inv) : Keeps (execVcmpLe m a b k e s) :=
  State.vecExec_inv _ _ h
@[simp] theorem execVcmpLtU_inv (s : State) (m a b k e) (h : s.Inv) : Keeps (execVcmpLtU m a b k e s) :=
  State.vecExec_inv _ _ h
@[simp] theorem execVcmpLeU_inv (s : State) (m a b k e) (h : s.Inv) : Keeps (execVcmpLeU m a b k e s) :=
  State.vecExec_inv _ _ h
@[simp] theorem execVsel_inv (s : State) (d a b k) (h : s.Inv) : Keeps (execVsel d a b k s) :=
  State.vecExec_inv _ _ h
@[simp] theorem execVperm_inv (s : State) (d a b k) (h : s.Inv) : Keeps (execVperm d a b k s) :=
  State.vecExec_inv _ _ h
@[simp] theorem execVextr_inv (s : State) (d a b) (h : s.Inv) : Keeps (execVextr d a b s) :=
  State.vecExec_inv _ _ h
@[simp] theorem execVbcast_inv (s : State) (d a k) (h : s.Inv) : Keeps (execVbcast d a k s) :=
  State.vecExec_inv _ _ h
@[simp] theorem execVsort_inv (s : State) (d a b k) (h : s.Inv) : Keeps (execVsort d a b k s) :=
  State.vecExec_inv _ _ h
@[simp] theorem execVredAdd_inv (s : State) (d a k) (h : s.Inv) : Keeps (execVredAdd d a k s) :=
  State.vecExec_inv _ _ h
@[simp] theorem execVredMin_inv (s : State) (d a k) (h : s.Inv) : Keeps (execVredMin d a k s) :=
  State.vecExec_inv _ _ h
@[simp] theorem execVredMax_inv (s : State) (d a k) (h : s.Inv) : Keeps (execVredMax d a k s) :=
  State.vecExec_inv _ _ h
@[simp] theorem execVscanAdd_inv (s : State) (d a k) (h : s.Inv) : Keeps (execVscanAdd d a k s) :=
  State.vecExec_inv _ _ h
@[simp] theorem execVredOr_inv (s : State) (d a k) (h : s.Inv) : Keeps (execVredOr d a k s) :=
  State.vecExec_inv _ _ h
@[simp] theorem execVredAnd_inv (s : State) (d a k) (h : s.Inv) : Keeps (execVredAnd d a k s) :=
  State.vecExec_inv _ _ h
@[simp] theorem execVld_inv (s : State) (d a b k) (h : s.Inv) : Keeps (execVld d a b k s) :=
  State.vecExec_inv _ _ h
@[simp] theorem execVst_inv (s : State) (v a b k) (h : s.Inv) : Keeps (execVst v a b k s) :=
  State.vecExec_inv _ _ h
@[simp] theorem execVldx_inv (s : State) (d a b k e) (h : s.Inv) : Keeps (execVldx d a b k e s) :=
  State.vecExec_inv _ _ h
@[simp] theorem execVstx_inv (s : State) (v a b k e) (h : s.Inv) : Keeps (execVstx v a b k e s) :=
  State.vecExec_inv _ _ h
@[simp] theorem execRaytri_inv (s : State) (d a b k) (h : s.Inv) : Keeps (execRaytri d a b k s) :=
  State.vecExec_inv _ _ h
@[simp] theorem execRaybox_inv (s : State) (d a b k) (h : s.Inv) : Keeps (execRaybox d a b k s) :=
  State.vecExec_inv _ _ h
@[simp] theorem execAttr_inv (s : State) (d a b) (h : s.Inv) : Keeps (execAttr d a b s) :=
  State.vecExec_inv _ _ h
@[simp] theorem execPxout_inv (s : State) (d a b) (h : s.Inv) : Keeps (execPxout d a b s) :=
  State.vecExec_inv _ _ h
@[simp] theorem execVksend_inv (s : State) (a b k) (h : s.Inv) : Keeps (execVksend a b k s) :=
  State.vecExec_inv _ _ h
@[simp] theorem execVfence_inv (s : State) (h : s.Inv) : Keeps (execVfence s) := by
  simp [execVfence, State.Inv, h]
@[simp] theorem execCVfence_inv (s : State) (h : s.Inv) : Keeps (execCVfence s) := by
  simp [execCVfence, State.Inv, h]
@[simp] theorem State.putKey_mem (s : State) (core u) : (s.putKey core u).mem = s.mem := by
  simp [State.putKey]
@[simp] theorem State.sendKey_inv (s : State) (core part krb0 u) (h : s.Inv) : Ensures (s.sendKey core part krb0 u) State.Inv := by
  simp only [State.sendKey]
  (repeat' split) <;> simp [State.Inv, h]
@[simp] theorem State.vkLanes_inv (s : State) (w a b l) (h : s.Inv) : (s.vkLanes w a b l).Inv := by
  induction l generalizing s with
  | nil => exact h
  | cons i t ih =>
    simp only [State.vkLanes]
    split
    · rename_i hr
      exact ih _ (by simpa [State.Inv] using State.sendKey_inv _ _ _ _ _ h _ hr)
    · exact ih _ (by simpa [State.Inv] using h)
    · exact ih _ h
@[simp] theorem State.vkEffect_inv (s : State) (w a b m) (h : s.Inv) : Ensures (s.vkEffect w a b m) State.Inv := by
  simp [State.vkEffect, State.Inv, h]
@[simp] theorem State.vecDo_inv (s : State) (w) (h : s.Inv) : Ensures (s.vecDo w) State.Inv := by
  simp only [State.vecDo]
  (repeat' split) <;> simp [State.Inv, h]
@[simp] theorem State.deferFault_mem (s : State) (k pc c) : (s.deferFault k pc c).mem = s.mem := by
  simp [State.deferFault]
@[simp] theorem execVectorWordPerform_inv (s : State) (core) (h : s.Inv) : Keeps (execVectorWordPerform core s) := by
  simp only [execVectorWordPerform]
  split
  · exact h
  · split
    · exact h
    · split
      · rename_i hr
        simpa [State.Inv] using State.vecDo_inv _ _ (by simpa [State.Inv] using h) _ hr
      all_goals simp [State.Inv, State.escapeHeat_inv, h]
@[simp] theorem execDeferredTrap_inv (s : State) (key) (h : s.Inv) : Keeps (execDeferredTrap key s) := by
  simp only [execDeferredTrap]
  (repeat' split) <;> simp [State.Inv, h]

end Sys2Proof.Machine
end

section
/-! ### The matrix unit (Machine/Matrix) -/

namespace Sys2Proof.Machine

@[simp] theorem State.mqPush_inv (s : State) (k pc i x y) (h : s.Inv) : Ensures (s.mqPush k pc i x y) State.Inv := by
  simp [State.mqPush, State.Inv, h]
@[simp] theorem State.matIssue_inv (s : State) (k pc i x y) (h : s.Inv) : Ensures (s.matIssue k pc i x y) State.Inv := by
  simp only [State.matIssue]
  (repeat' split) <;> simp [State.Inv, h]
@[simp] theorem State.matExec_inv (s : State) (i) (h : s.Inv) : Keeps (s.matExec i) := by
  simp [State.matExec, State.Inv, h]
@[simp] theorem execMclaim_inv (s : State) (d a) (h : s.Inv) : Keeps (execMclaim d a s) :=
  State.matExec_inv _ _ h
@[simp] theorem execMrel_inv (s : State) (a) (h : s.Inv) : Keeps (execMrel a s) :=
  State.matExec_inv _ _ h
@[simp] theorem execMload_inv (s : State) (a b f) (h : s.Inv) : Keeps (execMload a b f s) :=
  State.matExec_inv _ _ h
@[simp] theorem execMma_inv (s : State) (b) (h : s.Inv) : Keeps (execMma b s) :=
  State.matExec_inv _ _ h
@[simp] theorem execMmaR_inv (s : State) (a b) (h : s.Inv) : Keeps (execMmaR a b s) :=
  State.matExec_inv _ _ h
@[simp] theorem execMdrain_inv (s : State) (a sat b) (h : s.Inv) : Keeps (execMdrain a sat b s) :=
  State.matExec_inv _ _ h
@[simp] theorem execMzero_inv (s : State) (a) (h : s.Inv) : Keeps (execMzero a s) :=
  State.matExec_inv _ _ h
@[simp] theorem execMgrant_inv (s : State) (d a b) (h : s.Inv) : Keeps (execMgrant d a b s) :=
  State.matExec_inv _ _ h
@[simp] theorem execMstat_inv (s : State) (d a w) (h : s.Inv) : Keeps (execMstat d a w s) :=
  State.matExec_inv _ _ h
@[simp] theorem State.mqFlags_mem (s : State) (op f) : (s.mqFlags op f).mem = s.mem := by
  simp [State.mqFlags]
@[simp] theorem State.mload_mem (s : State) (cell op fmt slot n r) : (s.mload cell op fmt slot n r).1.mem = s.mem := by
  induction n generalizing s r with
  | zero => rfl
  | succ n ih =>
    simp only [State.mload]
    split
    · rfl
    · rw [ih]
      split <;> simp
@[simp] theorem State.drainWrite_inv (s : State) (op u sh g sat l) (h : s.Inv) :
    Ensures (s.drainWrite op u sh g sat l) (fun r => r.1.Inv) := by
  induction l generalizing s with
  | nil => simpa [State.drainWrite, State.Inv] using h
  | cons c t ih =>
    exact .bind_of_forall fun q => .bind_of (writePlace_ensures _ _ _ _ _ h) fun u hu => .bind_of (ih u hu) fun r hr =>
      by simpa [State.Inv] using hr
@[simp] theorem State.mdrain_inv (s : State) (cell op sat) (h : s.Inv) : Ensures (s.mdrain cell op sat) State.Inv := by
  unfold State.mdrain
  extract_lets sh chk part g rest
  have hrest : ∀ u, Ensures (rest u) State.Inv := by
    refine fun u => .bind_of (s.drainWrite_inv _ _ _ _ _ _ h) fun r hr => ?_
    dsimp only
    split
    · exact post_ensures _ _ _ _ _ _ (by simpa [State.Inv] using hr)
    · simpa [State.Inv] using hr
  split
  · split
    · exact ensures_error _ _
    · exact hrest ()
  · exact hrest ()
@[simp] theorem State.mma_inv (s : State) (cell op b) (h : s.Inv) : Ensures (s.mma cell op b) State.Inv := by
  simp [State.mma, State.Inv, h]
@[simp] theorem State.mqPop_mem (s : State) (cell) : (s.mqPop cell).mem = s.mem := by
  simp [State.mqPop]
@[simp] theorem State.mqEffect_inv (s : State) (cell op) (h : s.Inv) : (s.mqEffect cell op).1.Inv := by
  simp only [State.mqEffect]
  split
  · simpa [State.Inv] using h
  · simpa [State.Inv] using h
  · split
    · exact State.mma_inv _ _ _ _ h _ ‹_›
    · exact h
  · split
    · exact State.mdrain_inv _ _ _ _ h _ ‹_›
    · exact h
  · simpa [State.Inv] using h
  · exact h
@[simp] theorem State.mqRemote_inv (s : State) (cell op part b) (h : s.Inv) : (s.mqRemote cell op part b).1.Inv := by
  simp only [State.mqRemote]
  split
  · simpa [State.Inv] using h
  · split
    · exact h
    · have ht := s.mma_inv _ _ _ h _ ‹_›
      split
      · exact ht
      · split
        · exact post_ensures _ _ _ _ _ _ ht _ ‹_›
        · simpa [State.Inv] using ht
        · exact h
@[simp] theorem State.mqFault_mem (s : State) (cell op c) : (s.mqFault cell op c).mem = s.mem := by
  simp [State.mqFault]
@[simp] theorem execMqOperationPerform_inv (s : State) (cell) (h : s.Inv) : Keeps (execMqOperationPerform cell s) := by
  simp only [execMqOperationPerform]
  split
  · exact h
  · rename_i op _ _
    split
    · exact h
    · split <;> rename_i hr
      all_goals
        have ht := inv_of_fst hr (by split <;> simp [State.Inv, h])
        simp [State.Inv, State.escapeHeat_inv, h, ht]
@[simp] theorem State.remoteTake_inv (s : State) (cell op) (h : s.Inv) : OnSome (s.remoteTake cell op) State.Inv := by
  simp [State.remoteTake, State.Inv, h]
@[simp] theorem execRemoteMmaArrival_inv (s : State) (cell) (h : s.Inv) : Keeps (execRemoteMmaArrival cell s) := by
  simp only [execRemoteMmaArrival]
  (repeat' split) <;> simp [State.Inv, h]

end Sys2Proof.Machine
end

section
/-! ### The copy channels (Machine/Copy) -/

namespace Sys2Proof.Machine

@[simp] theorem State.copyIssue_inv (s : State) (form d a b c) (h : s.Inv) : Ensures (s.copyIssue form d a b c) State.Inv := by
  simp [State.copyIssue, State.Inv, h]
@[simp] theorem execCpy_inv (s : State) (d a b c) (h : s.Inv) : Keeps (execCpy d a b c s) := by
  simp [execCpy, State.Inv, h]
@[simp] theorem execCpyt_inv (s : State) (d a b c) (h : s.Inv) : Keeps (execCpyt d a b c s) := by
  simp [execCpyt, State.Inv, h]
@[simp] theorem execCpyg_inv (s : State) (d a b c) (h : s.Inv) : Keeps (execCpyg d a b c s) := by
  simp [execCpyg, State.Inv, h]
@[simp] theorem State.putTags_mem (s : State) (dst l) : (s.putTags dst l).mem = s.mem := by
  simp only [State.putTags]
  (repeat' split) <;> simp -implicitDefEqProofs [foldl_mem]
@[simp] theorem State.copyPacket_mem (s : State) (core ch p len cls dir pl) : (s.copyPacket core ch p len cls dir pl).mem = s.mem := by
  simp [State.copyPacket]
@[simp] theorem State.copyFault_mem (s : State) (core ch cmd c) : (s.copyFault core ch cmd c).mem = s.mem := by
  simp [State.copyFault]
@[simp] theorem State.cmdSet_mem (s : State) (core ch f) : (s.cmdSet core ch f).mem = s.mem := by
  simp [State.cmdSet]
@[simp] theorem State.copyElems_inv (s : State) (cmd off n) (h : s.Inv) : Ensures (s.copyElems cmd off n) State.Inv := by
  induction n generalizing s off with
  | zero => simpa [State.copyElems, State.Inv] using h
  | succ n ih =>
    exact .bind_of_forall fun _ => .bind_of_forall fun _ =>
      .bind_of (writePlace_ensures _ _ _ _ _ (by simpa [State.Inv, afterReads_mem] using h)) fun u hu => ih u _ hu
@[simp] theorem State.copyPiece_inv (s : State) (core ch cmd) (h : s.Inv) : Ensures (s.copyPiece core ch cmd) State.Inv := by
  unfold State.copyPiece
  extract_lets c dva spans meets from' rest
  have hrest : ∀ ends, Ensures (rest ends) State.Inv := by
    refine fun ends => .bind_of_forall fun d => .bind_of_forall fun _ => ?_
    dsimp only
    split
    · exact .bind_of_forall fun r => .bind_of_forall fun _ => by simpa [State.Inv, afterReads_mem] using h
    · split
      · exact .bind_of_forall fun r => .bind_of (writePlace_ensures _ _ _ _ _ (by simpa [State.Inv, afterReads_mem] using h)) fun u hu =>
          by simpa [State.Inv] using hu
      · exact .bind_of (State.copyElems_inv _ _ _ _ h) fun u hu => by simpa [State.Inv] using hu
  split
  · exact hrest _
  · exact .bind_of_forall fun _ => .bind_of_forall fun _ => hrest _
@[simp] theorem State.baton_inv (s : State) (core ch cmd) (h : s.Inv) : Ensures (s.baton core ch cmd) State.Inv := by
  simp [State.baton, State.Inv, h]
@[simp] theorem State.copyPost_inv (s : State) (core ch cmd) (h : s.Inv) : Ensures (s.copyPost core ch cmd) State.Inv := by
  simp [State.copyPost, State.Inv, h]
@[simp] theorem State.copyDone_mem (s : State) (core ch cmd) : (s.copyDone core ch cmd).mem = s.mem := by
  simp [State.copyDone]
@[simp] theorem State.copyEnd_inv (s : State) (core ch cmd) (h : s.Inv) : Ensures (s.copyEnd core ch cmd) State.Inv := by
  simp only [State.copyEnd]
  (repeat' split) <;> simp [State.Inv, h]
@[simp] theorem State.copyMail_inv (s : State) (core ch cmd) (h : s.Inv) : Ensures (s.copyMail core ch cmd) State.Inv := by
  refine .bind_of_forall fun _ => .bind_of_forall fun _ => .bind_of_forall fun r => ?_
  dsimp only
  split
  · split
    · exact .bind_of_forall fun _ => by simpa [State.Inv, afterReads_mem] using h
    · simpa [State.Inv, afterReads_mem] using h
  · simpa [State.Inv, afterReads_mem] using h
@[simp] theorem State.copyStep_inv (s : State) (core ch cmd) (h : s.Inv) : Ensures (s.copyStep core ch cmd) State.Inv := by
  simp [State.copyStep, State.Inv, h]
@[simp] theorem execCopyPerform_inv (s : State) (core ch) (h : s.Inv) : Keeps (execCopyPerform core ch s) := by
  simp only [execCopyPerform]
  split
  · exact h
  · split
    · exact h
    · split
      · exact State.copyStep_inv _ _ _ _ h _ ‹_›
      all_goals simp [State.Inv, State.escapeHeat_inv, h]
@[simp] theorem execSeqw_inv (s : State) (d a b) (h : s.Inv) : Keeps (execSeqw d a b s) :=
  keeps_out _ _ h (.bind_of_forall fun _ => .bind_of_forall fun _ => .bind_of_forall fun _ => .bind_of_forall fun _ => .bind_of_forall fun _ =>
    .bind_of (s.counterRead_inv _ _ h) fun r hr => .bind_of_forall fun _ => by simpa [State.Inv] using hr)
@[simp] theorem execSeqrel_inv (s : State) (a b) (h : s.Inv) : Keeps (execSeqrel a b s) := by
  refine keeps_out _ _ h (.bind_of_forall fun _ => .bind_of_forall fun _ => .bind_of_forall fun _ => .bind_of_forall fun _ =>
    .bind_of (s.counterRead_inv _ _ h) fun r hr => .bind_of_forall fun _ => ?_)
  dsimp only
  split
  · exact .bind_of (counterAdd_ensures _ _ _ _ _ hr) fun u hu => by simpa [State.Inv] using hu
  · simpa [State.Inv] using hr

end Sys2Proof.Machine
end

section
/-! ### The repetition sequencer (Machine/Seq) -/

namespace Sys2Proof.Machine

@[simp] theorem execRepb_inv (s : State) (n) (h : s.Inv) : Keeps (execRepb n s) := by
  have he : (s.setCx { s.cx with rep := [] }).Inv := by simpa [State.Inv] using h
  simp only [execRepb]
  split
  · simpa [State.Inv] using h
  · split
    · exact keeps_out _ _ he (ensures_error _ _)
    · split
      · split
        · exact keeps_out _ _ he (ensures_error _ _)
        · exact keeps_out _ _ h (ensures_error _ _)
      · split
        · simpa [State.Inv] using h
        · exact keeps_out _ _ he (ensures_error _ _)
@[simp] theorem execRepgo_inv (s : State) (a) (h : s.Inv) : Keeps (execRepgo a s) := by
  simp [execRepgo, State.Inv, h]
@[simp] theorem State.seqRead_inv (s : State) (k f) (h : s.Inv) : OnSome (s.seqRead k f) (fun r => r.2.Inv) := by
  simp only [State.seqRead]
  (repeat' split) <;> simp [State.Inv, h]
@[simp] theorem State.seqWord_inv (s : State) (k pc i) (h : s.Inv) : OnSome (s.seqWord k pc i) (fun r => Ensures r State.Inv) := by
  simp only [State.seqWord]
  split
  · split <;> simp [State.Inv, h]
  · split
    · simp
    · split
      · simp
      · intro r hr
        obtain ⟨p, hp, hr⟩ := Option.bind_eq_some_iff.1 hr
        obtain ⟨q, hq, hr⟩ := Option.bind_eq_some_iff.1 hr
        have hi : q.2.Inv := State.seqRead_inv _ _ _ (State.seqRead_inv _ _ _ h p hp) q hq
        cases hr
        split
        · exact q.2.vecPush_inv _ _ _ _ _ _ hi
        · exact q.2.matIssue_inv _ _ _ _ _ hi
@[simp] theorem execRepetitionSequencerIssue_inv (s : State) (key) (h : s.Inv) : Keeps (execRepetitionSequencerIssue key s) := by
  simp only [execRepetitionSequencerIssue]
  split
  · exact h
  · split
    · simpa [State.Inv] using h
    · split
      · exact h
      · split
        · simpa [State.Inv] using h
        · split
          · exact h
          · simpa [State.Inv] using State.seqWord_inv _ _ _ _ h _ ‹_› _ rfl
          all_goals simp [State.Inv, State.escapeHeat_inv, h]

end Sys2Proof.Machine
end

section
/-! ### Edge programs and keys (Machine/Edge) -/

namespace Sys2Proof.Machine

@[simp] theorem execKrbin_inv (s : State) (a b) (h : s.Inv) : Keeps (execKrbin a b s) := by
  simp [execKrbin, State.Inv, h]
@[simp] theorem State.unitWrite_inv (s : State) (core a b) (h : s.Inv) : Ensures (s.unitWrite core a b) State.Inv := by
  simp [State.unitWrite, State.Inv, h]
@[simp] theorem State.seqPut_inv (s : State) (core a n v) (h : s.Inv) : Ensures (s.seqPut core a n v) State.Inv := by
  simp [State.seqPut, State.Inv, h]
@[simp] theorem State.edgeAdd_inv (s : State) (p off n) (h : s.Inv) : Ensures (s.edgeAdd p off n) State.Inv := by
  simp [State.edgeAdd, State.Inv, h]
@[simp] theorem State.edgePost_inv (s : State) (p off) (h : s.Inv) : Ensures (s.edgePost p off) State.Inv := by
  simp only [State.edgePost]
  (repeat' split) <;> simp [State.Inv, h]
@[simp] theorem State.edgeStop_mem (s : State) (cell fin) : (s.edgeStop cell fin).mem = s.mem := by
  simp [State.edgeStop]
@[simp] theorem State.edgeAbort_inv (s : State) (cell p c) (h : s.Inv) : OnSome (s.edgeAbort cell p c) State.Inv := by
  have hp : Ensures (s.edgePost p 8 >>= fun t => t.edgePost p 0) State.Inv :=
    .bind_of (State.edgePost_inv _ _ _ h) fun t ht => State.edgePost_inv _ _ _ ht
  simp only [State.edgeAbort]
  split
  · exact onSome_none _
  · simpa [State.Inv] using hp _ ‹_›
@[simp] theorem State.keyReport_inv (s : State) (u c) (h : s.Inv) : OnSome (s.keyReport u c) State.Inv := by
  simp only [State.keyReport]
  (repeat' split) <;> simp [State.Inv, h]
@[simp] theorem execKeyUpdateApply_inv (s : State) (core) (h : s.Inv) : Keeps (execKeyUpdateApply core s) := by
  simp only [execKeyUpdateApply]
  split
  · exact h
  · split
    · exact h
    · split
      · simp [State.Inv, h]
      · split
        · simp [State.Inv, h]
        · split
          · rename_i hw
            refine State.unitWrite_inv _ _ _ _ ?_ _ hw
            simpa [State.Inv] using h
          · simp [State.Inv, h]
@[simp] theorem execEdge_inv (s : State) (h : s.Inv) : Keeps (execEdge s) := by
  simp [execEdge, State.Inv, h]
@[simp] theorem execEmode_inv (s : State) (d a) (h : s.Inv) : Keeps (execEmode d a s) := by
  simp [execEmode, State.Inv, h]
@[simp] theorem State.edgeDo_inv (s : State) (cell p) (r : Except Stop State) (h : s.Inv) (hr : Ensures r State.Inv) : (s.edgeDo cell p r).Inv := by
  simp only [State.edgeDo]
  split
  · exact hr _ rfl
  · simp [State.Inv, h]
  · exact h
@[simp] theorem execEdgeProgramStart_inv (s : State) (cell) (h : s.Inv) : Keeps (execEdgeProgramStart cell s) := by
  simp only [execEdgeProgramStart]
  (repeat' split) <;> simp [State.Inv, h]
@[simp] theorem State.vertexTouch_mem (s : State) (p addr n l) : (s.vertexTouch p addr n l).mem = s.mem :=
  foldl_mem _ (fun t v => by split <;> simp) _ _
@[simp] theorem State.edgeSend_inv (s : State) (cell p x l) (h : s.Inv) : (s.edgeSend cell p x l).Inv := by
  induction l generalizing s with
  | nil => exact h
  | cons i t ih =>
    simp only [State.edgeSend]
    split
    · exact ih _ (State.sendKey_inv _ _ _ _ _ h _ ‹_›)
    · exact ih _ (by simpa [State.Inv] using h)
    · exact ih _ h
@[simp] theorem State.edgeKeep_mem (s : State) (cell q) : (s.edgeKeep cell q).mem = s.mem := by
  simp [State.edgeKeep]
@[simp] theorem State.pushBatch_inv (s : State) (cell r level) (h : s.Inv) : Ensures (s.pushBatch cell r level) State.Inv := by
  simp [State.pushBatch, State.Inv, h]
@[simp] theorem State.pullCombine_inv (s : State) (core r level w value x l) (h : s.Inv) :
    Ensures (s.pullCombine core r level w value x l) (fun q => q.1.Inv) := by
  induction l generalizing s with
  | nil => simpa [State.pullCombine, State.Inv] using h
  | cons i t ih =>
    refine .bind_of_forall fun bin => .bind_of (State.seqPut_inv _ _ _ _ _ (by simpa [State.Inv] using h)) fun u hu => .bind_of_forall fun fin => ?_
    split
    · simpa [State.Inv] using hu
    · exact ih u hu
@[simp] theorem State.pullBatch_inv (s : State) (cell r level) (h : s.Inv) : Ensures (s.pullBatch cell r level) State.Inv := by
  simp [State.pullBatch, State.Inv, h]
@[simp] theorem State.edgeBatch_inv (s : State) (cell mode) (h : s.Inv) : (s.edgeBatch cell mode).Inv := by
  simp only [State.edgeBatch]
  (repeat' split) <;> simp [State.Inv, h]
@[simp] theorem execEdgePushBatch_inv (s : State) (cell) (h : s.Inv) : Keeps (execEdgePushBatch cell s) := by
  simp [execEdgePushBatch, State.Inv, h]
@[simp] theorem execEdgePullBatch_inv (s : State) (cell) (h : s.Inv) : Keeps (execEdgePullBatch cell s) := by
  simp [execEdgePullBatch, State.Inv, h]
@[simp] theorem State.applyBins_inv (s : State) (cell r n w next nf mf) (h : s.Inv) :
    Ensures (s.applyBins cell r n w next nf mf) (fun q => q.1.Inv) := by
  induction n generalizing s w next nf mf with
  | zero => simpa [State.applyBins, State.Inv] using h
  | succ n ih =>
    simp only [State.applyBins]
    split
    · exact ih _ _ _ _ _ h
    · refine .bind_of_forall fun bin => ?_
      split
      · exact ih _ _ _ _ _ (by simpa [State.Inv] using h)
      · refine .bind_of_forall fun val => .bind_of (State.seqPut_inv _ _ _ _ _ (by simpa [State.Inv] using h)) fun u hu => ?_
        split
        · exact ih _ _ _ _ _ hu
        · exact .bind_of (State.seqPut_inv _ _ _ _ _ hu) fun v hv => .bind_of_forall fun _ => .bind_of_forall fun _ => ih _ _ _ _ _ hv
@[simp] theorem State.writeNext_inv (s : State) (cell r base next n i) (h : s.Inv) : Ensures (s.writeNext cell r base next n i) State.Inv := by
  induction n generalizing s i with
  | zero => simpa [State.writeNext, State.Inv] using h
  | succ n ih =>
    simp only [State.writeNext]
    split
    · exact ih _ _ h
    · exact .bind_of_forall fun q => .bind_of (writePlace_ensures _ _ _ _ _ h) fun u hu => ih u _ hu
@[simp] theorem State.edgeAdds_inv (s : State) (p l) (h : s.Inv) : Ensures (s.edgeAdds p l) State.Inv := by
  induction l generalizing s with
  | nil => simpa [State.edgeAdds, State.Inv] using h
  | cons e t ih => exact .bind_of (State.edgeAdd_inv _ _ _ _ h) fun u hu => ih u hu
@[simp] theorem State.levelApply_inv (s : State) (cell r sw) (h : s.Inv) : Ensures (s.levelApply cell r sw) State.Inv :=
  .bind_of (State.applyBins_inv _ _ _ _ _ _ _ _ h) fun _ hq => .bind_of (State.writeNext_inv _ _ _ _ _ _ _ hq) fun _ hu =>
    .bind_of (State.edgeAdds_inv _ _ _ hu) fun _ hv => by simpa [State.Inv] using hv
@[simp] theorem State.levelNext_inv (s : State) (cell r sw) (h : s.Inv) : Ensures (s.levelNext cell r sw) State.Inv := by
  simp [State.levelNext, State.Inv, h]
@[simp] theorem State.levelEnd_inv (s : State) (cell r sw) (h : s.Inv) : Ensures (s.levelEnd cell r sw) State.Inv := by
  simp only [State.levelEnd]
  split
  · split <;> simp [State.Inv, h]
  · refine .bind_of_forall fun o => ?_
    split <;> simp [State.Inv, h]
  · refine .bind_of_forall fun o => ?_
    split <;> simp [State.Inv, h]
@[simp] theorem execEdgeLevelEnd_inv (s : State) (cell) (h : s.Inv) : Keeps (execEdgeLevelEnd cell s) := by
  simp only [execEdgeLevelEnd]
  (repeat' split) <;> simp [State.Inv, h]

end Sys2Proof.Machine
end

section
/-! ### Exchange routines (Machine/Exchange) -/

namespace Sys2Proof.Machine

@[simp] theorem execXmit_inv (s : State) (a b l) (h : s.Inv) : Keeps (execXmit a b l s) := by
  simp [execXmit, State.Inv, h]
@[simp] theorem execXsel_inv (s : State) (d a b l) (h : s.Inv) : Keeps (execXsel d a b l s) := by
  simp [execXsel, State.Inv, h]
@[simp] theorem execXmitPlacement_inv (s : State) (core) (h : s.Inv) : Keeps (execXmitPlacement core s) := by
  simp only [execXmitPlacement]
  (repeat' split) <;> simp [State.Inv, h]
@[simp] theorem execXselCapture_inv (s : State) (core) (h : s.Inv) : Keeps (execXselCapture core s) := by
  simp only [execXselCapture]
  (repeat' split) <;> simp [State.Inv, h]

end Sys2Proof.Machine
end

section
/-! ### The carousel (Machine/Carousel) -/

namespace Sys2Proof.Machine

@[simp] theorem State.settleSubs_mem (s : State) (core) : (s.settleSubs core).mem = s.mem := by
  simp [State.settleSubs]
@[simp] theorem State.setSub_mem (s : State) (core e b) : (s.setSub core e b).mem = s.mem := by
  simp [State.setSub]
@[simp] theorem State.carDone_mem (s : State) (core e w) : (s.carDone core e w).mem = s.mem := by
  simp [State.carDone]
@[simp] theorem State.freeSub_mem (s : State) (core e gone) : (s.freeSub core e gone).mem = s.mem := by
  simp only [State.freeSub]
  (repeat' split) <;> simp
@[simp] theorem State.carTouch_mem (s : State) (va d) : (s.carTouch va d).mem = s.mem := by
  simp only [State.carTouch]
  (repeat' split) <;> simp -implicitDefEqProofs [foldl_mem]
@[simp] theorem State.goneSubs_mem (s : State) (n core) : (s.goneSubs n core).mem = s.mem := by
  simp -implicitDefEqProofs [State.goneSubs, foldl_mem]
@[simp] theorem State.carTake_mem (s : State) (part d) : (s.carTake part d).mem = s.mem := by
  simp -implicitDefEqProofs [State.carTake, foldl_mem]
@[simp] theorem State.setCar_mem (s : State) (part c) : (s.setCar part c).mem = s.mem := by
  simp [State.setCar]
@[simp] theorem State.carSkip_mem (s : State) (d) : (s.carSkip d).mem = s.mem := by
  simp [State.carSkip]
@[simp] theorem execCardef_inv (s : State) (d a) (h : s.Inv) : Keeps (execCardef d a s) := by
  refine keeps_out _ _ h (.bind_of_forall fun _ => .bind_of_forall fun _ => .bind_of_forall fun _ => ?_)
  split
  · simp [State.Inv, h]
  · refine .bind_of_forall fun _ => ?_
    dsimp only
    split
    · simp [State.Inv, h]
    · refine .bind_of_forall fun _ => .bind_of_forall fun r => ?_
      split <;> simp [State.Inv, h]
@[simp] theorem execCarsub_inv (s : State) (d a b) (h : s.Inv) : Keeps (execCarsub d a b s) := by
  refine keeps_out _ _ h (.bind_of_forall fun _ => .bind_of_forall fun _ => .bind_of_forall fun _ => .bind_of_forall fun _ => ?_)
  split
  · simp [State.Inv, h]
  · refine .bind_of_forall fun _ => .bind_of_forall fun mask => ?_
    dsimp only
    split <;> simp [State.Inv, h]
@[simp] theorem execCardrop_inv (s : State) (d a) (h : s.Inv) : Keeps (execCardrop d a s) := by
  simp only [execCardrop]
  (repeat' split) <;> simp [State.Inv, h]
@[simp] theorem execCarskip_inv (s : State) (d a) (h : s.Inv) : Keeps (execCarskip d a s) := by
  simp [execCarskip, State.Inv, h]
@[simp] theorem execCarprom_inv (s : State) (d a) (h : s.Inv) : Keeps (execCarprom d a s) := by
  simp [execCarprom, State.Inv, h]
@[simp] theorem execCarwait_inv (s : State) (d a b) (h : s.Inv) : Keeps (execCarwait d a b s) := by
  simp only [execCarwait]
  (repeat' split) <;> simp [State.Inv, h]
@[simp] theorem execCarpos_inv (s : State) (d a b) (h : s.Inv) : Keeps (execCarpos d a b s) := by
  simp [execCarpos, State.Inv, h]
@[simp] theorem State.rollReset_mem (s : State) (part) : (s.rollReset part).mem = s.mem := by
  simp -implicitDefEqProofs [State.rollReset, foldl_mem]
@[simp] theorem State.rollCell_mem (s : State) (cell) : (s.rollCell cell).mem = s.mem := by
  simp [State.rollCell]
@[simp] theorem State.lapStart_mem (s : State) (part) : (s.lapStart part).mem = s.mem := by
  simp -implicitDefEqProofs [State.lapStart, foldl_mem]
@[simp] theorem State.nextPass_mem (s : State) (part) : (s.nextPass part).mem = s.mem := by
  simp only [State.nextPass]
  (repeat' split) <;> simp
@[simp] theorem State.beatRead_inv (s : State) (part va) (h : s.Inv) : Ensures (s.beatRead part va) (fun r => r.1.Inv) := by
  simp only [State.beatRead]
  (repeat' split) <;> simp [State.Inv, h]
@[simp] theorem State.beats_inv (s : State) (part d b n i) (h : s.Inv) : (s.beats part d b n i).1.Inv := by
  induction n generalizing s i with
  | zero => exact h
  | succ n ih =>
    simp only [State.beats]
    split
    · exact h
    · split
      · exact ih _ _ h
      · split
        · exact ih _ _ (State.beatRead_inv _ _ _ h _ ‹_›)
        · refine ih _ _ ?_
          split
          · exact h
          · simpa [State.Inv] using h
@[simp] theorem State.feed_mem (s : State) (part die bs) : (s.feed part die bs).mem = s.mem := by
  simp -implicitDefEqProofs [State.feed, foldl_mem]
@[simp] theorem State.sendBeats_mem (s : State) (src dst n bs) : (s.sendBeats src dst n bs).mem = s.mem := by
  induction n generalizing s bs with
  | zero => simp [State.sendBeats]
  | succ n ih =>
    cases bs with
    | nil => simp [State.sendBeats]
    | cons b t => simp [State.sendBeats, ih]
@[simp] theorem State.sendGroup_inv (s : State) (part d cur) (h : s.Inv) : (s.sendGroup part d cur).Inv := by
  simp -implicitDefEqProofs [State.sendGroup, State.Inv, foldl_mem, h]
@[simp] theorem execCarouselGroupSend_inv (s : State) (part) (h : s.Inv) : Keeps (execCarouselGroupSend part s) := by
  simp only [execCarouselGroupSend]
  (repeat' split) <;> simp [State.Inv, h]
@[simp] theorem execRelayGroupArrival_inv (s : State) (die) (h : s.Inv) : Keeps (execRelayGroupArrival die s) := by
  simp only [execRelayGroupArrival]
  (repeat' split) <;> simp [State.Inv, h]
@[simp] theorem State.rollCall_mem (s : State) (p) : (s.rollCall p).mem = s.mem := by
  simp -implicitDefEqProofs [State.rollCall, foldl_mem]
@[simp] theorem execLapCut_inv (s : State) (part) (h : s.Inv) : Keeps (execLapCut part s) := by
  simp only [execLapCut]
  (repeat' split) <;> simp [State.Inv, h]
@[simp] theorem State.sortCand_inv (s : State) (part cell) (h : s.Inv) : (s.sortCand part cell).Inv := by
  refine foldl_inv _ (fun t e ht => ?_) _ _ h
  split
  · simpa [State.Inv] using ht
  · split
    · rename_i hw
      refine State.unitWrite_inv _ _ _ _ ?_ _ hw
      simpa [State.Inv] using ht
    · simpa [State.Inv] using ht
@[simp] theorem execLapEnd_inv (s : State) (part) (h : s.Inv) : Keeps (execLapEnd part s) := by
  unfold execLapEnd
  extract_lets p c rcl c' s0
  split
  · exact h
  · rename_i d _
    split
    · exact h
    · have h0 : s0.Inv := by simpa [s0, State.Inv] using h
      have hp : Ensures (if d.lapctr = 0 then .ok s0 else s0.post ((p.cells.headD 0) * 4) part false d.lapctr 1) State.Inv := by
        simp [State.Inv, h0]
      split
      · exact h
      · extract_lets s1 s2
        have h1 : s1.Inv := by
          simp only [s1]
          split
          · exact hp _ ‹_›
          · simpa [State.Inv] using h0
          · exact h0
        have h2 : s2.Inv := State.asOwner_inv _ _ _ h1 fun t ht => foldl_inv _ (fun u x hu =>
          State.sortCand_inv _ _ _ (by simpa [State.Inv] using hu)) _ _ ht
        split
        · exact h2
        · simpa [State.Inv] using h2
@[simp] theorem execReinstatement_inv (s : State) (part seg) (h : s.Inv) : Keeps (execReinstatement part seg s) := by
  simp [execReinstatement, State.Inv, h]
@[simp] theorem State.catchHead_inv (s : State) (core e h1 b) (h : s.Inv) : Ensures (s.catchHead core e h1 b) State.Inv := by
  simp only [State.catchHead]
  (repeat' split) <;> simp [State.Inv, h]
@[simp] theorem State.eachEntry_inv (f : State → Nat → Nat → Sub → Except CatchErr State) (s : State) (l) (h : s.Inv)
    (hf : ∀ t core e b, t.Inv → Ensures (f t core e b) State.Inv) : Ensures (State.eachEntry f s l) State.Inv := by
  induction l generalizing s with
  | nil => simpa [State.eachEntry, State.Inv] using h
  | cons e t ih =>
    simp only [State.eachEntry]
    split
    · exact ih _ h
    · split
      · exact ensures_error _ _
      · exact ih _ (hf _ _ _ _ h _ ‹_›)
@[simp] theorem State.catchFault_mem (s : State) (cell x2) : (s.catchFault cell x2).mem = s.mem := by
  simp only [State.catchFault]
  (repeat' split) <;> simp
@[simp] theorem State.settleCell_mem (s : State) (cell) : (s.settleCell cell).mem = s.mem := by
  simp [State.settleCell]
@[simp] theorem execPassHeaderArrival_inv (s : State) (cell) (h : s.Inv) : Keeps (execPassHeaderArrival cell s) := by
  unfold execPassHeaderArrival
  extract_lets u
  split
  · exact h
  · rename_i b t _
    split
    · exact h
    · extract_lets s0 s1 s2 u0 s3 l
      have h0 : s0.Inv := by simpa [s0, State.Inv] using h
      have h3 : s3.Inv := by
        have h2 : s2.mem = s0.mem := by simp [s2, s1]
        simpa [s3, State.Inv, h2] using h0
      split
      · exact h0
      · split
        · exact h
        · split
          · exact State.eachEntry_inv _ _ _ h3 (fun t core e b ht => State.catchHead_inv _ _ _ _ _ ht) _ ‹_›
          · simp [State.Inv, h]
@[simp] theorem State.commitKey_inv (s : State) (core b i key) (h : s.Inv) : Ensures (s.commitKey core b i key) State.Inv := by
  simp [State.commitKey, State.Inv, h]
@[simp] theorem State.walkPrim_inv (s : State) (core b h1 payload i ray p) (h : s.Inv) :
    Ensures (s.walkPrim core b h1 payload i ray p) State.Inv := by
  simp only [State.walkPrim]
  (repeat' split) <;> simp [State.Inv, h]
@[simp] theorem State.walkPrims_inv (s : State) (core b g payload i ray l) (h : s.Inv) :
    Ensures (s.walkPrims core b g payload i ray l) State.Inv := by
  induction l generalizing s with
  | nil => simpa [State.walkPrims, State.Inv] using h
  | cons p t ih =>
    simp only [State.walkPrims]
    split
    · exact ensures_error _ _
    · exact ih _ (State.walkPrim_inv _ _ _ _ _ _ _ _ h _ ‹_›)
@[simp] theorem State.walkTree_inv (s : State) (core b g payload i ray now n visits l) (h : s.Inv) :
    Ensures (s.walkTree core b g payload i ray now n visits l) (fun r => r.1.Inv) := by
  induction n generalizing s visits l with
  | zero => simpa [State.walkTree, State.Inv] using h
  | succ n ih =>
    match l with
    | [] => simpa [State.walkTree, State.Inv] using h
    | .node m :: t =>
      simp only [State.walkTree]
      split
      · simpa [State.Inv] using h
      · exact ih _ _ _ h
    | .child w box :: t =>
      simp only [State.walkTree]
      split
      · exact ih _ _ _ h
      · split
        · simpa [State.Inv] using h
        · split
          · exact ih _ _ _ h
          · split
            · exact ensures_error _ _
            · split
              · exact ih _ _ _ h
              · split
                · exact ih _ _ _ h
                · split
                  · simpa [State.Inv] using h
                  · split
                    · exact ensures_error _ _
                    · exact ih _ _ _ (State.walkPrims_inv _ _ _ _ _ _ _ _ h _ ‹_›)
@[simp] theorem State.walkRay_inv (s : State) (core b h1 payload j i) (h : s.Inv) :
    Ensures (s.walkRay core b h1 payload j i) (fun r => r.1.Inv) := by
  simp only [State.walkRay]
  (repeat' split) <;> simp [State.Inv, h]
@[simp] theorem State.walkRays_inv (s : State) (core b g payload j mal l) (h : s.Inv) :
    Ensures (s.walkRays core b g payload j mal l) (fun r => r.1.Inv) := by
  induction l generalizing s mal with
  | nil => simpa [State.walkRays, State.Inv] using h
  | cons i t ih =>
    simp only [State.walkRays]
    split
    · exact ensures_error _ _
    · exact ih _ _ (State.walkRay_inv _ _ _ _ _ _ _ h _ ‹_›)
@[simp] theorem State.catchPost_inv (s : State) (core e atEnd) (h : s.Inv) : Ensures (s.catchPost core e atEnd) State.Inv := by
  unfold State.catchPost
  split
  · simpa [State.Inv] using h
  · extract_lets due
    split
    · simpa [State.Inv] using h
    · split
      · exact ensures_error _ _
      · exact ensures_error _ _
      · simpa [State.Inv] using post_ensures _ _ _ _ _ _ h _ ‹_›
@[simp] theorem State.catchBeat_inv (s : State) (core e g payload j data tag b) (h : s.Inv) :
    Ensures (s.catchBeat core e g payload j data tag b) State.Inv := by
  simp only [State.catchBeat]
  split
  · simpa [State.Inv] using h
  · split
    · split
      · simpa [State.Inv] using h
      · split
        · exact ensures_error _ _
        · have hw := State.unitWrite_inv _ _ _ _ h _ ‹_›
          exact State.catchPost_inv _ _ _ _ (by simpa [State.Inv] using hw)
    · refine State.catchPost_inv _ _ _ _ ?_
      simp only [State.Inv, State.setSub_mem]
      split <;> simpa using h
    · split
      · simpa [State.Inv] using h
      · split
        · exact ensures_error _ _
        · have hw := State.walkRays_inv (if 64 ≤ j then s.bump 1 else s) _ _ _ _ _ _ _ (by simpa [State.Inv] using h) _ ‹_›
          simpa [State.Inv] using hw
@[simp] theorem State.catchEnd_inv (s : State) (core e b) (h : s.Inv) : Ensures (s.catchEnd core e b) State.Inv := by
  have hp : Ensures (if b.busy then .ok s else s.catchPost core e true) State.Inv := by simp [State.Inv, h]
  simp only [State.catchEnd]
  split
  · exact ensures_error _ _
  · simpa [State.Inv] using hp _ ‹_›
@[simp] theorem execPayloadBeatDelivery_inv (s : State) (cell) (h : s.Inv) : Keeps (execPayloadBeatDelivery cell s) := by
  unfold execPayloadBeatDelivery
  extract_lets u
  split
  · exact h
  · split
    · exact h
    · split
      · exact h
      · extract_lets s0 s1 l
        have h0 : s0.Inv := by simpa [s0, State.Inv] using h
        split
        · exact h0
        · split
          · exact h0
          · extract_lets payload r
            have h1 : s1.Inv := by simpa [s1, State.Inv] using h0
            have hr : Ensures r State.Inv := by
              refine (ensures_exceptBind _ _ _).2 (.mono (Q := State.Inv) ?_ fun t ht => ?_)
              · exact State.eachEntry_inv _ _ _ h1 fun t core e b ht => State.catchBeat_inv _ _ _ _ _ _ _ _ _ ht
              split
              · exact State.eachEntry_inv _ _ _ ht fun t core e b ht => State.catchEnd_inv _ _ _ _ ht
              · simpa [State.Inv] using ht
            clear_value r
            split
            · exact h
            · cases r with
              | error z => simp [State.Inv, h]
              | ok t => simpa [State.Inv] using hr

end Sys2Proof.Machine
end

section
/-! ### Ways (Machine/Ways) -/

namespace Sys2Proof.Machine

@[simp] theorem State.clearWay_mem (s : State) (core w) : (s.clearWay core w).mem = s.mem := by
  simp [State.clearWay]
@[simp] theorem State.waysDone_mem (s : State) (core new aff) : (s.waysDone core new aff).mem = s.mem := by
  simp -implicitDefEqProofs [State.waysDone, foldl_mem]
@[simp] theorem execWays_inv (s : State) (d m) (h : s.Inv) : Keeps (execWays d m s) := by
  simp [execWays, State.Inv, h]

end Sys2Proof.Machine
end

section
/-! ### Contexts, queues and stages (Machine/Execution) -/

namespace Sys2Proof.Machine

@[simp] theorem execSpawn_inv (s : State) (d a b) (h : s.Inv) : Keeps (execSpawn d a b s) := by
  simp [execSpawn, State.Inv, h]
@[simp] theorem execMbox_inv (s : State) (d a b) (h : s.Inv) : Keeps (execMbox d a b s) := by
  simp [execMbox, State.Inv, h]
@[simp] theorem execTid_inv (s : State) (d k) (h : s.Inv) : Keeps (execTid d k s) := by
  simp [execTid, State.Inv, h]
@[simp] theorem execYield_inv (s : State) (h : s.Inv) : Keeps (execYield s) := by
  simp [execYield, State.Inv, h]
@[simp] theorem execEnq_inv (s : State) (a b p) (h : s.Inv) : Keeps (execEnq a b p s) := by
  refine keeps_out _ _ h (.bind_of_forall fun _ => .bind_of_forall fun _ => .bind_of_forall fun _ => .bind_of_forall fun _ =>
    .bind_of_forall fun _ => ?_)
  split
  · simp [State.Inv, h]
  · refine .bind_of_forall fun _ => .bind_of_forall fun _ => ?_
    extract_lets part qi
    split
    · exact ensures_error _ _
    · split
      · exact ensures_error _ _
      · split
        · simp [State.Inv, h]
        · refine .bind_of_forall fun data => ?_
          extract_lets place
          split
          · exact ensures_error _ _
          · split
            · exact ensures_error _ _
            · simpa [State.Inv] using partStore_inv_of_eq h ‹_›
@[simp] theorem execDeq_inv (s : State) (d a p) (h : s.Inv) : Keeps (execDeq d a p s) := by
  simp only [execDeq]
  (repeat' split) <;> simp [State.Inv, h]
@[simp] theorem execQpush_inv (s : State) (a q) (h : s.Inv) : Keeps (execQpush a q s) := by
  simp [execQpush, State.Inv, h]
@[simp] theorem State.qpop_inv (s : State) (len d q) (h : s.Inv) : Ensures (s.qpop len d q) State.Inv := by
  simp [State.qpop, State.Inv, h]
@[simp] theorem execQpop_inv (s : State) (d q) (h : s.Inv) : Keeps (execQpop d q s) := by
  simp [execQpop, State.Inv, h]
@[simp] theorem execCQpop_inv (s : State) (d q) (h : s.Inv) : Keeps (execCQpop d q s) := by
  simp [execCQpop, State.Inv, h]
@[simp] theorem execQlevel_inv (s : State) (d q) (h : s.Inv) : Keeps (execQlevel d q s) := by
  simp [execQlevel, State.Inv, h]
@[simp] theorem execExt_inv (s : State) (a k) (h : s.Inv) : Keeps (execExt a k s) := by
  simp [execExt, State.Inv, h]
@[simp] theorem execExti_inv (s : State) (k i h1) (h : s.Inv) : Keeps (execExti k i h1 s) := by
  simp [execExti, State.Inv, h]
@[simp] theorem execExtrd_inv (s : State) (d k) (h : s.Inv) : Keeps (execExtrd d k s) := by
  simp [execExtrd, State.Inv, h]
@[simp] theorem execOutrng_inv (s : State) (a b) (h : s.Inv) : Keeps (execOutrng a b s) := by
  simp [execOutrng, State.Inv, h]
@[simp] theorem State.ctxBytes_inv (s : State) (k va n) (h : s.Inv) : Ensures (s.ctxBytes k va n) (fun r => r.2.Inv) := by
  induction n generalizing s va with
  | zero => simpa [State.ctxBytes, State.Inv] using h
  | succ n ih =>
    exact .bind_of_forall fun _ => .bind_of_forall fun p => .bind_of_forall fun _ => .bind_of_forall fun _ => .bind_of_forall fun b =>
      .bind_of (ih _ _ (by simpa [State.Inv] using h)) fun r hr => by simpa [State.Inv] using hr
@[simp] theorem State.outBytes_inv (s : State) (k l) (h : s.Inv) : Ensures (s.outBytes k l) (fun r => r.2.Inv) := by
  induction l generalizing s with
  | nil => simpa [State.outBytes, State.Inv] using h
  | cons e t ih =>
    exact .bind_of (State.ctxBytes_inv _ _ _ _ h) fun r hr => .bind_of (ih _ hr) fun q hq => by simpa [State.Inv] using hq
@[simp] theorem execDigrd_inv (s : State) (d h1) (h : s.Inv) : Keeps (execDigrd d h1 s) := by
  simp [execDigrd, State.Inv, h]
@[simp] theorem State.complete_inv (s : State) (part i d) (h : s.Inv) : (s.complete part i d).Inv := by
  unfold State.complete
  extract_lets p a drop full
  split
  · exact h
  · extract_lets q t
    split
    · simpa [State.Inv] using h
    · have ht : t.Inv := State.heatCount_inv _ _ _ (by simpa [State.Inv] using h)
      split
      · exact State.heatCount_inv _ _ _ ht
      · exact ht
@[simp] theorem State.heatEnd_inv (s : State) (k) (h : s.Inv) : OnSome (s.heatEnd k) State.Inv := by
  unfold State.heatEnd
  extract_lets x part s0
  split
  · simpa [State.Inv] using h
  · split
    · split
      · simpa [State.Inv] using State.outBytes_inv _ _ _ h _ ‹_›
      · simp [State.Inv, State.escapeHeat_inv, h]
      · exact onSome_none _
      · simpa [State.Inv] using h
    · have h0 : s0.Inv := by simpa [s0, State.Inv] using h
      split
      · simpa [State.Inv] using h0
      · split
        · simpa [State.Inv] using h0
        · split
          · have hb := State.outBytes_inv _ _ _ h0 _ ‹_›
            simpa [State.Inv] using State.complete_inv _ _ _ _ hb
          · simpa [State.Inv] using h0
          · exact onSome_none _
          · simpa [State.Inv] using h0
@[simp] theorem State.exitNow_inv (s : State) (k) (h : s.Inv) : OnSome (s.exitNow k) State.Inv := by
  simp [State.exitNow, State.Inv, h]
@[simp] theorem execExit_inv (s : State) (h : s.Inv) : Keeps (execExit s) := by
  simp only [execExit]
  (repeat' split) <;> simp -implicitDefEqProofs [State.Inv, h, foldl_mem]

end Sys2Proof.Machine
end

section
/-! ### Supervisor words (Machine/System) -/

namespace Sys2Proof.Machine

@[simp] theorem State.frzResume_mem (s : State) (core u) : (s.frzResume core u).mem = s.mem := by
  simp [State.frzResume]
@[simp] theorem State.frzEnd_mem (s : State) (core u) : (s.frzEnd core u).mem = s.mem := by
  simp [State.frzEnd]
@[simp] theorem State.frzRetry_mem (s : State) (core u) : (s.frzRetry core u).mem = s.mem := by
  simp [State.frzRetry]
@[simp] theorem State.abortChan_mem (s : State) (core ch) : (s.abortChan core ch).mem = s.mem := by
  simp only [State.abortChan, State.fireCompletion_mem, State.setCore_mem]
@[simp] theorem State.abortCatch_mem (s : State) (cell) : (s.abortCatch cell).mem = s.mem := by
  simp -implicitDefEqProofs [State.abortCatch, foldl_mem]
@[simp] theorem State.abortLane_mem (s : State) (core) : (s.abortLane core).mem = s.mem := by
  simp [State.abortLane]
@[simp] theorem State.frzAbort_mem (s : State) (core u) : (s.frzAbort core u).mem = s.mem := by
  simp [State.frzAbort]
@[simp] theorem State.frzWrite_mem (s : State) (core v) : (s.frzWrite core v).mem = s.mem := by
  simp only [State.frzWrite]
  (repeat' split) <;> simp
@[simp] theorem execFrzResume_inv (s : State) (core unit) (h : s.Inv) : Keeps (execFrzResume core unit s) := by
  simp [execFrzResume, State.Inv, h]
@[simp] theorem execFrzEnd_inv (s : State) (core unit) (h : s.Inv) : Keeps (execFrzEnd core unit s) := by
  simp [execFrzEnd, State.Inv, h]
@[simp] theorem execFrzRetry_inv (s : State) (core unit) (h : s.Inv) : Keeps (execFrzRetry core unit s) := by
  simp [execFrzRetry, State.Inv, h]
@[simp] theorem execFrzAbort_inv (s : State) (core unit) (h : s.Inv) : Keeps (execFrzAbort core unit s) := by
  simp [execFrzAbort, State.Inv, h]
@[simp] theorem State.tlbi_mem (s : State) (part v) : (s.tlbi part v).mem = s.mem := by
  simp [State.tlbi]
@[simp] theorem execTlbiWrite_inv (s : State) (part v) (h : s.Inv) : Keeps (execTlbiWrite part v s) := by
  simp [execTlbiWrite, State.Inv, h]
@[simp] theorem State.setHeatr_mem (s : State) (part v) : (s.setHeatr part v).mem = s.mem := by
  simp [State.setHeatr]
@[simp] theorem execHeatrWrite_inv (s : State) (part v) (h : s.Inv) : Keeps (execHeatrWrite part v s) := by
  simp [execHeatrWrite, State.Inv, h]
@[simp] theorem State.encWrite_mem (s : State) (die reg v) : (s.encWrite die reg v).mem = s.mem := by
  simp [State.encWrite]
@[simp] theorem execEncoderStreamWrite_inv (s : State) (die reg v) (h : s.Inv) : Keeps (execEncoderStreamWrite die reg v s) := by
  simp [execEncoderStreamWrite, State.Inv, h]
@[simp] theorem State.snapTrigger_mem (s : State) (part) : (s.snapTrigger part).mem = s.mem := by
  simp [State.snapTrigger]
@[simp] theorem execSysrd_inv (s : State) (d r) (h : s.Inv) : Keeps (execSysrd d r s) := by
  simp [execSysrd, State.Inv, h]
@[simp] theorem State.sysWrite_mem (s : State) (r v) : (s.sysWrite r v).mem = s.mem := by
  simp [State.sysWrite]
@[simp] theorem execSyswr_inv (s : State) (a r) (h : s.Inv) : Keeps (execSyswr a r s) := by
  simp [execSyswr, State.Inv, h]
@[simp] theorem execTrap_inv (s : State) (n) (h : s.Inv) : Keeps (execTrap n s) := keeps_out _ _ h (ensures_error _ _)
@[simp] theorem execBrk_inv (s : State) (h : s.Inv) : Keeps (execBrk s) := keeps_out _ _ h (ensures_error _ _)
@[simp] theorem execSret_inv (s : State) (h : s.Inv) : Keeps (execSret s) := by
  simp [execSret, State.Inv, h]
@[simp] theorem execHalt_inv (s : State) (h : s.Inv) : Keeps (execHalt s) := by
  simp [execHalt, State.Inv, h]
@[simp] theorem execSnap_inv (s : State) (h : s.Inv) : Keeps (execSnap s) := by
  simp [execSnap, State.Inv, h]
@[simp] theorem execWfi_inv (s : State) (h : s.Inv) : Keeps (execWfi s) := by
  simp [execWfi, State.Inv, h]

end Sys2Proof.Machine
end

section
/-! ### Launches (Machine/Launch) -/

namespace Sys2Proof.Machine

@[simp] theorem State.answer_mem (s : State) (host tag func status res) : (s.answer host tag func status res).mem = s.mem := by
  simp [State.answer]
@[simp] theorem State.mgmtArrive_mem (s : State) (host tag l) : (s.mgmtArrive host tag l).mem = s.mem := by
  simp [State.mgmtArrive]
@[simp] theorem State.answerModule_mem (s : State) (m status) : (s.answerModule m status).mem = s.mem := by
  simp only [State.answerModule, State.sendOut]
  cases SMap.find s.routes m.sender <;> simp
@[simp] theorem State.refuseAs_mem (s : State) (m c) : (s.refuseAs m c).mem = s.mem := by
  simp only [State.refuseAs]
  (repeat' split) <;> simp
@[simp] theorem State.refuse_mem (s : State) (m code) : (s.refuse m code).mem = s.mem := by
  simp [State.refuse]
@[simp] theorem State.accept_mem (s : State) (m) : (s.accept m).mem = s.mem := by
  simp only [State.accept]
  (repeat' split) <;> simp
@[simp] theorem State.taken_mem (s : State) (m) : (s.taken m).mem = s.mem := by
  simp [State.taken]
@[simp] theorem State.arrive_inv (s : State) (m part core bound) (h : s.Inv) : OnSome (s.arrive m part core bound) State.Inv := by
  simp [State.arrive, State.Inv, h]
@[simp] theorem State.fabricLaunch_inv (s : State) (m mod part) (h : s.Inv) : OnSome (s.fabricLaunch m mod part) State.Inv := by
  simp only [State.fabricLaunch]
  (repeat' split) <;> simp [State.Inv, h]
@[simp] theorem State.deliver_inv (s : State) (m) (h : s.Inv) : OnSome (s.deliver m) State.Inv := by
  simp only [State.deliver]
  (repeat' split) <;> simp [State.Inv, h]
@[simp] theorem State.deliverAny_inv (s : State) (seen l) (h : s.Inv) : (s.deliverAny seen l).Inv := by
  induction l generalizing s seen with
  | nil => exact h
  | cons m t ih =>
    simp only [State.deliverAny]
    split
    · rename_i hr
      refine State.deliver_inv _ _ ?_ _ hr
      exact h
    · exact ih _ _ h
@[simp] theorem execLaunchMessageArrival_inv (s : State) (src) (h : s.Inv) : Keeps (execLaunchMessageArrival src s) := by
  simp only [execLaunchMessageArrival]
  (repeat' split) <;> simp [State.Inv, h]
@[simp] theorem State.startTask_mem (s : State) (k t pc param late) : (s.startTask k t pc param late).mem = s.mem := by
  simp [State.startTask]
@[simp] theorem execLaunch_inv (s : State) (core) (h : s.Inv) : Keeps (execLaunch core s) := by
  simp only [execLaunch]
  (repeat' split) <;> simp [State.Inv, h]
@[simp] theorem State.slotWrite_inv (s : State) (src part va r) (h : s.Inv) : (s.slotWrite src part va r).1.Inv := by
  unfold State.slotWrite
  extract_lets bytes
  split
  · exact h
  · split
    · exact h
    · split
      · exact partStore_inv_of_eq h ‹_›
      · exact State.partStore_inv _ _ _ _ _ (partStore_inv_of_eq h ‹_›)
@[simp] theorem State.slotSync_inv (s : State) (src part i) (h : s.Inv) : (s.slotSync src part i).Inv := by
  simp only [State.slotSync]
  split
  · exact h
  · exact State.partStore_inv _ _ _ _ _ h
@[simp] theorem State.retainTouch_mem (s : State) (core part h1) : (s.retainTouch core part h1).mem = s.mem := by
  simp -implicitDefEqProofs [State.retainTouch, foldl_mem]
@[simp] theorem execRetentionCopy_inv (s : State) (core) (h : s.Inv) : Keeps (execRetentionCopy core s) := by
  unfold execRetentionCopy
  extract_lets c part
  split
  · exact h
  · split
    · exact h
    · extract_lets s0 s1 src plain
      have h1 : s1.Inv := by simpa [s1, s0, State.Inv] using h
      have hp : plain.Inv := by simpa [plain, State.Inv] using h1
      split
      · simpa [State.Inv] using h
      · split
        · exact State.heatCount_inv _ _ _ hp
        · extract_lets va r
          split
          · exact h
          · split <;> rename_i hw
            all_goals have ht := inv_of_fst hw (State.slotWrite_inv _ _ _ _ _ h1)
            · extract_lets src w
              simpa [State.Inv] using State.heatCount_inv _ part 0x28 (show w.Inv by simpa [w, State.Inv] using ht)
            · simpa [State.Inv] using ht
@[simp] theorem State.startRoutine_mem (s : State) (core i l k entry idx) : (s.startRoutine core i l k entry idx).mem = s.mem := by
  simp [State.startRoutine]
@[simp] theorem State.setList_mem (s : State) (core l) : (s.setList core l).mem = s.mem := by
  simp [State.setList]
@[simp] theorem State.listFault_mem (s : State) (core l c va) : (s.listFault core l c va).mem = s.mem := by
  simp [State.listFault]
@[simp] theorem execSuperstepRoutineStart_inv (s : State) (core) (h : s.Inv) : Keeps (execSuperstepRoutineStart core s) := by
  simp only [execSuperstepRoutineStart]
  (repeat' split) <;> simp [State.Inv, h]
@[simp] theorem State.coreRelease_mem (s : State) (core) : (s.coreRelease core).mem = s.mem := by
  simp only [State.coreRelease]
  (repeat' split) <;> simp
@[simp] theorem State.dieRelease_mem (s : State) (die) : (s.dieRelease die).mem = s.mem := by
  simp [State.dieRelease]
@[simp] theorem execExchangeRoutineStart_inv (s : State) (core) (h : s.Inv) : Keeps (execExchangeRoutineStart core s) := by
  simp only [execExchangeRoutineStart]
  (repeat' split) <;> simp [State.Inv, h]

end Sys2Proof.Machine
end

section
/-! ### Hosts and management (Machine/Host) -/

namespace Sys2Proof.Machine

@[simp] theorem State.reply_mem (s : State) (host tag status data) : (s.reply host tag status data).mem = s.mem := by
  simp [State.reply]
@[simp] theorem State.violation_mem (s : State) (host tag part) : (s.violation host tag part).mem = s.mem := by
  simp [State.violation]
@[simp] theorem State.hostDo_mem (s : State) (host tag part right) (f : State → State) (hf : (f s).mem = s.mem) :
    (s.hostDo host tag part right f).mem = s.mem := by
  simp [State.hostDo, hf]
@[simp] theorem State.hostDo_inv (s : State) (host tag part right) (f : State → State) (h : s.Inv) (hf : (f s).Inv) :
    (s.hostDo host tag part right f).Inv := by
  simp only [State.hostDo]
  (repeat' split) <;> simp [State.Inv, h, hf]
@[simp] theorem execHostLaunch_inv (s : State) (host tag part mbox hdr) (h : s.Inv) : Keeps (execHostLaunch host tag part mbox hdr s) := by
  simp only [execHostLaunch]
  (repeat' split) <;> simp [State.Inv, h]
@[simp] theorem State.hostFault_mem (s : State) (host tag part c) : (s.hostFault host tag part c).mem = s.mem := by
  simp [State.hostFault]
@[simp] theorem State.hostAccess_inv (s : State) (q) (h : s.Inv) : OnSome (s.hostAccess q) State.Inv := by
  simp only [State.hostAccess]
  split
  · refine (onSome_some _ _).2 (State.hostDo_inv _ _ _ _ _ _ h ?_)
    (repeat' split) <;> simp [State.Inv, h]
  · split
    · exact onSome_none _
    · refine (onSome_some _ _).2 (State.hostDo_inv _ _ _ _ _ _ h ?_)
      (repeat' split) <;> simp [State.Inv, State.partStore_inv, h]
@[simp] theorem State.hostRequest_inv (s : State) (q) (h : s.Inv) : (s.hostRequest q).Inv := by
  simp only [State.hostRequest]
  (repeat' split) <;> simp [State.Inv, h]
@[simp] theorem State.hostNext_inv (s : State) (seen l) (h : s.Inv) : (s.hostNext seen l).Inv := by
  induction l generalizing s seen with
  | nil => exact h
  | cons q t ih =>
    have hq : OnSome (if seen.any (fun r => r.host = q.host) then none else ({ s with hostQ := seen ++ t } : State).hostAccess q) State.Inv := by
      split
      · exact onSome_none _
      · exact State.hostAccess_inv _ _ h
    simp only [State.hostNext]
    split
    · exact hq _ ‹_›
    · exact ih _ _ h
@[simp] theorem State.hostStep_inv (s : State) (h : s.Inv) : Keeps (s.hostStep) := by
  simp [State.hostStep, State.Inv, h]
@[simp] theorem execHostRead_inv (s : State) (host tag part va size) (h : s.Inv) : Keeps (execHostRead host tag part va size s) := by
  simp [execHostRead, State.Inv, h]
@[simp] theorem execHostWrite_inv (s : State) (host tag part va data) (h : s.Inv) : Keeps (execHostWrite host tag part va data s) := by
  simp [execHostWrite, State.Inv, h]
@[simp] theorem State.killPage_mem (s : State) (pa lg) : (s.killPage pa lg).mem = s.mem := by
  simp -implicitDefEqProofs [State.killPage, foldl_mem]
@[simp] theorem State.servePage_mem (s : State) (pa lg) : (s.servePage pa lg).mem = s.mem := by
  simp -implicitDefEqProofs [State.servePage, foldl_mem]
@[simp] theorem State.killNear_mem (s : State) (pa lg) : (s.killNear pa lg).mem = s.mem := by
  simp [State.killNear]
@[simp] theorem State.rebias_mem (s : State) (f) : (s.rebias f).mem = s.mem := by
  simp [State.rebias]
@[simp] theorem State.flip_inv (s : State) (part va hb) (h : s.Inv) : (s.flip part va hb).2.Inv := by
  unfold State.flip
  split
  · split
    · exact h
    · split
      · exact h
      · split
        · exact h
        · extract_lets pa s0 e s1 base drop
          have h0 : s0.Inv := by simpa [s0, State.Inv] using h
          have h1 : s1.Inv := by simpa [s1, State.Inv] using State.putBytes_inv _ _ _ _ h0
          exact h1
  all_goals exact h
@[simp] theorem execHostBiasFlip_inv (s : State) (host tag part va b) (h : s.Inv) : Keeps (execHostBiasFlip host tag part va b s) := by
  refine State.hostDo_inv _ _ _ _ _ _ h ?_
  dsimp only
  split <;> simp [State.Inv, h]
@[simp] theorem State.report_mem (s : State) (host tag) : (s.report host tag).mem = s.mem := by
  simp [State.report]
@[simp] theorem State.mgmtDo_mem (s : State) (host tag func part sup right) (f : State → State) (hf : (f s).mem = s.mem) :
    (s.mgmtDo host tag func part sup right f).mem = s.mem := by
  simp [State.mgmtDo, hf]
@[simp] theorem State.mgmtDo_inv (s : State) (host tag func part sup right) (f : State → State) (h : s.Inv) (hf : (f s).Inv) :
    (s.mgmtDo host tag func part sup right f).Inv := by
  simp only [State.mgmtDo]
  (repeat' split) <;> simp [State.Inv, h, hf]
@[simp] theorem State.mgmtFlip_inv (s : State) (host tag part d) (h : s.Inv) : (s.mgmtFlip host tag part d).Inv := by
  refine State.mgmtDo_inv _ _ _ _ _ _ _ _ h ?_
  split
  · simpa [State.Inv] using h
  · dsimp only
    split <;> simp [State.Inv, h]
@[simp] theorem State.series_mem (s : State) (host tag off n b) : (s.series host tag off n b).mem = s.mem := by
  induction n generalizing s off b with
  | zero => rfl
  | succ n ih => simp [State.series, ih]
@[simp] theorem State.attest_mem (s : State) (host tag part nonce) : (s.attest host tag part nonce).mem = s.mem := by
  simp [State.attest]
@[simp] theorem State.configRead_mem (s : State) (host tag part arg) : (s.configRead host tag part arg).mem = s.mem := by
  simp [State.configRead]
@[simp] theorem State.forwardSet_mem (s : State) (host tag part arg mbox target) : (s.forwardSet host tag part arg mbox target).mem = s.mem := by
  simp [State.forwardSet]
@[simp] theorem State.replaceKey_mem (s : State) (keyid) : (s.replaceKey keyid).mem = s.mem := by
  simp [State.replaceKey]
@[simp] theorem State.bringUp_mem (s : State) : (s.bringUp).mem = s.mem := by
  simp -implicitDefEqProofs [State.bringUp, foldl_mem]
/-- After power is lost memory lists nothing. -/
@[simp] theorem State.cold_inv (s : State) (power) : (s.cold power).Inv := by
  show Memory.wf [] = true
  rfl
@[simp] theorem execReset_inv (s : State) : Keeps (execReset s) := by
  simp [execReset, State.Inv]
@[simp] theorem execPowerLoss_inv (s : State) : Keeps (execPowerLoss s) := by
  simp [execPowerLoss, State.Inv]
@[simp] theorem State.recoveryChunk_mem (s : State) (host tag off data) : (s.recoveryChunk host tag off data).mem = s.mem := by
  simp [State.recoveryChunk]
@[simp] theorem State.recoveryEnd_mem (s : State) (host tag len) : (s.recoveryEnd host tag len).mem = s.mem := by
  simp only [State.recoveryEnd]
  (repeat' split) <;> simp
@[simp] theorem State.hostMgmt_mem (s : State) (host tag l) : (s.hostMgmt host tag l).mem = s.mem := by
  simp [State.hostMgmt]
@[simp] theorem State.romMgmt_mem (s : State) (req l) : (s.romMgmt req l).mem = s.mem := by
  simp [State.romMgmt]
@[simp] theorem execAttestation_inv (s : State) (host tag part nonce) (h : s.Inv) : Keeps (execAttestation host tag part nonce s) := by
  simp [execAttestation, State.Inv, h]
@[simp] theorem execRecoveryImageChunk_inv (s : State) (req chunk) (h : s.Inv) : Keeps (execRecoveryImageChunk req chunk s) := by
  simp [execRecoveryImageChunk, State.Inv, h]
@[simp] theorem execRecoveryImageEnd_inv (s : State) (fin) (h : s.Inv) : Keeps (execRecoveryImageEnd fin s) := by
  simp [execRecoveryImageEnd, State.Inv, h]
@[simp] theorem execConfigurationRead_inv (s : State) (host tag part arg) (h : s.Inv) : Keeps (execConfigurationRead host tag part arg s) := by
  simp [execConfigurationRead, State.Inv, h]
@[simp] theorem execMgmtBiasFlip_inv (s : State) (host tag part va hb) (h : s.Inv) : Keeps (execMgmtBiasFlip host tag part va hb s) := by
  simp [execMgmtBiasFlip, State.Inv, h]
@[simp] theorem execMailboxForward_inv (s : State) (host tag part arg mbox target) (h : s.Inv) :
    Keeps (execMailboxForward host tag part arg mbox target s) := by
  simp [execMailboxForward, State.Inv, h]
@[simp] theorem execStageGraphDeclaration_inv (s : State) (host tag part desc) (h : s.Inv) :
    Keeps (execStageGraphDeclaration host tag part desc s) := by
  simp [execStageGraphDeclaration, State.Inv, h]
@[simp] theorem execFormatRegionWrite_inv (s : State) (n reg v) (h : s.Inv) : Keeps (execFormatRegionWrite n reg v s) := by
  simp only [execFormatRegionWrite]
  (repeat' split) <;> simp [State.Inv, h]

end Sys2Proof.Machine
end

section
/-! ### Stage graphs (Machine/Stage) -/

namespace Sys2Proof.Machine

@[simp] theorem State.declare_mem (s : State) (host tag part desc) : (s.declare host tag part desc).mem = s.mem := by
  simp only [State.declare]
  (repeat' split) <;> simp
@[simp] theorem State.stageLaunch_mem (s : State) (part core g i t st res) : (s.stageLaunch part core g i t st res).mem = s.mem := by
  simp [State.stageLaunch]
@[simp] theorem execStageFiring_inv (s : State) (part stage cell) (h : s.Inv) : Keeps (execStageFiring part stage cell s) := by
  simp only [execStageFiring]
  (repeat' split) <;> simp [State.Inv, h]
@[simp] theorem execBalancerWindow_inv (s : State) (part) (h : s.Inv) : Keeps (execBalancerWindow part s) := by
  simp only [execBalancerWindow]
  (repeat' split) <;> simp [State.Inv, h]
@[simp] theorem State.replayCopy_inv (s : State) (part r g blocks) (h : s.Inv) : (s.replayCopy part r g blocks).Inv := by
  refine foldl_inv _ (fun t x ht => ?_) _ _ h
  split
  · exact ht
  · split <;> rename_i hr
    · exact partStore_inv_of_eq ht hr
    · simpa [State.Inv] using partStore_inv_of_eq ht hr
@[simp] theorem State.seeds_inv (s : State) (part r g l) (h : s.Inv) : OnSome (s.seeds part r g l) State.Inv := by
  induction l generalizing s with
  | nil => simpa [State.seeds, State.Inv] using h
  | cons e t ih =>
    simp only [State.seeds]
    split
    · exact ih _ h
    · split
      · exact onSome_none _
      · exact ih _ (by simpa [State.Inv] using h)
@[simp] theorem execReplay_inv (s : State) (part) (h : s.Inv) : Keeps (execReplay part s) := by
  unfold execReplay
  split
  · exact h
  · split
    · exact h
    · extract_lets src g t
      split
      · exact h
      · have ht : t.Inv := State.replayCopy_inv _ _ _ _ _ h
        exact getD_inv _ _ h (State.seeds_inv _ _ _ _ _ (by simpa [State.Inv] using ht))
@[simp] theorem State.mgmtStep_inv (s : State) (h : s.Inv) : Keeps (s.mgmtStep) := by
  simp only [State.mgmtStep]
  (repeat' split) <;> simp [State.Inv, h]

end Sys2Proof.Machine
end

section
/-! ### Ranks, packets and gateways (Machine/Network) -/

namespace Sys2Proof.Machine

@[simp] theorem State.fabricNotice_mem (s : State) (code coord) : (s.fabricNotice code coord).mem = s.mem := by
  simp [State.fabricNotice]
@[simp] theorem execRingFlitGrant_inv (s : State) (die dir) (h : s.Inv) : Keeps (execRingFlitGrant die dir s) := by
  simp only [execRingFlitGrant]
  (repeat' split) <;> simp [State.Inv, h]
@[simp] theorem State.holdRelease_inv (s : State) (die dir) (h : s.Inv) : OnSome (s.holdRelease die dir) State.Inv := by
  simp only [State.holdRelease]
  (repeat' split) <;> simp [State.Inv, h]
@[simp] theorem State.countRelease_inv (s : State) (die) (h : s.Inv) : OnSome (s.countRelease die) State.Inv := by
  simp only [State.countRelease]
  split
  · exact onSome_none _
  · split
    · exact onSome_none _
    · exact (onSome_some _ _).2 (State.heatAdd_inv _ _ _ (by simpa [State.Inv] using h))
@[simp] theorem execGatewayHoldRelease_inv (s : State) (die) (h : s.Inv) : Keeps (execGatewayHoldRelease die s) :=
  getD_inv _ _ (getD_inv _ _ (getD_inv _ _ h (State.countRelease_inv _ _ h)) (State.holdRelease_inv _ _ _ h)) (State.holdRelease_inv _ _ _ h)
@[simp] theorem State.sendAck_mem (s : State) (home core ch n) : (s.sendAck home core ch n).mem = s.mem := by
  simp [State.sendAck]
@[simp] theorem State.acked_mem (s : State) (core ch n) : (s.acked core ch n).mem = s.mem := by
  simp [State.acked]
@[simp] theorem State.writeFault_mem (s : State) (core ch off n e) : (s.writeFault core ch off n e).mem = s.mem := by
  simp only [State.writeFault]
  (repeat' split) <;> simp
@[simp] theorem State.landWrite_mem (s : State) (die l) : (s.landWrite die l).mem = s.mem := by
  simp only [State.landWrite]
  (repeat' split) <;> simp
@[simp] theorem State.packetPost_inv (s : State) (die p n core ch) (h : s.Inv) : OnSome (s.packetPost die p n core ch) State.Inv := by
  simp only [State.packetPost]
  split
  · have hc := counterAdd_ensures _ _ _ _ _ h _ ‹_›
    simpa [State.Inv] using hc
  · simpa [State.Inv] using h
  · exact onSome_none _
@[simp] theorem State.landPiece_inv (s : State) (die idx i l) (h : s.Inv) : OnSome (s.landPiece die idx i l) State.Inv := by
  unfold State.landPiece
  extract_lets n home busy d gone left
  have hg : gone.Inv := by simpa [gone, State.Inv] using h
  split
  · exact onSome_none _
  · split
    · exact State.packetPost_inv _ _ _ _ _ _ hg
    · split
      · simpa [State.Inv] using hg
      · extract_lets q
        split
        · simpa [State.Inv] using hg
        · exact onSome_none _
        · have hw := writePlace_ensures _ _ _ _ _ h _ ‹_›
          dsimp only
          split <;> simpa [State.Inv] using hw
@[simp] theorem State.deliverHeld_inv (s : State) (cell x2) (h : s.Inv) : OnSome (s.deliverHeld cell x2) State.Inv := by
  simp only [State.deliverHeld]
  (repeat' split) <;> simp [State.Inv, h]
@[simp] theorem State.drainHeld_inv (s : State) (cell part l) (h : s.Inv) : (s.drainHeld cell part l).Inv := by
  induction l generalizing s with
  | nil => simpa [State.drainHeld, State.Inv] using h
  | cons m t ih =>
    simp only [State.drainHeld]
    split
    · exact ih _ (State.deliverHeld_inv _ _ _ h _ ‹_›)
    · simpa [State.Inv] using h
@[simp] theorem State.holdMsg_inv (s : State) (cell part m) (h : s.Inv) : OnSome (s.holdMsg cell part m) State.Inv := by
  simp [State.holdMsg, State.Inv, h]
@[simp] theorem State.sendRank_inv (s : State) (core part m) (h : s.Inv) : OnSome (s.sendRank core part m) State.Inv := by
  unfold State.sendRank
  extract_lets va src r s0 fail
  have h0 : s0.Inv := by simpa [s0, State.Inv] using h
  have hf : ∀ e, OnSome (fail e) State.Inv := by
    intro e
    simp only [fail]
    split
    · simpa [State.Inv] using h0
    · exact onSome_none _
  split
  · split
    · split
      · exact (onSome_some _ _).2 (writePlace_ensures _ _ _ _ _ h0 _ ‹_›)
      · exact hf _
    · exact hf _
  · split
    · split
      · exact (onSome_some _ _).2 (rmw_ensures _ _ _ _ _ _ h0 _ ‹_›)
      · exact hf _
    · exact hf _
  · split
    · split
      · simpa [State.Inv] using h0
      · exact onSome_none _
    · exact hf _
@[simp] theorem State.sendHeld_inv (s : State) (core part stay l) (h : s.Inv) : (s.sendHeld core part stay l).Inv := by
  induction l generalizing s stay with
  | nil => exact h
  | cons m t ih =>
    simp only [State.sendHeld]
    split
    · exact ih _ _ h
    · split
      · exact ih _ _ (State.sendRank_inv _ _ _ _ h _ ‹_›)
      · exact ih _ _ h
@[simp] theorem execRankWindowAccess_inv (s : State) (cell) (h : s.Inv) : Keeps (execRankWindowAccess cell s) := by
  simp only [execRankWindowAccess]
  split
  · exact h
  · refine (keeps_next _).2 ?_
    split
    · exact h
    · exact foldl_inv _ (fun t i ht => State.sendHeld_inv _ _ _ _ _ ht) _ _ (State.drainHeld_inv _ _ _ _ h)
@[simp] theorem State.returnPacket_mem (s : State) (die stop p) : (s.returnPacket die stop p).mem = s.mem := by
  simp only [State.returnPacket, State.sendOut]
  split
  · split <;> simp
  · simp
  · split
    · rfl
    · cases SMap.find s.routes p.srcMod <;> simp
  · rfl
@[simp] theorem State.atPort_mem (s : State) (die p) : (s.atPort die p).mem = s.mem := by
  simp only [State.atPort]
  (repeat' split) <;> simp
@[simp] theorem State.takePacket_inv (s : State) (die p) (h : s.Inv) : OnSome (s.takePacket die p) State.Inv := by
  simp only [State.takePacket]
  (repeat' split) <;> simp [State.Inv, h]
@[simp] theorem State.setPkt_mem (s : State) (die idx f) : (s.setPkt die idx f).mem = s.mem := by
  simp [State.setPkt]
@[simp] theorem State.dropPkt_mem (s : State) (die idx) : (s.dropPkt die idx).mem = s.mem := by
  simp [State.dropPkt]
@[simp] theorem State.headPass_inv (s : State) (die idx t x) (h : s.Inv) : (s.headPass die idx t x).Inv := by
  simp only [State.headPass]
  split
  · simpa [State.Inv] using h
  · split
    · have ht := State.takePacket_inv _ _ _ h _ ‹_›
      simpa [State.Inv] using ht
    · simpa [State.Inv] using h
@[simp] theorem execLoopPacketArrival_inv (s : State) (die idx) (h : s.Inv) : Keeps (execLoopPacketArrival die idx s) := by
  unfold execLoopPacketArrival
  extract_lets d j
  split
  · exact getD_inv _ _ h ((onSome_bind _ _ _).2 fun l _ => State.landPiece_inv _ _ _ _ _ h)
  · rename_i x _
    extract_lets t
    split
    · split
      · exact h
      · have hd : (s.dropPkt die idx).Inv := by simpa [State.Inv] using h
        have ht : OnSome (if d.reserves idx x then none else (s.dropPkt die idx).takePacket die x.pkt) State.Inv := by
          split
          · exact onSome_none _
          · exact State.takePacket_inv _ _ _ hd
        split
        · exact ht _ ‹_›
        · simpa [State.Inv] using h
    · split
      · exact h
      · extract_lets s0 s1 s2
        have h1 : s1.Inv := by
          simp [s1, s0, State.Inv, h]
        have h2 : s2.Inv := by
          simp only [s2]
          split
          · split
            · exact State.headPass_inv _ _ _ _ _ h1
            · exact h1
          · exact h1
        split
        · exact h2
        · split <;> simpa [State.Inv] using h2
@[simp] theorem State.evictAll_mem (s : State) (core) : (s.evictAll core).mem = s.mem := by
  simp -implicitDefEqProofs [State.evictAll, foldl_mem]
@[simp] theorem State.moveThread_mem (s : State) (part old new) : (s.moveThread part old new).mem = s.mem := by
  simp -implicitDefEqProofs [State.moveThread, foldl_mem]
@[simp] theorem State.replayHeld_inv (s : State) (part core l) (h : s.Inv) : OnSome (s.replayHeld part core l) State.Inv := by
  induction l generalizing s with
  | nil => simpa [State.replayHeld, State.Inv] using h
  | cons m t ih =>
    have hn : OnSome (if (SMap.get (s.cell (core / 4)).holding [] part).isEmpty then s.deliverHeld (core / 4) (m.toCore core)
        else none) State.Inv := by
      split
      · exact State.deliverHeld_inv _ _ _ h
      · exact onSome_none _
    simp only [State.replayHeld]
    split
    · exact ih _ (hn _ ‹_›)
    · exact (onSome_bind _ _ _).2 fun u hu => ih u (State.holdMsg_inv _ _ _ _ h u hu)
@[simp] theorem State.retire_mem (s : State) (part cell) : (s.retire part cell).mem = s.mem := by
  simp [State.retire]
@[simp] theorem State.moveRankless_inv (s : State) (part old newCore) (h : s.Inv) : OnSome (s.moveRankless part old newCore) State.Inv := by
  simp [State.moveRankless, State.Inv, h]
@[simp] theorem execThreadMove_inv (s : State) (part rank newCore) (h : s.Inv) : Keeps (execThreadMove part rank newCore s) := by
  unfold execThreadMove
  extract_lets p e old ok t p' held s'
  split
  · exact h
  · split
    · exact getD_inv _ _ h (State.moveRankless_inv _ _ _ _ h)
    · split
      · exact State.setRank_inv _ _ _ _ h
      · split
        · exact h
        · have h' : s'.Inv := by
            refine State.setRank_inv _ _ _ _ ?_
            simpa [t, State.Inv] using h
          refine getD_inv _ _ h ((onSome_map _ _ _).2 ((State.replayHeld_inv _ _ _ _ h').mono ?_))
          simp [State.Inv]
@[simp] theorem State.linkDown_mem (s : State) (die port) : (s.linkDown die port).mem = s.mem := by
  simp -implicitDefEqProofs [State.linkDown, foldl_mem]
@[simp] theorem State.askReplay_mem (s : State) (die port) : (s.askReplay die port).mem = s.mem := by
  simp [State.askReplay]
@[simp] theorem execFabricReplay_inv (s : State) (die port) (h : s.Inv) : Keeps (execFabricReplay die port s) := by
  simp [execFabricReplay, State.Inv, h]
@[simp] theorem execFabricControlFlit_inv (s : State) (die port flit) (h : s.Inv) : Keeps (execFabricControlFlit die port flit s) := by
  simp [execFabricControlFlit, State.Inv, h]
@[simp] theorem State.writeRoutes_mem (s : State) (l) : (s.writeRoutes l).mem = s.mem := by
  simp [State.writeRoutes]
@[simp] theorem execFabricLinkUp_inv (s : State) (die link) (h : s.Inv) : Keeps (execFabricLinkUp die link s) := by
  simp [execFabricLinkUp, State.Inv, h]
@[simp] theorem State.fabricAnswer_mem (s : State) (tag status) : (s.fabricAnswer tag status).mem = s.mem := by
  simp only [State.fabricAnswer]
  (repeat' split) <;> simp
@[simp] theorem State.fabricHere_mem (s : State) (die port p b) : (s.fabricHere die port p b).mem = s.mem := by
  simp [State.fabricHere]
@[simp] theorem execFabricPacketArrival_inv (s : State) (die port pkt) (h : s.Inv) : Keeps (execFabricPacketArrival die port pkt s) := by
  simp [execFabricPacketArrival, State.Inv, h]

end Sys2Proof.Machine
end

section
/-! ### Arrays (Machine/Arrays) -/

namespace Sys2Proof.Machine

@[simp] theorem execSliceFill_inv (s : State) (pa keyid) (h : s.Inv) : Keeps (execSliceFill pa keyid s) := by
  simp [execSliceFill, State.Inv, h]
@[simp] theorem execMissRetry_inv (s : State) (clu) (h : s.Inv) : Keeps (execMissRetry clu s) := by
  simp only [execMissRetry]
  (repeat' split) <;> simp [State.Inv, h]
@[simp] theorem execPageWalk_inv (s : State) (core va) (h : s.Inv) : Keeps (execPageWalk core va s) := by
  simp only [execPageWalk]
  (repeat' split) <;> simp [State.Inv, h]
@[simp] theorem State.cacheError_mem (s : State) (core w double) : (s.cacheError core w double).mem = s.mem := by
  simp only [State.cacheError]
  (repeat' split) <;> simp
@[simp] theorem State.sliceError_mem (s : State) (clu w double) : (s.sliceError clu w double).mem = s.mem := by
  simp only [State.sliceError]
  (repeat' split) <;> simp
@[simp] theorem execSoftError_inv (s : State) (kind idx wordIdx double) (h : s.Inv) : Keeps (execSoftError kind idx wordIdx double s) := by
  simp only [execSoftError]
  (repeat' split) <;> simp [State.Inv, h]
@[simp] theorem State.onEcc_mem (s : State) (kind idx f) : (s.onEcc kind idx f).mem = s.mem := by
  simp only [State.onEcc]
  (repeat' split) <;> simp
@[simp] theorem State.restSlice_mem (s : State) (clu) : (s.restSlice clu).mem = s.mem := by
  simp [State.restSlice]
@[simp] theorem execRetentionEntry_inv (s : State) (kind idx) (h : s.Inv) : Keeps (execRetentionEntry kind idx s) := by
  simp [execRetentionEntry, State.Inv, h]
@[simp] theorem execRetentionExit_inv (s : State) (kind idx) (h : s.Inv) : Keeps (execRetentionExit kind idx s) := by
  simp [execRetentionExit, State.Inv, h]

end Sys2Proof.Machine
end

section
/-! ### Branches and jumps (Machine/Branch) -/

namespace Sys2Proof.Machine

@[simp] theorem State.condBranch_inv (s : State) (len p off) (h : s.Inv) : Keeps (s.condBranch len p off) := by
  simp [State.condBranch, State.Inv, h]
@[simp] theorem execBeq_inv (s : State) (a b o) (h : s.Inv) : Keeps (execBeq a b o s) :=
  State.condBranch_inv _ _ _ _ h
@[simp] theorem execBne_inv (s : State) (a b o) (h : s.Inv) : Keeps (execBne a b o s) :=
  State.condBranch_inv _ _ _ _ h
@[simp] theorem execBlt_inv (s : State) (a b o) (h : s.Inv) : Keeps (execBlt a b o s) :=
  State.condBranch_inv _ _ _ _ h
@[simp] theorem execBge_inv (s : State) (a b o) (h : s.Inv) : Keeps (execBge a b o s) :=
  State.condBranch_inv _ _ _ _ h
@[simp] theorem execBltu_inv (s : State) (a b o) (h : s.Inv) : Keeps (execBltu a b o s) :=
  State.condBranch_inv _ _ _ _ h
@[simp] theorem execBgeu_inv (s : State) (a b o) (h : s.Inv) : Keeps (execBgeu a b o s) :=
  State.condBranch_inv _ _ _ _ h
@[simp] theorem execJmp_inv (s : State) (i) (h : s.Inv) : Keeps (execJmp i s) := by
  simp [execJmp, State.Inv, h]
@[simp] theorem execJal_inv (s : State) (d i) (h : s.Inv) : Keeps (execJal d i s) := by
  simp [execJal, State.Inv, h]
@[simp] theorem execJalr_inv (s : State) (d a i) (h : s.Inv) : Keeps (execJalr d a i s) := by
  simp [execJalr, State.Inv, h]
@[simp] theorem execLoop_inv (s : State) (a n) (h : s.Inv) : Keeps (execLoop a n s) := by
  simp [execLoop, State.Inv, h]

end Sys2Proof.Machine
end

section
/-! ### Compressed words (Machine/Compressed) -/

namespace Sys2Proof.Machine

@[simp] theorem State.cAlu_inv (s : State) (d r f) (h : s.Inv) : Keeps (s.cAlu d r f) := by
  simp [State.cAlu, State.Inv, h]
@[simp] theorem execCNop_inv (s : State) (h : s.Inv) : Keeps (execCNop s) := by
  simp [execCNop, State.Inv, h]
@[simp] theorem execCMov_inv (s : State) (d r) (h : s.Inv) : Keeps (execCMov d r s) :=
  State.cAlu_inv _ _ _ _ h
@[simp] theorem execCAdd_inv (s : State) (d r) (h : s.Inv) : Keeps (execCAdd d r s) :=
  State.cAlu_inv _ _ _ _ h
@[simp] theorem execCSub_inv (s : State) (d r) (h : s.Inv) : Keeps (execCSub d r s) :=
  State.cAlu_inv _ _ _ _ h
@[simp] theorem execCAnd_inv (s : State) (d r) (h : s.Inv) : Keeps (execCAnd d r s) :=
  State.cAlu_inv _ _ _ _ h
@[simp] theorem execCAddi_inv (s : State) (d i) (h : s.Inv) : Keeps (execCAddi d i s) :=
  State.cAlu_inv _ _ _ _ h
@[simp] theorem execCShli_inv (s : State) (d h1) (h : s.Inv) : Keeps (execCShli d h1 s) :=
  State.cAlu_inv _ _ _ _ h
@[simp] theorem execCLdw_inv (s : State) (d r o) (h : s.Inv) : Keeps (execCLdw d r o s) := by
  simp [execCLdw, State.Inv, h]
@[simp] theorem execCStw_inv (s : State) (v r o) (h : s.Inv) : Keeps (execCStw v r o s) := by
  simp [execCStw, State.Inv, h]
@[simp] theorem execCLdd_inv (s : State) (d r o) (h : s.Inv) : Keeps (execCLdd d r o s) := by
  simp [execCLdd, State.Inv, h]
@[simp] theorem execCStd_inv (s : State) (v r o) (h : s.Inv) : Keeps (execCStd v r o s) := by
  simp [execCStd, State.Inv, h]
@[simp] theorem execCBeqz_inv (s : State) (r o) (h : s.Inv) : Keeps (execCBeqz r o s) :=
  State.condBranch_inv _ _ _ _ h
@[simp] theorem execCBnez_inv (s : State) (r o) (h : s.Inv) : Keeps (execCBnez r o s) :=
  State.condBranch_inv _ _ _ _ h
@[simp] theorem execCJmp_inv (s : State) (o) (h : s.Inv) : Keeps (execCJmp o s) := by
  simp [execCJmp, State.Inv, h]
@[simp] theorem execZeroWord_inv (s : State) (h : s.Inv) : Keeps (execZeroWord s) := s.stopped_inv _ h
@[simp] theorem execReservedMajor_inv (w) (s : State) (h : s.Inv) : Keeps (execReservedMajor w s) := s.stopped_inv _ h

end Sys2Proof.Machine
end

section
/-! ### The encoder (Machine/Encoder) -/

namespace Sys2Proof.Machine

@[simp] theorem execEncoderTileArrival_inv (s : State) (die) (h : s.Inv) : Keeps (execEncoderTileArrival die s) := by
  simp only [execEncoderTileArrival]
  (repeat' split) <;> simp [State.Inv, h]
@[simp] theorem execFrameClose_inv (s : State) (die stream) (h : s.Inv) : Keeps (execFrameClose die stream s) := by
  simp [execFrameClose, State.Inv, h]
@[simp] theorem State.ringWrite_inv (s : State) (die part base size at' b) (h : s.Inv) : (s.ringWrite die part base size at' b).1.Inv := by
  simp only [State.ringWrite]
  split
  · exact State.partStore_inv _ _ _ _ _ (partStore_inv_of_eq h ‹_›)
  · exact State.partStore_inv _ _ _ _ _ h
@[simp] theorem execFrameOutput_inv (s : State) (die stream) (h : s.Inv) : Keeps (execFrameOutput die stream s) := by
  unfold execFrameOutput
  extract_lets t core
  split
  · exact h
  · rename_i reg part b rest _
    extract_lets base size octr t0 lost
    have hl : ∀ u c, u.Inv → Keeps (.next (lost u c) : Host.Outcome State Fault Refusal) := fun u c hu => by
      simpa [lost, State.Inv] using hu
    split
    · exact h
    · split
      · exact hl _ _ h
      · split
        · exact hl _ _ h
        · exact h
        · split
          · simpa [State.Inv] using h
          · split
            · exact h
            · split <;> rename_i hw
              all_goals have hu := inv_of_fst hw (State.ringWrite_inv _ _ _ _ _ _ _ h)
              · exact hl _ _ hu
              · rename_i u
                have hv : Ensures (match u.unitCounter core part true octr with
                  | .error c => Except.error (Stop.trap c)
                  | .ok _ => u.post core part false octr b.length) State.Inv := by
                  split
                  · exact ensures_error _ _
                  · exact post_ensures _ _ _ _ _ _ hu
                split
                · exact hl _ _ hu
                · exact h
                · simpa [State.Inv] using hv _ ‹_›

end Sys2Proof.Machine
end

section
/-! ### Check heats (Machine/Heat) -/

namespace Sys2Proof.Machine

@[simp] theorem State.startHeat_mem (s : State) (k i r third) : (s.startHeat k i r third).mem = s.mem := by
  simp [State.startHeat]
@[simp] theorem State.setSlot_mem (s : State) (part i r) : (s.setSlot part i r).mem = s.mem := by
  simp [State.setSlot]
@[simp] theorem State.freeSlotOf_mem (s : State) (part i) : (s.freeSlotOf part i).mem = s.mem := by
  simp [State.freeSlotOf]
@[simp] theorem execCheckHeatStart_inv (s : State) (part) (h : s.Inv) : Keeps (execCheckHeatStart part s) := by
  unfold execCheckHeatStart
  extract_lets p
  split
  · exact h
  · split
    · exact h
    · split
      · simpa [State.Inv] using h
      · split
        · exact State.heatCount_inv _ _ _ (by simpa [State.Inv] using h)
        · extract_lets core s0
          have h0 : s0.Inv := by simpa [s0, State.Inv] using h
          split
          · exact h
          · simpa [State.Inv] using State.slotSync_inv _ _ _ _ (by simpa [State.Inv] using h0)
@[simp] theorem State.setScore_mem (s : State) (core v) : (s.setScore core v).mem = s.mem := by
  simp [State.setScore]
@[simp] theorem State.writeRanks_inv (s : State) (part cells) (h : s.Inv) : (s.writeRanks part cells).Inv := by
  refine foldl_inv _ (fun t r ht => State.setRank_inv _ _ _ _ ht) _ _ (foldl_inv _ (fun t e ht => State.setRank_inv _ _ _ _ ht) _ _ ?_)
  simpa [State.Inv] using h
@[simp] theorem State.dropHeat_mem (s : State) (part k) : (s.dropHeat part k).mem = s.mem := by
  simp only [State.dropHeat]
  (repeat' split) <;> simp
@[simp] theorem State.shrink_inv (s : State) (part cell) (h : s.Inv) : (s.shrink part cell).Inv := by
  unfold State.shrink
  extract_lets s0 p cells s1 q
  have h0 : s0.Inv := foldl_inv _ (fun t i ht => by split <;> simpa [State.Inv] using ht) _ _ h
  have h1 : s1.Inv := State.writeRanks_inv _ _ _ h0
  simpa [State.Inv] using h1
@[simp] theorem State.loseCell_inv (s : State) (part cell) (h : s.Inv) : (s.loseCell part cell).Inv := by
  refine State.asOwner_inv _ _ _ h fun u hu => ?_
  extract_lets u0 u1 p
  have h0 : u0.Inv := foldl_inv _ (fun t i ht => by split <;> simpa [State.Inv] using ht) _ _ hu
  have h1 : u1.Inv := by simpa [u1, State.Inv] using State.heatCount_inv _ _ _ h0
  split
  · exact State.shrink_inv _ _ _ h1
  · extract_lets u2
    have h2 : u2.Inv := by simpa [u2, State.Inv] using h1
    simpa [State.Inv] using foldl_inv (fun t (r : Nat × Word) => t.setRank part r.1 (r.2 ||| 0x4000000000000000))
      (fun t r ht => t.setRank_inv _ _ _ ht) _ _ h2
/-- Slots freed in a fold leave memory as it was. -/
theorem freeSlots_mem (s : State) (part : Nat) (l : List Nat) : (l.foldl (fun t i => t.freeSlotOf part i) s).mem = s.mem :=
  foldl_mem _ (fun t i => by simp) _ _
@[simp] theorem State.disqualify_inv (s : State) (cell) (h : s.Inv) : (s.disqualify cell).Inv := by
  unfold State.disqualify
  extract_lets u mine s0 src s1 s2 left
  split
  · exact h
  · have h1 : s1.Inv := by
      have h0 : s0.mem = s.mem := foldl_mem _ (fun t p => freeSlots_mem _ _ _) _ _
      simpa [s1, State.Inv, h0] using h
    have h2 : s2.Inv := foldl_inv _ (fun t p ht => State.loseCell_inv _ _ _ ht) _ _ h1
    split
    · exact h2
    · exact h2
@[simp] theorem State.raise_inv (s : State) (core n) (h : s.Inv) : (s.raise core n).Inv := by
  unfold State.raise
  extract_lets s0 cell mine s1 src s2
  have h0 : s0.Inv := by simpa [s0, State.Inv] using h
  split
  · exact h0
  · split
    · refine foldl_inv _ (fun t p ht => State.loseCell_inv _ _ _ ht) _ _ ?_
      have h1 : s1.mem = s0.mem := foldl_mem _ (fun t p => freeSlots_mem _ _ _) _ _
      simpa [s2, State.Inv, h1] using h0
    · exact State.disqualify_inv _ _ h0
@[simp] theorem State.unresolved_inv (s : State) (part i core r) (h : s.Inv) : (s.unresolved part i core r).Inv := by
  simp [State.unresolved, State.Inv, State.heatCount_inv, h]
@[simp] theorem execCheckVerdict_inv (s : State) (part slot) (h : s.Inv) : Keeps (execCheckVerdict part slot s) := by
  unfold execCheckVerdict
  extract_lets p s0 q
  have h0 : s0.Inv := by
    simp only [s0]
    split
    · exact State.slotSync_inv _ _ _ _ h
    · exact h
  split
  · exact h0
  · split
    · extract_lets x y z
      split
      · simpa [State.Inv] using State.raise_inv _ y 32 (show ((s0.setScore x 0).setScore z 0).Inv by simpa [State.Inv] using h0)
      · split
        · simpa [State.Inv] using State.raise_inv _ x 32 (show ((s0.setScore y 0).setScore z 0).Inv by simpa [State.Inv] using h0)
        · exact State.unresolved_inv _ _ _ _ _ (State.raise_inv _ _ _ h0)
    · split
      · exact h0
      · split
        · simpa [State.Inv] using State.heatCount_inv _ _ _ h0
        · extract_lets y s1
          have h1 : s1.Inv := State.raise_inv _ _ _ (State.raise_inv _ _ _ h0)
          split
          · exact h1
          · exact State.unresolved_inv _ _ _ _ _ h1
          · simpa [State.Inv] using h1
    · exact h0
@[simp] theorem execThirdHeatStart_inv (s : State) (part slot) (h : s.Inv) : Keeps (execThirdHeatStart part slot s) := by
  unfold execThirdHeatStart
  extract_lets p
  split
  · exact h
  · split
    · simpa [State.Inv] using h
    · extract_lets y
      split
      · exact State.unresolved_inv _ _ _ _ _ h
      · split
        · exact h
        · extract_lets r' s0
          have h0 : s0.Inv := by simpa [s0, State.Inv] using h
          simpa [State.Inv] using State.slotSync_inv _ _ _ _ (State.heatCount_inv _ _ _ h0)
@[simp] theorem execScoreDecay_inv (s : State) (h : s.Inv) : Keeps (execScoreDecay s) := by
  simp [execScoreDecay, State.Inv, h]
@[simp] theorem State.rampDie_mem (s : State) (die) : (s.rampDie die).mem = s.mem := by
  simp [State.rampDie]
@[simp] theorem execSyncRelease_inv (s : State) (part) (h : s.Inv) : Keeps (execSyncRelease part s) := by
  unfold execSyncRelease
  extract_lets p s0 s1 s2
  have h0 : s0.Inv := by simpa [s0, State.Inv] using h
  split
  · exact h
  · split
    · exact foldl_inv _ (fun t d ht => by simpa [State.Inv] using ht) _ _ h
    · split
      · exact h
      · split
        · exact h0
        · have h1 : s1.Inv := foldl_inv _ (fun t c ht => State.disqualify_inv _ _ ht) _ _ h0
          have h2 : s2.Inv := foldl_inv _ (fun t c ht => by simpa [State.Inv] using ht) _ _ h1
          exact foldl_inv _ (fun t d ht => by simpa [State.Inv] using ht) _ _ h2

end Sys2Proof.Machine
end

section
/-! ### Partitions, switches and snapshots (Machine/Switch) -/

namespace Sys2Proof.Machine

@[simp] theorem State.charge_mem (s : State) (ss) : (s.charge ss).mem = s.mem := by
  simp only [State.charge]
  (repeat' split) <;> simp
@[simp] theorem execPaceTick_inv (s : State) (h : s.Inv) : Keeps (execPaceTick s) := by
  simp only [execPaceTick]
  (repeat' split) <;> simp -implicitDefEqProofs [State.Inv, h, foldl_mem]
@[simp] theorem State.paceLoss_mem (s : State) : (s.paceLoss).mem = s.mem := by
  simp -implicitDefEqProofs [State.paceLoss, foldl_mem]
@[simp] theorem execPaceTimestampExchange_inv (s : State) (stamp) (h : s.Inv) : Keeps (execPaceTimestampExchange stamp s) := by
  simp [execPaceTimestampExchange, State.Inv, h]
@[simp] theorem execPaceClockLost_inv (s : State) (h : s.Inv) : Keeps (execPaceClockLost s) := by
  simp [execPaceClockLost, State.Inv, h]
@[simp] theorem execPowerMeasurement_inv (s : State) (die watts) (h : s.Inv) : Keeps (execPowerMeasurement die watts s) := by
  simp [execPowerMeasurement, State.Inv, h]
@[simp] theorem execBudgetPeriodStart_inv (s : State) (part) (h : s.Inv) : Keeps (execBudgetPeriodStart part s) := by
  simp [execBudgetPeriodStart, State.Inv, h]
@[simp] theorem execShareSetChoice_inv (s : State) (ss) (h : s.Inv) : Keeps (execShareSetChoice ss s) := by
  simp only [execShareSetChoice]
  (repeat' split) <;> simp [State.Inv, h]
@[simp] theorem State.strike_mem (s : State) (k) : (s.strike k).mem = s.mem := by
  simp only [State.strike]
  (repeat' split) <;> simp
@[simp] theorem State.overrun_mem (s : State) (core) : (s.overrun core).mem = s.mem := by
  simp -implicitDefEqProofs [State.overrun, foldl_mem]
@[simp] theorem State.coolCore_mem (s : State) (part core) : (s.coolCore part core).mem = s.mem := by
  simp -implicitDefEqProofs [State.coolCore, foldl_mem]
@[simp] theorem State.placeSet_mem (s : State) (ss) : (s.placeSet ss).mem = s.mem := by
  simp -implicitDefEqProofs [State.placeSet, foldl_mem]
@[simp] theorem State.saveAreas_inv (s : State) (p) (h : s.Inv) : (s.saveAreas p).Inv := by
  refine foldl_inv _ (fun t e ht => ?_) _ _ h
  simpa [State.Inv] using State.putBytes_inv _ 0 e.2 (s.areaBytes e.1) ht
@[simp] theorem execSwitchOut_inv (s : State) (part) (h : s.Inv) : Keeps (execSwitchOut part s) := by
  simp only [execSwitchOut]
  (repeat' split) <;> simp -implicitDefEqProofs [State.Inv, h, foldl_mem]
@[simp] theorem execSwitchIn_inv (s : State) (part) (h : s.Inv) : Keeps (execSwitchIn part s) := by
  unfold execSwitchIn
  extract_lets p s0 s1 src s2
  have h0 : s0.mem = s.mem := by
    simp only [s0]
    split
    · rfl
    · refine (foldl_mem _ (fun t e => by simp) _ _).trans ?_
      simp -implicitDefEqProofs [foldl_mem]
  split
  · exact h
  · extract_lets v s3
    have h3 : s3.Inv := by simpa -implicitDefEqProofs [s3, s2, s1, State.Inv, foldl_mem, h0] using h
    split
    · exact h
    · split
      · simpa [State.Inv] using h
      · exact foldl_inv _ (fun t c ht => State.drainHeld_inv _ _ _ _ ht) _ _ h3
@[simp] theorem State.setPins_mem (s : State) (w) : (s.setPins w).mem = s.mem := by
  simp -implicitDefEqProofs [State.setPins, foldl_mem]
@[simp] theorem State.bind_mem (s : State) (part l) : (s.bind part l).mem = s.mem := by
  simp -implicitDefEqProofs [State.bind, foldl_mem]
@[simp] theorem State.changeMode_mem (s : State) (part det) : (s.changeMode part det).mem = s.mem := by
  simp [State.changeMode]
@[simp] theorem execPartitionCreate_inv (s : State) (part det ss cells words) (h : s.Inv) :
    Keeps (execPartitionCreate part det ss cells words s) := by
  simp only [execPartitionCreate]
  (repeat' split) <;> simp -implicitDefEqProofs [State.Inv, h, foldl_mem]
@[simp] theorem State.wipe_mem (s : State) (k) : (s.wipe k).mem = s.mem := by
  simp [State.wipe]
@[simp] theorem execPartitionRemoval_inv (s : State) (part) (h : s.Inv) : Keeps (execPartitionRemoval part s) := by
  simp only [execPartitionRemoval]
  (repeat' split) <;> simp -implicitDefEqProofs [State.Inv, h, foldl_mem]
@[simp] theorem execSnapshotTrigger_inv (s : State) (h : s.Inv) : Keeps (execSnapshotTrigger s) := by
  simp only [execSnapshotTrigger]
  (repeat' split) <;> simp -implicitDefEqProofs [State.Inv, h, foldl_mem]
@[simp] theorem execSnapshotLatch_inv (s : State) (part) (h : s.Inv) : Keeps (execSnapshotLatch part s) := by
  simp only [execSnapshotLatch]
  (repeat' split) <;> simp [State.Inv, h]
@[simp] theorem execSnapshotImageDone_inv (s : State) (part) (h : s.Inv) : Keeps (execSnapshotImageDone part s) := by
  unfold execSnapshotImageDone
  extract_lets p base seq die
  split
  · exact h
  · split
    · exact h
    · split <;> simpa [State.Inv] using partStore_inv_of_eq h ‹_›

end Sys2Proof.Machine
end

section
/-! ### Unblocking (Machine/Unblock) -/

namespace Sys2Proof.Machine

@[simp] theorem State.gangReady_mem (s : State) (key g) : (s.gangReady key g).mem = s.mem := by
  simp -implicitDefEqProofs [State.gangReady, foldl_mem]
@[simp] theorem State.leaveDone_mem (s : State) (key) : (s.leaveDone key).mem = s.mem := by
  simp [State.leaveDone]
@[simp] theorem execContextUnblock_inv (s : State) (key) (h : s.Inv) : Keeps (execContextUnblock key s) := by
  simp only [execContextUnblock]
  (repeat' split) <;> simp -implicitDefEqProofs [State.Inv, h, foldl_mem]
@[simp] theorem State.boundary_inv (s : State) (k) (h : s.Inv) : (s.boundary k).1.Inv := by
  simp only [State.boundary]
  (repeat' split) <;> simp [State.Inv, h]
@[simp] theorem execAsynchronousCause_inv (s : State) (key) (h : s.Inv) : Keeps (execAsynchronousCause key s) := by
  simp only [execAsynchronousCause]
  (repeat' split) <;> simp [State.Inv, h]

end Sys2Proof.Machine
end

section
/-! ### The dispatch (Machine/Dispatch) -/

namespace Sys2Proof.Machine

/-- Every arm of the dispatch keeps the form, each by the lemma of its own step. -/
@[simp] theorem exec_inv (s : State) (i) (h : s.Inv) : Keeps (exec i s) := by
  unfold exec
  split <;> simp [State.Inv, h]

end Sys2Proof.Machine
end

section
/-! ### How the module moves (Machine/Run) -/

namespace Sys2Proof.Machine

@[simp] theorem State.streamTrap_mem (s : State) (k c member) : (s.streamTrap k c member).mem = s.mem := by
  simp only [State.streamTrap]
  split <;> simp
@[simp] theorem State.memberExec_inv (s : State) (leader m i) (h : s.Inv) : Keeps (s.memberExec leader m i) := by
  simp only [State.memberExec]
  split
  · simp [State.Inv, h]
  · split
    · simp [State.Inv, h]
    · split <;> simp [State.Inv, h]

/-- The state that a member leaves, where it leaves one, is in canonical form. -/
def MemberEnd.Inv : MemberEnd → Prop
  | .done s => s.Inv
  | .waits s _ => s.Inv
  | .traps _ => True

theorem State.memberPart_inv (s : State) (leader m : Nat) (i : Instr) (h : s.Inv) : (s.memberPart leader m i).Inv := by
  unfold State.memberPart
  split
  · exact h
  · have he := s.memberExec_inv leader m i h
    split
    next t ht =>
      rw [ht] at he
      split
      · trivial
      · split <;> exact he
    · exact h
    · exact h

@[simp] theorem State.issuedBy_mem (s : State) (k : Nat) : (s.issuedBy k).mem = s.mem := by simp [State.issuedBy]

@[simp] theorem State.gangDo_inv (s : State) (leader i ms) (h : s.Inv) : (State.gangDo leader i ms s).Inv := by
  induction ms generalizing s with
  | nil => exact h
  | cons m t ih =>
    have hm := s.memberPart_inv leader m i h
    unfold State.gangDo
    split
    next u hu =>
      rw [hu] at hm
      have hu' : u.Inv := hm
      refine ih _ ?_
      split
      · exact hu'
      · simpa [State.Inv] using hu'
    · exact ih s h

@[simp] theorem State.gangHold_inv (s : State) (leader i ms) (h : s.Inv) : (State.gangHold leader i ms s).Inv := by
  induction ms generalizing s with
  | nil => exact h
  | cons m t ih =>
    have hm := s.memberPart_inv leader m i h
    unfold State.gangHold
    extract_lets held
    have hh : ∀ (u : State) w, u.Inv → (held u w).Inv := fun u w hu => by simpa [held, State.Inv] using hu
    split
    next u w hu => exact ih _ (hh _ _ (by rwa [hu] at hm))
    next u hu =>
      split
      · rw [hu] at hm
        have hu' : u.Inv := hm
        exact ih _ (hh _ _ (by simpa [State.Inv] using hu'))
      · exact ih _ (hh _ _ h)
    · exact ih s h

@[simp] theorem State.gangFollow_mem (s : State) (leader ms) : (s.gangFollow leader ms).mem = s.mem := by
  refine foldl_mem _ (fun t m => ?_) _ _
  split <;> simp
@[simp] theorem State.gangWord_inv (s : State) (leader g i) (h : s.Inv) : Keeps (s.gangWord leader g i) := by
  unfold State.gangWord
  split
  · simpa [State.Inv] using h
  · split
    · simpa [State.Inv] using s.gangHold_inv leader i g.members h
    · simpa [State.Inv] using s.gangDo_inv leader i g.members h

@[simp] theorem State.issued_mem (s : State) (k own) : (s.issued k own).mem = s.mem := by
  simp only [State.issued]
  split <;> simp
@[simp] theorem State.refetch_mem (s : State) (k i) : (s.refetch k i).mem = s.mem := by
  unfold State.refetch
  split <;> simp
@[simp] theorem State.perform_inv (s : State) (k i) (h : s.Inv) : Keeps (s.perform k i) := by
  unfold State.perform
  split
  · simpa [State.Inv] using h
  · split
    · simp [State.Inv, h]
    · split <;> simp [State.Inv, h]
@[simp] theorem State.ownWord_inv (s : State) (k) (h : s.Inv) : Keeps (s.ownWord k) := by
  unfold State.ownWord
  extract_lets s0
  have h0 : s0.Inv := by simpa [s0, State.Inv] using h
  clear_value s0
  split
  · simpa [State.Inv] using h0
  · exact State.perform_inv _ _ _ h0
@[simp] theorem State.contextTurn_inv (s : State) (k) (h : s.Inv) : Keeps (s.contextTurn k) := by
  unfold State.contextTurn
  extract_lets x own
  split
  · exact execDeferredTrap_inv s _ h
  · split
    · exact execAsynchronousCause_inv s _ h
    · split
      · exact execRepetitionSequencerIssue_inv _ _ (by simpa [State.Inv] using h)
      · split
        · exact s.ownWord_inv k h
        · exact h
@[simp] theorem State.passClock_inv (s : State) (h : s.Inv) : Keeps s.passClock := by
  unfold State.passClock
  split <;> simp [State.Inv, h]
@[simp] theorem State.coreTurn_inv (s : State) (core rest) (h : s.Inv) : Keeps (s.coreTurn core rest) := by
  simp only [State.coreTurn]
  split
  · exact s.passClock_inv h
  · split <;> simp [State.Inv, h]

end Sys2Proof.Machine
end

section
/-! ### The module's own choice, and the step -/

namespace Sys2Proof.Machine

/-- Every step of a list keeps the form. -/
def AllKeep (l : List (State → Host.Outcome State Fault Refusal)) : Prop := ∀ f ∈ l, ∀ u : State, u.Inv → Keeps (f u)

@[simp] theorem allKeep_nil : AllKeep [] := by simp [AllKeep]
@[simp] theorem allKeep_cons (f : State → Host.Outcome State Fault Refusal) (l : List (State → Host.Outcome State Fault Refusal)) :
    AllKeep (f :: l) ↔ (∀ u : State, u.Inv → Keeps (f u)) ∧ AllKeep l := List.forall_mem_cons
@[simp] theorem allKeep_append (l m : List (State → Host.Outcome State Fault Refusal)) : AllKeep (l ++ m) ↔ AllKeep l ∧ AllKeep m :=
  List.forall_mem_append
@[simp] theorem allKeep_ite (c : Prop) [Decidable c] (l m : List (State → Host.Outcome State Fault Refusal)) :
    AllKeep (if c then l else m) ↔ if c then AllKeep l else AllKeep m := by split <;> rfl
@[simp] theorem allKeep_map {α : Type} (l : List α) (f : α → State → Host.Outcome State Fault Refusal) :
    AllKeep (l.map f) ↔ ∀ a ∈ l, ∀ u : State, u.Inv → Keeps (f a u) := List.forall_mem_map
@[simp] theorem allKeep_flatMap {α : Type} (l : List α) (f : α → List (State → Host.Outcome State Fault Refusal)) :
    AllKeep (l.flatMap f) ↔ ∀ a ∈ l, AllKeep (f a) := List.forall_mem_flatMap

/-- The first step that changes the state is one of the list. -/
theorem State.firstChange_inv (s : State) (l) (h : s.Inv) (hl : AllKeep l) : OnSome (s.firstChange l) State.Inv := by
  induction l with
  | nil => exact onSome_none _
  | cons f t ih =>
    obtain ⟨hf, ht⟩ := (allKeep_cons f t).1 hl
    unfold State.firstChange
    split
    next u hu =>
      have hk := hf s h
      rw [hu] at hk
      split
      · exact ih ht
      · exact (onSome_some _ _).2 hk
    · exact ih ht

theorem State.ctxDue_keep (s : State) (k : Nat) : AllKeep (s.ctxDue k) := by
  simp only [State.ctxDue]
  (repeat' split) <;> simp +contextual [State.Inv]
theorem State.coreDue_keep (s : State) (n : Nat) : AllKeep (s.coreDue n) := by
  simp +contextual [State.coreDue, State.Inv]
theorem State.cellDue_keep (s : State) (n : Nat) : AllKeep (s.cellDue n) := by
  simp +contextual [State.cellDue, State.Inv]
theorem State.cluDue_keep (s : State) (n : Nat) : AllKeep (s.cluDue n) := by
  simp +contextual [State.cluDue, State.Inv]
theorem State.dieDue_keep (s : State) (n : Nat) : AllKeep (s.dieDue n) := by
  simp +contextual [State.dieDue, State.Inv]
theorem State.partDue_keep (s : State) (n : Nat) : AllKeep (s.partDue n) := by
  simp only [State.partDue]
  split <;> simp +contextual [State.Inv]
/-- Every step that may be due keeps the form. -/
theorem State.due_keep (s : State) : AllKeep s.due := by
  simp +contextual [State.due, State.Inv, State.ctxDue_keep, State.coreDue_keep, State.cellDue_keep,
    State.cluDue_keep, State.dieDue_keep, State.partDue_keep]

@[simp] theorem State.autonomous_inv (s : State) (h : s.Inv) : Keeps s.autonomous := by
  have hd := s.firstChange_inv s.due h s.due_keep
  unfold State.autonomous
  split
  · exact execReset_inv s
  · split
    · exact execFabricLinkUp_inv s _ _ h
    · split
      · exact hd _ ‹_›
      · split
        · exact s.coreTurn_inv _ _ h
        · exact s.passClock_inv h
@[simp] theorem State.move_inv (s : State) (h : s.Inv) : Keeps s.move := by
  unfold State.move
  (repeat' split) <;> simp [State.Inv, h]
/-- A step keeps the form. -/
theorem step_inv (s : State) (h : s.Inv) : Keeps (step s) := s.move_inv h

/-- Settles O59: each function that a step is made of keeps the form, so the step does. -/
theorem stepKeepsInvariant : Obligations.StepKeepsInvariant := by
  unfold Obligations.StepKeepsInvariant
  intro s t h hs
  have hk := step_inv s h
  rwa [hs] at hk

end Sys2Proof.Machine
end

section
/-! SUPPORT. What a release of SYNC's round leaves as it was (O45): no step of it moves the clock, and those on the cores and
the dies leave the partitions alone. One `f_clock` for each function that a release is made of, in the model's order. -/

namespace Sys2Proof.Machine

/-- A fold of steps that each leave what `g` reads of the state as it was leaves it as it was. -/
theorem foldl_keeps {α β : Type} (g : State → β) (f : State → α → State) (h : ∀ s a, g (f s a) = g s) (l : List α) (s : State) :
    g (l.foldl f s) = g s := by
  induction l generalizing s with
  | nil => rfl
  | cons a t ih => rw [List.foldl_cons, ih, h]
theorem foldl_clock {α : Type} (f : State → α → State) (h : ∀ s a, (f s a).clock = s.clock) (l : List α) (s : State) :
    (l.foldl f s).clock = s.clock := foldl_keeps State.clock f h l s

/-! ### The shared operations -/

@[simp] theorem State.notice_clock (s : State) (p w) : (s.notice p w).clock = s.clock := by
  simp only [State.notice]; split <;> rfl
@[simp] theorem State.causeNotice_clock (s : State) (p c src coord epc t) : (s.causeNotice p c src coord epc t).clock = s.clock := by
  simp [State.causeNotice]
@[simp] theorem State.firePhys_clock (s : State) (pa n) : (s.firePhys pa n).clock = s.clock := rfl
@[simp] theorem State.fireCompletion_clock (s : State) (core) : (s.fireCompletion core).clock = s.clock := rfl
@[simp] theorem State.stampTo_clock (s : State) (src dst) : (s.stampTo src dst).clock = s.clock := by
  simp only [State.stampTo]; split <;> rfl
/-- Changes made to a partition's units wherever they stand keep the clock when the changes do. -/
theorem State.asOwner_clock (s : State) (part : Nat) (f : State → State) (hf : ∀ t, (f t).clock = t.clock) :
    (s.asOwner part f).clock = s.clock := by
  simp only [State.asOwner]
  split
  · exact hf s
  · simp -implicitDefEqProofs [foldl_clock, hf]
@[simp] theorem State.rekey_clock (s : State) (key pa) : (s.rekey key pa).clock = s.clock := by
  simp only [State.rekey]; split <;> rfl
@[simp] theorem State.putBytes_clock (s : State) (key pa b) : (s.putBytes key pa b).clock = s.clock := by
  induction b generalizing s pa with
  | nil => rfl
  | cons v t ih => simp [State.putBytes, ih, State.putByte]

/-! ### The caches -/

@[simp] theorem State.wakeSlice_clock (s : State) (h) : (s.wakeSlice h).clock = s.clock := by
  simp only [State.wakeSlice]; split <;> rfl
@[simp] theorem State.nearAlloc_clock (s : State) (pa l) : (s.nearAlloc pa l).clock = s.clock := rfl
@[simp] theorem State.nearBack_clock (s : State) (l) : (s.nearBack l).clock = s.clock := by
  simp only [State.nearBack]
  (repeat' split) <;> rfl
@[simp] theorem State.evict_clock (s : State) (core line) : (s.evict core line).clock = s.clock := by
  simp [State.evict, foldl_clock]
@[simp] theorem State.bump_clock (s : State) (n) : (s.bump n).clock = s.clock := rfl
@[simp] theorem State.l1Touch_clock (s : State) (core key pa m d) : (s.l1Touch core key pa m d).clock = s.clock := by
  simp only [State.l1Touch]
  (repeat' split) <;> simp
@[simp] theorem State.mergeFill_clock (s : State) (pa) : (s.mergeFill pa).clock = s.clock := by
  simp only [State.mergeFill]
  (repeat' split) <;> simp [foldl_clock]
@[simp] theorem State.nearTouch_clock (s : State) (key pa m d) : (s.nearTouch key pa m d).clock = s.clock := by
  simp only [State.nearTouch]
  (repeat' split) <;> simp
@[simp] theorem State.homeTouch_clock (s : State) (key pa n hb w) : (s.homeTouch key pa n hb w).clock = s.clock := by
  simp only [State.homeTouch]
  split
  · rfl
  · simp [foldl_clock]

/-! ### Tasks, check heats and cells -/

@[simp] theorem State.exchEnd_clock (s : State) (k) : (s.exchEnd k).clock = s.clock := by
  simp only [State.exchEnd]; split <;> rfl
@[simp] theorem State.returnTask_clock (s : State) (k) : (s.returnTask k).clock = s.clock := by
  simp only [State.returnTask]
  (repeat' split) <;> simp
@[simp] theorem State.endTask_clock (s : State) (k) : (s.endTask k).clock = s.clock := by
  simp [State.endTask, foldl_clock]
@[simp] theorem State.dropMq_clock (s : State) (k) : (s.dropMq k).clock = s.clock := by
  simp only [State.dropMq]; split <;> rfl
@[simp] theorem State.setRank_clock (s : State) (part rank e) : (s.setRank part rank e).clock = s.clock := by
  simp [State.setRank]
@[simp] theorem State.heatAdd_clock (s : State) (part p) : (s.heatAdd part p).clock = s.clock := by
  simp only [State.heatAdd]
  (repeat' split) <;> simp
@[simp] theorem State.heatCount_clock (s : State) (part off) : (s.heatCount part off).clock = s.clock := by
  simp only [State.heatCount]
  (repeat' split) <;> simp
@[simp] theorem State.retire_clock (s : State) (part cell) : (s.retire part cell).clock = s.clock := by
  simp only [State.retire]; split <;> rfl
@[simp] theorem State.freeSlotOf_clock (s : State) (part i) : (s.freeSlotOf part i).clock = s.clock := rfl
@[simp] theorem State.writeRanks_clock (s : State) (part cells) : (s.writeRanks part cells).clock = s.clock := by
  simp [State.writeRanks, foldl_clock]
@[simp] theorem State.dropHeat_clock (s : State) (part k) : (s.dropHeat part k).clock = s.clock := by
  simp only [State.dropHeat]
  split <;> simp
@[simp] theorem State.shrink_clock (s : State) (part cell) : (s.shrink part cell).clock = s.clock := by
  simp only [State.shrink, State.setCell_clock, State.setPart_clock, State.writeRanks_clock]
  exact foldl_clock _ (fun t i => by split <;> simp) _ _
@[simp] theorem State.loseCell_clock (s : State) (part cell) : (s.loseCell part cell).clock = s.clock := by
  refine State.asOwner_clock _ _ _ fun t => ?_
  extract_lets t0 t1 p
  have h0 : t0.clock = t.clock := foldl_clock _ (fun u i => by split <;> simp) _ _
  have h1 : t1.clock = t.clock := by simp [t1, h0]
  split
  · simp [h1]
  · simp [foldl_clock, h1]
@[simp] theorem State.disqualify_clock (s : State) (cell) : (s.disqualify cell).clock = s.clock := by
  unfold State.disqualify
  extract_lets u mine s0 src s1 s2 left
  have h0 : s0.clock = s.clock := foldl_clock _ (fun t p => foldl_clock _ (fun v i => v.freeSlotOf_clock p i) _ _) _ _
  have h2 : s2.clock = s.clock := (foldl_clock _ (fun t p => t.loseCell_clock p cell) _ _).trans (by simp [s1, h0])
  split
  · rfl
  · split <;> exact h2

/-! ### The release -/

@[simp] theorem State.rampDie_part (s : State) (die p) : (s.rampDie die).part p = s.part p := by
  simp only [State.rampDie]; split <;> rfl
@[simp] theorem State.coreRelease_clock (s : State) (core) : (s.coreRelease core).clock = s.clock := by
  simp only [State.coreRelease]; split <;> rfl
@[simp] theorem State.coreRelease_part (s : State) (core p) : (s.coreRelease core).part p = s.part p := by
  simp only [State.coreRelease]; split <;> rfl
@[simp] theorem State.dieRelease_clock (s : State) (die) : (s.dieRelease die).clock = s.clock := by
  simp only [State.dieRelease]; split <;> rfl
@[simp] theorem State.dieRelease_part (s : State) (die p) : (s.dieRelease die).part p = s.part p := by
  simp only [State.dieRelease]; split <;> rfl

end Sys2Proof.Machine
end

section
/-! SUPPORT. What each step of a launch does in each of its cases (O45), one equation for a case. -/

namespace Sys2Proof.Machine

/-! ### Messages -/

section
variable {s : State} {m : Message}

/-- The oldest unsent message of a core leaves its interface, or stands there when it cannot be delivered yet. -/
theorem exec_launchMessageArrival {core : Nat} {t : List Message} (hc : core < 2 ^ 18) (hu : (s.core core).unsent = m :: t) :
    exec (.launchMessageArrival core) s = .next (((s.setCore core { s.core core with unsent := t }).deliver m).getD s) := by
  simp only [exec, execLaunchMessageArrival, if_pos hc, hu]

theorem State.refuseAs_task (c : CauseRec) (hk : m.kind = 0) :
    s.refuseAs m c = s.postTo m.part (m.sender / 4) m.sender m.task 1 c := by simp only [State.refuseAs, hk]
/-- A context is told nothing of an acceptance. -/
theorem State.taken_task (hk : m.kind = 0) : s.taken m = s := by simp [State.taken, State.accept, hk]

theorem State.deliver_unbound (hm : m.mbox ≠ mgmtMailbox) (hb : (s.part m.part).bound m.mbox = none)
    (hf : (s.part m.part).forward m.mbox = none) : s.deliver m = some (s.refuse m 0x31) := by
  simp [State.deliver, hm, hb, hf]
theorem State.deliver_bound {core : Nat} {e : Word} (hm : m.mbox ≠ mgmtMailbox)
    (hb : (s.part m.part).bound m.mbox = some (core, e)) : s.deliver m = s.arrive m m.part core e := by
  simp [State.deliver, hm, hb]

variable {part core : Nat} {bound : Word} (ha : s.mayArrive m.die (dieOf core) = true)
include ha

theorem State.arrive_outOfService (hv : s.validCell (core / 4) = false) :
    s.arrive m part core bound = some (s.refuseAs m { code := 0x2B, info := BitVec.ofNat 32 core, va := 0 }) := by
  simp [State.arrive, ha, hv]
theorem State.arrive_malformed (hv : s.validCell (core / 4) = true)
    (hb : headerBad (s.part part).det (s.listBusy part core) bound m.hdr = true) :
    s.arrive m part core bound = some (s.refuse m 0x30) := by
  simp [State.arrive, ha, hv, hb]
/-- A header joins the queue of a core that serves its partition, behind no message held for it. -/
theorem State.arrive_queued (hv : s.validCell (core / 4) = true)
    (hb : headerBad (s.part part).det (s.listBusy part core) bound m.hdr = false) (hp : (s.cell (core / 4)).part = some part)
    (hh : SMap.get (s.cell (core / 4)).holding [] part = []) (hq : (s.core core).launchQ.length < 16) :
    s.arrive m part core bound = some (((s.stampTo m.die (dieOf core)).setCore core
      { s.core core with launchQ := (s.core core).launchQ ++ [headerOf m bound 0 s.pace] }).taken m) := by
  simp [State.arrive, ha, hv, hb, hp, hh, hq]

end

@[simp] theorem State.stampTo_core (s : State) (src dst core) : (s.stampTo src dst).core core = s.core core := by
  simp only [State.stampTo]; split <;> rfl

/-! ### The start of a task -/

/-- The task that a header starts. -/
def Header.handler (h : Header) : Task :=
  { kind := .handler, hdr := h.hdr, mbox := h.mbox, num := 0, reserved := h.reserved, slot := h.slot, check := none, follower := false }

@[simp] theorem State.bump_core (s : State) (n core) : (s.bump n).core core = s.core core := rfl
@[simp] theorem State.bump_wroteNum (s : State) (n) : (s.bump n).wroteNum = s.wroteNum := rfl
@[simp] theorem State.freshFetch_core (s : State) (k core) : (s.freshFetch k).core core = s.core core := by
  simp only [State.freshFetch]; split <;> rfl
@[simp] theorem State.freshFetch_ctx_same (s : State) (k) : (s.freshFetch k).ctx k = { s.ctx k with seen := s.wroteNum } := by
  simp only [State.freshFetch]
  split
  · exact State.setCtx_ctx_same _ _ _
  · exact State.setCtx_ctx_same _ _ _
@[simp] theorem State.startTask_core (s : State) (k t pc param late core) : (s.startTask k t pc param late).core core = s.core core := by
  simp [State.startTask]
/-- The context a task starts on has the registers of a start, and no earlier fetch. -/
theorem State.startTask_ctx_same (s : State) (k t pc param late) :
    (s.startTask k t pc param late).ctx k =
      { (s.ctx k).start { t with num := (s.free + 1) * 256 + (hdrTenant t.hdr).toNat } pc param (Config.freeWord s.free)
          ((s.part (s.partOf (k / 4))).desc[1] &&& 0x00FFFFFFFFFFFFFF) (hdrDet t.hdr) late with seen := s.wroteNum } := by
  simp [State.startTask]

section
variable {s : State} {core : Nat} {h : Header} {t : List Header} (hq : (s.core core).launchQ = h :: t)
  (hr : s.runs core = true) (hp : h.start.toNat ≤ s.pace.toNat)
include hq hr hp

theorem exec_launch_list (ho : (s.die (dieOf core)).overBudget = false) (hl : hdrList h.hdr = true)
    (hs : (s.core core).slist.any (fun l => !(l.phase = 3 && l.running = 0)) = false) :
    exec (.launch core) s = .next (s.setCore core { s.core core with
      launchQ := t
      slist := some { hdr := h.hdr, mbox := h.mbox, late := h.late, base := h.entry, idx := 0, running := 0, joined := false, exch := 0, phase := 0 } }) := by
  simp only [exec, execLaunch, hq, hr, ho, Nat.not_lt.2 hp, hl, hs, Bool.not_true, Bool.or_false, decide_false, Bool.false_eq_true,
    if_false, if_true]
theorem exec_launch_task {i : Nat} (ho : (s.die (dieOf core)).overBudget = false) (hl : hdrList h.hdr = false)
    (hc : hdrHeat h.hdr = true → h.copied = true) (hi : s.idleCtx core = some i) :
    exec (.launch core) s =
      .next ((s.setCore core { s.core core with launchQ := t }).startTask (4 * core + i) h.handler h.entry h.param h.late) := by
  have hk : (hdrHeat h.hdr && !h.copied) = false := by simpa using hc
  simp [exec, execLaunch, hq, hr, ho, Nat.not_lt.2 hp, hl, hi, hk, Header.handler]

end

/-! ### Retention -/

/-- A header that retains scratch waits for the stores into it. -/
theorem exec_retentionCopy_waits {s : State} {core : Nat} {h : Header} {t : List Header} (hq : (s.core core).launchQ = h :: t)
    (hx : ∃ j, j < hdrNret h.hdr ∧ (hdrRange h.hdr j).1 < 0x10000) (hd : s.storesDone core = false) :
    exec (.retentionCopy core) s = .next s := by
  simp [exec, execRetentionCopy, hq, hx, hd]

/-- A header none of whose ranges is in scratch, or whose core's stores are done, does not wait. -/
theorem retainWait_eq_false {s : State} {core : Nat} {w : List Word}
    (hd : (∀ j, j < hdrNret w → 0x10000 ≤ (hdrRange w j).1) ∨ s.storesDone core = true) :
    ((List.range (hdrNret w)).any (fun j => decide ((hdrRange w j).1 < 0x10000)) && !s.storesDone core) = false := by
  rcases hd with hd | hd
  · have hn : (List.range (hdrNret w)).any (fun j => decide ((hdrRange w j).1 < 0x10000)) = false := by simpa using hd
    rw [hn, Bool.false_and]
  · rw [hd, Bool.not_true, Bool.and_false]

section
variable {s : State} {core : Nat} {h : Header} {t : List Header} (hq : (s.core core).launchQ = h :: t)
  (hr : s.runs core = true) (hp : h.start.toNat ≤ s.pace.toNat) (hh : hdrHeat h.hdr = true) (hl : hdrList h.hdr = false)
  (hc : h.copied = false) (hi : (s.idleCtx core).isSome = true)
  (hd : (∀ j, j < hdrNret h.hdr → 0x10000 ≤ (hdrRange h.hdr j).1) ∨ s.storesDone core = true)
include hq hr hp hh hl hc hi hd

theorem exec_retentionCopy_refused (hn : s.retainAll core (s.partOf core) h.hdr (hdrNret h.hdr) = none) :
    exec (.retentionCopy core) s = .next ((s.setCore core { s.core core with launchQ := t }).refuse h.sender 0x52) := by
  have hi' : (s.idleCtx core).isNone = false := by simpa [Option.isNone_eq_false_iff] using hi
  simp only [exec, execRetentionCopy, hq, hr, Nat.not_lt.2 hp, hh, hl, hc, hi', retainWait_eq_false hd, hn, Bool.not_true,
    Bool.or_false, decide_false, Bool.false_eq_true, if_false]
/-- A group that may keep its ranges runs unretained when no slot is free. -/
theorem exec_retentionCopy_unretained {kept : List (Nat × List Byte × Nat × Word)}
    (hn : s.retainAll core (s.partOf core) h.hdr (hdrNret h.hdr) = some kept) (hf : (s.part (s.partOf core)).freeSlot = none) :
    let b := s.retainTouch core (s.partOf core) h.hdr
    let a : State := if hdrNret h.hdr = 0 then b else b.accept h.sender
    exec (.retentionCopy core) s = .next ((a.setCore core { a.core core with
      launchQ := { h with copied := true } :: t }).heatCount (s.partOf core) 0x28) := by
  intro b a
  have hi' : (s.idleCtx core).isNone = false := by simpa [Option.isNone_eq_false_iff] using hi
  have ha : (if hdrLate h.hdr then b.accept h.sender else b) = a := by simp [a, hdrLate, hh, hl, ite_not]
  simp only [exec, execRetentionCopy, hq, hr, Nat.not_lt.2 hp, hh, hl, hc, hi', retainWait_eq_false hd, hn, hf, Bool.not_true,
    Bool.or_false, decide_false, Bool.false_eq_true, if_false]
  rw [← ha]

end

/-! ### Superstep lists -/

section
variable {s : State} {core : Nat} {l : SuperList} (hl : (s.core core).slist = some l)
include hl

section
variable (hr : s.runs core = true) (hp : l.phase = 0)
include hr hp

theorem exec_superstepRoutineStart_bad {e : CauseRec} {va : Word} (he : s.listEntry core l = .error (e, va)) :
    exec (.superstepRoutineStart core) s = .next (s.listFault core l e va) := by
  simp [exec, execSuperstepRoutineStart, hl, hr, hp, he]
theorem exec_superstepRoutineStart_work {i n : Nat} {a : Word} (he : s.listEntry core l = .ok (n, a)) (hn : n < 2)
    (hg : n = 1 → l.running = 0) (hi : s.idleCtx core = some i) :
    exec (.superstepRoutineStart core) s =
      .next ((s.setList core { l with idx := l.idx + 1, running := l.running + 1 }).startRoutine core i l .work a l.idx) := by
  obtain rfl | rfl : n = 0 ∨ n = 1 := by omega
  · simp [exec, execSuperstepRoutineStart, hl, hr, hp, he, hi]
  · simp [exec, execSuperstepRoutineStart, hl, hr, hp, he, hi, hg rfl]
theorem exec_superstepRoutineStart_join {a : Word} (he : s.listEntry core l = .ok (2, a)) (hn : l.running = 0) :
    exec (.superstepRoutineStart core) s = .next (s.setCore core { s.core core with
      joined := (s.core core).joined + 1, slist := some { l with idx := l.idx + 1, exch := a, phase := 1, joined := true } }) := by
  simp [exec, execSuperstepRoutineStart, hl, hr, hp, he, hn]
theorem exec_superstepRoutineStart_end {a : Word} (he : s.listEntry core l = .ok (3, a)) :
    exec (.superstepRoutineStart core) s = .next (s.setList core { l with phase := 3 }) := by
  simp [exec, execSuperstepRoutineStart, hl, hr, hp, he]

end

theorem exec_exchangeRoutineStart {e : Nat} (he : (s.die (dieOf core)).exStart = some e) (hp : l.phase = 2) (ht : e ≤ s.clock)
    (hc : (s.cell (core / 4)).part.isSome = true) :
    exec (.exchangeRoutineStart core) s =
      .next ((s.setList core { l with phase := 4, running := 1 }).startRoutine core 0 l .exchange l.exch (l.idx - 1)) := by
  have hn : (s.cell (core / 4)).part.isNone = false := by simpa using hc
  simp [exec, execExchangeRoutineStart, hl, he, hp, Nat.not_lt.2 ht, hn]

end

/-! ### The release of SYNC's rounds -/

section
variable {s : State} {p : Nat}

/-- One more round of the partition is released. -/
def State.nextRound (s : State) (p : Nat) : State := s.setPart p { s.part p with rounds := (s.part p).rounds + 1 }
/-- What a release means to a deterministic partition: cells due to leave do, and its cores and dies pass to the exchange. -/
def State.detRelease (s : State) (q : Part) : State :=
  q.dies.foldl (fun t d => t.dieRelease d)
    (q.cores.foldl (fun t c => t.coreRelease c) ((q.cells.filter (fun c => (s.cell c).dq)).foldl (fun t c => t.disqualify c) s))

theorem exec_syncRelease_unmet (hm : s.syncMet p = false) : exec (.syncRelease p) s = .next s := by
  simp [exec, execSyncRelease, hm]

variable (hm : s.syncMet p = true)
include hm

theorem exec_syncRelease_plain (hd : (s.part p).det = false) : exec (.syncRelease p) s = .next (s.nextRound p) := by
  simp [exec, execSyncRelease, hm, hd, State.nextRound]

variable (hd : (s.part p).det = true)
include hd

theorem exec_syncRelease_ramps (hf : ∃ d ∈ (s.part p).dies, (s.die d).fullClock s.clock = false) :
    exec (.syncRelease p) s = .next ((s.part p).dies.foldl (fun t d => t.rampDie d) s) := by
  simp [exec, execSyncRelease, hm, hd, hf]

variable (hf : ∀ d ∈ (s.part p).dies, (s.die d).fullClock s.clock = true)
include hf

theorem exec_syncRelease_waits (hc : s.clock % 8 ≠ 0) : exec (.syncRelease p) s = .next s := by
  simp [exec, execSyncRelease, hm, hd, List.all_eq_true.2 hf, hc]
theorem exec_syncRelease_det (hc : s.clock % 8 = 0) :
    exec (.syncRelease p) s = .next ((s.nextRound p).detRelease (s.part p)) := by
  simp [exec, execSyncRelease, hm, hd, List.all_eq_true.2 hf, hc, State.nextRound, State.detRelease]

end

@[simp] theorem State.nextRound_rounds (s : State) (p) : ((s.nextRound p).part p).rounds = (s.part p).rounds + 1 := by
  simp [State.nextRound]
theorem State.detRelease_clock (s : State) (q) : (s.detRelease q).clock = s.clock := by
  simp [State.detRelease, foldl_clock]
/-- With no cell due to leave, the partitions stand as they are. -/
theorem State.detRelease_part (s : State) (q : Part) (p : Nat) (h : ∀ c ∈ q.cells, (s.cell c).dq = false) :
    (s.detRelease q).part p = s.part p := by
  have hn : q.cells.filter (fun c => (s.cell c).dq) = [] := by simpa using h
  unfold State.detRelease
  rw [hn, foldl_keeps (fun t => t.part p) _ (by simp), foldl_keeps (fun t => t.part p) _ (by simp)]
  rfl

/-- Settles O45, with one equation of the step for each case. A clause that names the next state is such an equation; those on
a queued header, a started task and a release in a deterministic partition read the state that the equation gives. -/
theorem launchSteps : Obligations.LaunchSteps := by
  unfold Obligations.LaunchSteps
  intro s core
  refine ⟨?messages, ?launch, ?retention, ?list, ?exchange, ?release⟩
  case messages =>
    intro m t hc hu hk hm r
    rw [exec_launchMessageArrival hc hu]
    refine ⟨fun hb hf => ?_, fun dst e hb hne ha => ?_⟩
    · rw [State.deliver_unbound (s := r) hm hb hf, Option.getD_some, State.refuse, State.refuseAs_task _ hk]
    · rw [State.deliver_bound (s := r) hm hb]
      refine ⟨fun hv => ?_, fun hv hbad => ?_, fun hv hbad hp hh hq => ?_⟩
      · rw [State.arrive_outOfService ha hv, Option.getD_some, State.refuseAs_task _ hk]
      · rw [State.arrive_malformed ha hv hbad, Option.getD_some, State.refuse, State.refuseAs_task _ hk]
      · have hdst : r.core dst = s.core dst := State.setCore_core_other _ _ _ _ hne
        rw [State.arrive_queued ha hv hbad hp hh (by rw [hdst]; exact hq), Option.getD_some, State.taken_task hk]
        refine ⟨_, headerOf m e 0 s.pace, rfl, ?_, rfl, rfl, rfl, rfl, ?_⟩
        · simp [hdst, r]
        · rw [State.setCore_core_other _ _ _ _ hne.symm]
          simp [r]
  case launch =>
    intro h t hq hr ho hp
    refine ⟨fun hl hs => exec_launch_list hq hr hp ho hl hs, fun i hl hc hi => ?_⟩
    rw [exec_launch_task hq hr hp ho hl hc hi]
    refine ⟨_, rfl, by simp, ?_⟩
    rw [State.startTask_ctx_same]
    simp [Ctx.start, Ctx.reset, Status.reset, Ctx.s, Header.handler]
  case retention =>
    intro h t hq hr hp hh hl hc hi
    exact ⟨exec_retentionCopy_waits hq, fun hd =>
      ⟨exec_retentionCopy_refused hq hr hp hh hl hc hi hd, fun _ hn hf => exec_retentionCopy_unretained hq hr hp hh hl hc hi hd hn hf⟩⟩
  case list =>
    intro l hl hr hp
    exact ⟨fun _ _ he => exec_superstepRoutineStart_bad hl hr hp he,
      fun _ _ _ he hn hg hi => exec_superstepRoutineStart_work hl hr hp he hn hg hi,
      fun _ he hn => exec_superstepRoutineStart_join hl hr hp he hn, fun _ he => exec_superstepRoutineStart_end hl hr hp he⟩
  case exchange =>
    intro l e hl he hp ht hc
    exact exec_exchangeRoutineStart hl he hp ht hc
  case release =>
    intro p
    refine ⟨exec_syncRelease_unmet, exec_syncRelease_plain, fun hm hd => ⟨fun hf => ?_, exec_syncRelease_waits hm hd, fun hf hc => ?_⟩⟩
    · exact ⟨_, exec_syncRelease_ramps hm hd hf, foldl_keeps (fun t => (t.part p).rounds) _ (by simp) _ _⟩
    · refine ⟨_, exec_syncRelease_det hm hd hf hc, by simp [State.detRelease_clock, State.nextRound], fun hn => ?_⟩
      rw [State.detRelease_part (s.nextRound p) _ _ hn, State.nextRound_rounds]

end Sys2Proof.Machine
end

section
/-! ### The module right after reset (O60) -/

namespace Sys2Proof.Machine

/-- 120 cells of each of the 8 dies are fused off (01 R21). -/
theorem fusedOff_length : fusedOff.length = 960 := by
  have die_length : ∀ d : Nat, ((List.range 64).map (fun c => (d * 64 + c) * 128 + 79) ++
      (List.range 56).map (fun c => (d * 64 + c) * 128 + 78)).length = 120 := fun d => by
    rw [List.length_append, List.length_map, List.length_map, List.length_range, List.length_range]
  simp only [fusedOff, List.length_flatMap, die_length]
  rfl

/-- Settles O60: a unit that reset has not listed reads as its reset value. -/
theorem resetState : Obligations.ResetState := by
  unfold Obligations.ResetState
  exact ⟨Memory.wf_nil, rfl, rfl, rfl, rfl, fun _ => ⟨rfl, rfl⟩, fun _ => ⟨rfl, rfl, rfl, rfl, rfl⟩, fun _ => rfl, fusedOff_length⟩

end Sys2Proof.Machine
end

section
/-! What the address checks let pass (O11): an access that is given a physical place has passed each check that stands
before it, and those of its page's entry. -/

namespace Sys2Proof.Machine

/-- A physical place of a translated address has passed every check of its page's entry (03 R71, R72). -/
theorem State.transPlace_phys {s : State} {core part : Nat} {user : Bool} {q : Req} {va : Word} {pa key : Nat} {ctr unc hb : Bool}
    (h : s.transPlace core part user q va = .ok (.phys pa key ctr unc hb)) :
    s.backed pa = true ∧ ∃ e lg, s.translate core part va.toNat = .ok (e, lg) ∧ pteOwner e = part ∧
      (q.r = true → pteR e = true) ∧ (q.w = true → pteW e = true) ∧ (user = true → pteU e = true) ∧
      (q.noCtr = true → pteCtr e = false) ∧ pa = pteAddr e + va.toNat % 2 ^ lg ∧ key = pteKey e := by
  unfold State.transPlace at h
  split at h
  case h_1 => cases h
  case h_2 e lg he =>
    split at h
    · cases h
    next hctr =>
      split at h
      · cases h
      next howner =>
        split at h
        · cases h
        next hgrant =>
          dsimp only at h
          split at h
          · cases h
          next hbacked =>
            cases h
            simp only [Bool.or_eq_true, Bool.and_eq_true, Bool.not_eq_true', not_or, not_and, Bool.not_eq_false] at hctr hgrant hbacked
            obtain ⟨⟨hr, hw⟩, hu⟩ := hgrant
            exact ⟨hbacked, e, lg, he, by simpa using howner, hr, hw, hu, by simpa using hctr, rfl, rfl⟩

/-- Of the address spaces only the translated one has physical places. -/
theorem State.placeOf_phys {s : State} {k : Nat} {chk user : Bool} {q : Req} {va : Word} {pa key : Nat} {ctr unc hb : Bool}
    (h : s.placeOf k chk user q va = .ok (.phys pa key ctr unc hb)) :
    spaceOf va = .translated ∧ s.transPlace (k / 4) (s.partOf (k / 4)) user q va = .ok (.phys pa key ctr unc hb) := by
  unfold State.placeOf at h
  dsimp only at h
  split at h
  case h_1 =>
    split at h
    · cases h
    · split at h <;> cases h
  case h_2 =>
    split at h
    · cases h
    · obtain ⟨_, -, hp⟩ := (bind_ok _ _ _).1 h
      cases hp
  case h_3 hs =>
    split at h
    · cases h
    · exact ⟨hs, h⟩
  case h_4 => cases h
  case h_5 => cases h

/-- An access that reaches a place is aligned, and the place is the one its address names. -/
theorem State.reach_ok {s : State} {k : Nat} {q : Req} {va : Word} {p : Place} (h : s.reach k q va = .ok p) :
    va.toNat % q.size = 0 ∧ s.placeOf k (s.ctx k).st.chk ((s.ctx k).st.priv = 0) q va = .ok p := by
  obtain ⟨_, hany, hp⟩ := (bind_ok _ _ _).1 h
  obtain ⟨_, -, hp⟩ := (bind_ok _ _ _).1 hp
  cases hp
  obtain ⟨_, halign, hany⟩ := (bind_ok _ _ _).1 hany
  obtain ⟨_, -, hany⟩ := (bind_ok _ _ _).1 hany
  obtain ⟨_, -, hany⟩ := (bind_ok _ _ _).1 hany
  obtain ⟨_, -, hany⟩ := (bind_ok _ _ _).1 hany
  obtain ⟨_, -, hany⟩ := (bind_ok _ _ _).1 hany
  exact ⟨by simpa using (need_ok _ _).1 halign, hany⟩

/-- Settles O11: a physical place is one of the translated space, where the page's entry is judged. -/
theorem reachIsProtected : Obligations.ReachIsProtected := by
  unfold Obligations.ReachIsProtected
  intro s k q va pa key ctr unc hb h
  obtain ⟨halign, hplace⟩ := State.reach_ok h
  obtain ⟨hspace, htrans⟩ := State.placeOf_phys hplace
  obtain ⟨hbacked, e, lg, he, howner, hr, hw, hu, hctr, hpa, hkey⟩ := State.transPlace_phys htrans
  exact ⟨hspace, halign, hbacked, e, lg, he, howner, hr, hw, fun h0 => hu (by simpa using h0), hctr, hpa, hkey⟩

end Sys2Proof.Machine
end

section
/-! What WAYS does to its core (O42). -/

namespace Sys2Proof.Machine

/-- A cleared address reads as unlisted, every other as before. -/
theorem Mem.get_clear (m : Mem) (a n b : Nat) :
    Mem.get (Mem.clear m a n) b = if a ≤ b ∧ b < a + n then Mem.unlisted else Mem.get m b := by
  unfold Mem.clear
  induction m with
  | nil => simp [Mem.get]
  | cons p t ih =>
    obtain ⟨j, v⟩ := p
    by_cases hin : a ≤ j ∧ j < a + n
    · rw [List.filter_cons_of_neg (by simpa only [decide_eq_true_eq, Decidable.not_not] using hin), ih]
      by_cases hb : b = j
      · subst hb; simp only [hin, and_self, if_true]
      · simp [Mem.get, hb]
    · rw [List.filter_cons_of_pos (by simpa only [decide_eq_true_eq] using hin)]
      by_cases hb : b = j
      · subst hb; simp only [Mem.get, hin, if_true, if_false]
      · simpa only [Mem.get, hb, if_false] using ih

theorem State.clearWay_arr (s : State) (core w : Nat) :
    ((s.clearWay core w).core core).arr = Mem.clear (s.core core).arr (0x1000 * w) 0x1000 := by
  have hfire : ∀ (t : State) (o n), (t.fireArray core o n).core core = t.core core := fun _ _ _ => rfl
  simp only [State.clearWay, hfire, State.setCore_core_same]

/-- Of ways that are cleared in turn every byte reads as unlisted. -/
theorem State.clearWays_get (core w off : Nat) (hoff : off < 0x1000) (ws : List Nat) (s : State)
    (h : w ∈ ws ∨ Mem.get (s.core core).arr (0x1000 * w + off) = Mem.unlisted) :
    Mem.get ((ws.foldl (fun t w => t.clearWay core w) s).core core).arr (0x1000 * w + off) = Mem.unlisted := by
  induction ws generalizing s with
  | nil => simpa using h
  | cons v t ih =>
    refine ih _ ?_
    rw [State.clearWay_arr, Mem.get_clear]
    by_cases hv : v = w
    · subst hv
      exact Or.inr (if_pos ⟨by omega, by omega⟩)
    · refine h.imp (fun hm => (List.mem_cons.1 hm).resolve_left (Ne.symm hv)) (fun hz => ?_)
      rw [hz, ite_self]

theorem State.settleSubs_arr (s : State) (core) : ((s.settleSubs core).core core).arr = (s.core core).arr := by
  simp only [State.settleSubs]
  split <;> simp
@[simp] theorem State.carDone_core (s : State) (core e w c) : (s.carDone core e w).core c = s.core c := rfl
theorem State.freeSub_arr (s : State) (core e gone) : ((s.freeSub core e gone).core core).arr = (s.core core).arr := by
  simp only [State.freeSub]
  split
  · rfl
  · simp only [State.carDone_core, State.setSub, State.setCore_core_same]

theorem State.waysDone_waym (s : State) (core new aff) : ((s.waysDone core new aff).core core).waym = new := by
  simp [State.waysDone]
theorem State.waysDone_ways (s : State) (core new aff) : ((s.waysDone core new aff).core core).ways = none := by
  simp [State.waysDone]

/-- A way that changes between cache and scratch reads as unlisted once the map has changed (03 R64). -/
theorem State.waysDone_get (s : State) (core : Nat) (new : BitVec 6) (aff : List Nat) (w off : Nat) (hw : w < 6) (hoff : off < 0x1000)
    (h : (s.core core).waym.getLsbD w ≠ new.getLsbD w) :
    Mem.get ((s.waysDone core new aff).core core).arr (0x1000 * w + off) = Mem.unlisted := by
  simp only [State.waysDone, State.setCore_core_same]
  rw [foldl_keeps (fun t => (t.core core).arr) (fun t (e : Nat × Sub) => t.freeSub core e.1 false) (fun t e => t.freeSub_arr core e.1 false),
    State.settleSubs_arr]
  exact State.clearWays_get core w off hoff _ _ (Or.inl (List.mem_filter.2 ⟨List.mem_range.2 hw, bne_iff_ne.2 h⟩))

/-- A map with a cache way left passes the first check of WAYS. -/
theorem need_cacheWay {m : BitVec 6} (hm : m ≠ 63) : need (m ≠ 63) (cz 0x02) = .ok () := (need_ok _ _).2 (decide_eq_true hm)
/-- A work routine is refused any other map (24 R454). -/
theorem exec_ways_work {s : State} {d : BitVec 5} {m : BitVec 6} (hm : m ≠ 63) (hwork : s.cx.isWork = true) :
    exec (.ways d m) s = .next (s.stopped (.trap (cz 0x2C))) := by
  show execWays d m s = _
  unfold execWays
  rw [need_cacheWay hm]
  simp [hwork, need, Bind.bind, Except.bind]
/-- WAYS at a context that has nothing to wait for changes the map at once. -/
theorem exec_ways_done {s : State} {d : BitVec 5} {m : BitVec 6} (hm : m ≠ 63) (hwork : s.cx.isWork = false) (hchk : s.cx.st.chk = false)
    (hfree : s.engineFree s.cur = .ok ()) (hways : (s.core s.curCore).ways = none)
    (hheld : SMap.get (s.cell s.curCell).holding [] s.curPart = [])
    (hclear : s.waysClear s.curCore (s.waysRun s.curCore (s.cur % 4) m) (affected (s.core s.curCore).waym m) = true) :
    exec (.ways d m) s = .next ((s.waysDone s.curCore m (affected (s.core s.curCore).waym m)).wr 4 d ((s.core s.curCore).waym.setWidth 64)) := by
  show execWays d m s = _
  unfold execWays
  rw [need_cacheWay hm]
  simp [hwork, hchk, hfree, hways, hheld, hclear, Bind.bind, Except.bind]

/-- Settles O42: the two traps stand before anything changes, and a WAYS that need not wait clears each way it changes. -/
theorem waysWord : Obligations.WaysWord := by
  unfold Obligations.WaysWord
  intro s d m
  refine ⟨?_, ?_, ?_⟩
  · rintro rfl
    rfl
  · intro hm hwork
    exact exec_ways_work hm hwork
  · intro hm hwork hchk hfree hways hheld hclear
    rw [exec_ways_done hm hwork hchk hfree hways hheld hclear]
    refine ⟨_, rfl, State.waysDone_waym _ _ _ _, State.waysDone_ways _ _ _ _, ?_, fun w off hw hoff h => State.waysDone_get _ _ _ _ _ _ hw hoff h⟩
    simp only [State.wr, State.setCx_cx, Ctx.s_advance, Ctx.s_setS]
    by_cases hd : d = 0
    · subst hd; rfl
    · rw [if_pos ⟨trivial, hd⟩, if_neg hd]

end Sys2Proof.Machine
end

section
/-! What the slices and the L1 ways do of themselves leaves every TLB as it was: one `f_tlbs` for each function that a page walk
is made of, in the model's order. -/

namespace Sys2Proof.Machine

/-- What the TLBs of the cores and those of the clusters hold. -/
def State.tlbs (s : State) : (Nat → List TlbEntry) × (Nat → List TlbEntry) := (fun c => (s.core c).tlb, fun h => (s.clu h).ctlb)

theorem State.tlb_of_tlbs {s t : State} (h : t.tlbs = s.tlbs) (c : Nat) : (t.core c).tlb = (s.core c).tlb := congrFun (congrArg Prod.fst h) c
theorem State.ctlb_of_tlbs {s t : State} (h : t.tlbs = s.tlbs) (c : Nat) : (t.clu c).ctlb = (s.clu c).ctlb := congrFun (congrArg Prod.snd h) c

theorem State.setCore_tlbs (s : State) (k : Nat) (x : Core) (h : x.tlb = (s.core k).tlb) : (s.setCore k x).tlbs = s.tlbs := by
  refine Prod.ext (funext fun j => ?_) rfl
  by_cases hj : j = k
  · subst hj; simpa [State.tlbs] using h
  · exact congrArg Core.tlb (s.setCore_core_other k j x hj)
theorem State.setClu_tlbs (s : State) (k : Nat) (u : Cluster) (h : u.ctlb = (s.clu k).ctlb) : (s.setClu k u).tlbs = s.tlbs := by
  refine Prod.ext rfl (funext fun j => ?_)
  by_cases hj : j = k
  · subst hj; simpa [State.tlbs] using h
  · exact congrArg Cluster.ctlb (s.setClu_clu_other k j u hj)

theorem Cluster.refill_ctlb (u : Cluster) (w) : (u.refill w).ctlb = u.ctlb := by
  simp only [Cluster.refill]; split <;> rfl
@[simp] theorem State.wakeSlice_tlbs (s : State) (h) : (s.wakeSlice h).tlbs = s.tlbs := by
  have hrefill : ∀ (l : List Nat) (u : Cluster), (l.foldl (fun (v : Cluster) p => v.refill (2 * p)) u).ctlb = u.ctlb := by
    intro l
    induction l with
    | nil => exact fun _ => rfl
    | cons p t ih => exact fun u => (ih _).trans (u.refill_ctlb _)
  simp only [State.wakeSlice]
  split
  · exact s.setClu_tlbs h _ (hrefill _ _)
  · rfl
@[simp] theorem State.nearAlloc_tlbs (s : State) (pa l) : (s.nearAlloc pa l).tlbs = s.tlbs := s.setClu_tlbs _ _ rfl
@[simp] theorem State.nearBack_tlbs (s : State) (l) : (s.nearBack l).tlbs = s.tlbs := by
  simp only [State.nearBack]
  split
  · rfl
  · split <;> exact State.nearAlloc_tlbs _ _ _
@[simp] theorem State.evict_tlbs (s : State) (core line) : (s.evict core line).tlbs = s.tlbs := by
  have hback := foldl_keeps State.tlbs (fun t l => t.nearBack l) State.nearBack_tlbs ((s.core core).l1.filter (fun l => l.line = line)) s
  exact (State.setCore_tlbs _ core { s.core core with l1 := (s.core core).l1.filter (fun l => l.line ≠ line) }
    (State.tlb_of_tlbs hback core).symm).trans hback
@[simp] theorem State.l1Touch_tlbs (s : State) (core key pa m d) : (s.l1Touch core key pa m d).tlbs = s.tlbs := by
  simp only [State.l1Touch]
  split
  · exact s.setCore_tlbs _ _ rfl
  · split
    · exact s.setCore_tlbs _ _ rfl
    · refine (State.setCore_tlbs _ _ _ ?_).trans ?_
      · rfl
      · split
        · exact State.evict_tlbs _ _ _
        · rfl
@[simp] theorem State.mergeFill_tlbs (s : State) (pa) : (s.mergeFill pa).tlbs = s.tlbs := by
  have hserve : ∀ (reqs : List MissReq) (t : State),
      (reqs.foldl (fun t r => t.l1Touch r.coord r.keyid pa (BitVec.ofNat 4 r.mask) 0) t).tlbs = t.tlbs :=
    foldl_keeps State.tlbs _ (fun t r => t.l1Touch_tlbs r.coord r.keyid pa (BitVec.ofNat 4 r.mask) 0)
  simp only [State.mergeFill]
  split
  · exact s.setClu_tlbs _ _ rfl
  · split
    · exact (hserve _ _).trans (s.setClu_tlbs _ _ rfl)
    · split
      · exact s.setClu_tlbs _ _ rfl
      · exact (hserve _ _).trans (s.setClu_tlbs _ _ rfl)
@[simp] theorem State.nearTouch_tlbs (s : State) (key pa m d) : (s.nearTouch key pa m d).tlbs = s.tlbs := by
  simp only [State.nearTouch]
  split
  · exact s.wakeSlice_tlbs _
  · have hfill : ∀ (c : Prop) [Decidable c] (t : State), (if c then t else t.mergeFill pa).tlbs = t.tlbs := by
      intro c _ t; split <;> simp
    split
    · split
      · simp [hfill]
      · split
        · simp [hfill]
        · refine (State.setClu_tlbs _ _ _ ?_).trans ?_
          · rfl
          · simp [hfill]
    · simp [hfill]
    · simp [hfill]
/-- The reads of a walk bring table entries into the slices and no translation into a TLB. -/
@[simp] theorem State.walkTouch_tlbs (s : State) (va base : Nat) (l : List (Nat × Nat × Bool)) : (s.walkTouch va l base).tlbs = s.tlbs := by
  induction l generalizing s base with
  | nil => rfl
  | cons x t ih =>
    simp only [State.walkTouch]
    split
    · rfl
    · split
      · exact State.nearTouch_tlbs _ _ _ _ _
      · exact (ih _ _).trans (State.nearTouch_tlbs _ _ _ _ _)

end Sys2Proof.Machine
end

section
/-! The steps of the memory system (O48): fills and retries, page walks, the error bookkeeping of an array, TLBI, held messages
and the first step of a rank's move. -/

namespace Sys2Proof.Machine

/-! ### Fills -/

theorem State.wakeSlice_awake {s : State} {h : Nat} (hr : (s.clu h).ecc.ret = false) : s.wakeSlice h = s := by
  simp [State.wakeSlice, hr]

/-- A line that has a way of its set to take stands there. -/
theorem State.nearAlloc_near (s : State) (pa : Nat) (l : NearLine) (hf : (s.clu (homeClu pa)).freeWay (pa / 128) = true) :
    SMap.find ((s.nearAlloc pa l).clu (homeClu pa)).near (pa / 128) = some l := by
  have hclu : ∀ (t : State) n h, (t.bump n).clu h = t.clu h := fun _ _ _ => rfl
  simp [State.nearAlloc, hclu, hf]

/-- A touch of a line that its slice, awake, neither holds nor waits for takes a way for the sectors it fills (03 R76). -/
theorem State.nearTouch_fresh {s : State} {key pa tag : Nat} {sb : Word} (mask dirty : BitVec 4) (hg : isGddr pa = true)
    (hr : (s.clu (homeClu pa)).ecc.ret = false) (hn : SMap.find (s.clu (homeClu pa)).near (pa / 128) = none)
    (hm : SMap.get (s.clu (homeClu pa)).miss [] (pa / 128) = []) (ht : s.fillTag key pa = .ok (tag, sb)) :
    s.nearTouch key pa mask dirty = s.nearAlloc pa { tag := tag, sb := sb, keyid := key, valid := mask, dirty := dirty } := by
  simp [State.nearTouch, State.wakeSlice_awake hr, hg, hm, hn, ht]

/-- A fill that no request waits for brings the whole line. -/
theorem exec_sliceFill_idle {s : State} {pa : Nat} (key : Nat) (hm : SMap.get (s.clu (homeClu pa)).miss [] (pa / 128) = []) :
    exec (.sliceFill pa key) s = .next (s.nearTouch key (pa / 128 * 128) 15 0) := by
  show execSliceFill pa key s = _
  simp [execSliceFill, hm]
theorem exec_sliceFill_waiting {s : State} {pa : Nat} (key : Nat) (hm : SMap.get (s.clu (homeClu pa)).miss [] (pa / 128) ≠ []) :
    exec (.sliceFill pa key) s = .next (s.mergeFill pa) := by
  show execSliceFill pa key s = _
  simp [execSliceFill, hm]

theorem exec_missRetry_early {s : State} {c line : Nat} {r : MissReq} {t : List (Nat × MissReq)} (h : (s.clu c).retry = (line, r) :: t)
    (ht : s.clock < r.again) : exec (.missRetry c) s = .next s := by
  show execMissRetry c s = _
  simp [execMissRetry, h, ht]
theorem exec_missRetry_due {s : State} {c line : Nat} {r : MissReq} {t : List (Nat × MissReq)} (h : (s.clu c).retry = (line, r) :: t)
    (ht : r.again ≤ s.clock) : exec (.missRetry c) s =
      .next (if (s.setClu c { s.clu c with retry := t }).nearHolds (line * 128) r.keyid
        then (s.setClu c { s.clu c with retry := t }).cacheTouch r.coord r.keyid (line * 128) 128 false false false
        else (s.setClu c { s.clu c with retry := t }).askFill line r) := by
  show execMissRetry c s = _
  simp [execMissRetry, h, Nat.not_lt.2 ht]

/-- With the list of a line full a request is put off (03 R76). -/
theorem State.askFill_full {s : State} {line : Nat} (r : MissReq) {l : NearLine}
    (hl : SMap.find (s.clu (homeClu (line * 128))).near line = some l)
    (hfull : l.places ≤ (SMap.get (s.clu (homeClu (line * 128))).miss [] line).length) :
    s.askFill line r = s.setClu (homeClu (line * 128)) { s.clu (homeClu (line * 128)) with
      retry := (s.clu (homeClu (line * 128))).retry ++ [(line, { r with again := s.clock + 64 })] } := by
  simp [State.askFill, hl, Nat.not_lt.2 hfull]

/-! ### Page walks -/

/-- A translation that enters a TLB is the first found there. -/
theorem tlbFind_tlbAdd (n free : Nat) (same : TlbEntry → Bool) (part va : Nat) (e : Word) (lg : Nat) (l : List TlbEntry) :
    tlbFind part va (tlbAdd n free same (tlbOf part va e lg) l) = some (e, lg) := by
  simp only [tlbAdd]
  split <;> simp [tlbFind, tlbOf]

theorem State.coreTlbAdd_translate (s : State) (core part va : Nat) (e : Word) (lg : Nat) :
    (s.coreTlbAdd core part va e lg).translate core part va = .ok (e, lg) := by
  have hcore : ∀ (t : State) n c, (t.bump n).core c = t.core c := fun _ _ _ => rfl
  simp [State.translate, State.coreTlbAdd, hcore, tlbFind_tlbAdd]

theorem exec_pageWalk_ok {s : State} {core : Nat} {va : Word} {e : Word} {lg : Nat} (hva : spaceOf va = .translated)
    (hw : s.walk (s.partOf core) va.toNat = .ok (e, lg)) : exec (.pageWalk core va) s =
      .next (((s.walkTouch va.toNat walkLevels (bits (s.part (s.partOf core)).desc[0] 51 12 * 4096)).ctlbAdd (cluOf core)
        (s.partOf core) va.toNat e lg).coreTlbAdd core (s.partOf core) va.toNat e lg) := by
  show execPageWalk core va s = _
  simp [execPageWalk, hva, hw]
/-- A walk that fails leaves what its reads did, or nothing where the address has none. -/
theorem exec_pageWalk_error {s : State} {core : Nat} {va : Word} {c : Nat} (hw : s.walk (s.partOf core) va.toNat = .error c) :
    exec (.pageWalk core va) s = .next (if spaceOf va = .translated
      then s.walkTouch va.toNat walkLevels (bits (s.part (s.partOf core)).desc[0] 51 12 * 4096) else s) := by
  show execPageWalk core va s = _
  simp only [execPageWalk, hw]
  cases spaceOf va <;> simp

/-! ### Soft errors and retention mode -/

theorem wordsOf_one (w : Nat) : wordsOf (8 * w) 8 = [w] := by
  have hlen : (8 * w + 8 + 7) / 8 - 8 * w / 8 = 1 := by omega
  have hfirst : 8 * w / 8 = w := by omega
  rw [wordsOf, hlen, hfirst]
  rfl

theorem exec_softError_array {s : State} {core w : Nat} (double : Nat) (hw : w < 3072) (hm : (s.core core).waym.getLsbD (w / 512) = true) :
    exec (.softError 0 core w double) s = .next (s.setCore core { s.core core with ecc := (s.core core).ecc.hit w (double ≠ 0) }) := by
  show execSoftError 0 core w double s = _
  simp [execSoftError, Nat.not_le.2 hw, hm]

/-- Two flipped bits make a word fail, one does not (03 R80). -/
theorem Ecc.hit_reset_failing (w : Nat) (double : Bool) : (Ecc.reset.hit w double).failing (8 * w) 8 = double := by
  cases double <;> simp [Ecc.hit, Ecc.reset, Ecc.failing, Ecc.exit, wordsOf_one]

theorem exec_softError_failing {s : State} {core w : Nat} (double : Nat) (hw : w < 3072) (hm : (s.core core).waym.getLsbD (w / 512) = true)
    (hecc : (s.core core).ecc = Ecc.reset) :
    ∃ t, exec (.softError 0 core w double) s = .next t ∧ (t.core core).ecc.failing (8 * w) 8 = decide (double ≠ 0) := by
  refine ⟨_, exec_softError_array double hw hm, ?_⟩
  rw [State.setCore_core_same, hecc, Ecc.hit_reset_failing]

/-! ### TLBI -/

/-- A change to every listed value, where it changes no unlisted one. -/
theorem SMap.get_map {α : Type} (f : α → α) (d : α) (hd : f d = d) (m : SMap α) (k : Nat) :
    SMap.get (m.map (fun p => (p.1, f p.2))) d k = f (SMap.get m d k) := by
  induction m with
  | nil => exact hd.symm
  | cons p t ih =>
    obtain ⟨j, v⟩ := p
    by_cases h : k = j
    · simp [SMap.get, h]
    · simpa [SMap.get, h] using ih

theorem State.tlbi_tlb (s : State) (p : Nat) (v : Word) (c : Nat) :
    ((s.tlbi p v).core c).tlb = (s.core c).tlb.filter (fun e => !e.hit p v) :=
  congrArg Core.tlb (SMap.get_map (fun c : Core => { c with tlb := c.tlb.filter (fun e => !e.hit p v) }) Core.reset rfl s.cores c)

/-! ### Format regions -/

theorem exec_formatRegionWrite_none {s : State} {n : Nat} (reg : Nat) (v : Word) (hn : 16 ≤ n) :
    exec (.formatRegionWrite n reg v) s = .next s := by
  show execFormatRegionWrite n reg v s = _
  simp [execFormatRegionWrite, hn]
theorem exec_formatRegionWrite_first {s : State} {n : Nat} {v : Word} (hn : n < 16) : exec (.formatRegionWrite n 0 v) s =
    .next { s with regions := SMap.set s.regions n (v &&& 0x000FFFFFFFFFFF80, (SMap.get s.regions (0, 0, 0) n).2) } := by
  show execFormatRegionWrite n 0 v s = _
  simp only [execFormatRegionWrite, Nat.not_le.2 hn, if_false]
/-- FMT 8 to 15 is ignored as a whole (03 R77). -/
theorem exec_formatRegionWrite_ignored {s : State} {n : Nat} {v : Word} (hf : 8 ≤ bits v 59 56) :
    exec (.formatRegionWrite n 2 v) s = .next s := by
  show execFormatRegionWrite n 2 v s = _
  simp [execFormatRegionWrite, hf]

/-! ### Held messages -/

/-- A core whose interface holds what it held before. -/
theorem State.setCore_held (s : State) (k j : Nat) (x : Core) (h : x.held = (s.core k).held) : ((s.setCore k x).core j).held = (s.core j).held := by
  by_cases hj : j = k
  · subst hj; rw [State.setCore_core_same, h]
  · rw [State.setCore_core_other _ _ _ _ hj]

/-- Interfaces that hold nothing send nothing. -/
theorem State.sendHeld_none (cell p : Nat) (l : List Nat) (s : State) (h : ∀ i ∈ l, (s.core (4 * cell + i)).held = []) :
    l.foldl (fun t i => t.sendHeld (4 * cell + i) p [] (t.core (4 * cell + i)).held) s = s := by
  induction l with
  | nil => rfl
  | cons i t ih =>
    rw [List.foldl_cons, h i List.mem_cons_self]
    exact ih (fun j hj => h j (List.mem_cons_of_mem i hj))

theorem SMap.get_drop_same {α : Type} (m : SMap α) (d : α) (k : Nat) : SMap.get (SMap.drop m k) d k = d := by
  induction m with
  | nil => rfl
  | cons p t ih =>
    obtain ⟨j, v⟩ := p
    by_cases h : k = j
    · subst h; simpa [SMap.drop] using ih
    · have hj : j ≠ k := Ne.symm h
      simpa [SMap.drop, SMap.get, h, hj] using ih

/-- A held launch message is delivered where the launch queue of its core has room (12 R258). -/
theorem State.drainHeld_launch {s : State} (cell p : Nat) {core : Nat} (h : Header) (hroom : (s.core core).launchQ.length < 16) :
    s.drainHeld cell p [.launch core h] = (s.setCore core { s.core core with launchQ := (s.core core).launchQ ++ [h] }).setCell cell
      { s.cell cell with holding := SMap.drop (s.cell cell).holding p } := by
  simp [State.drainHeld, State.deliverHeld, hroom]

/-- With no rank's messages held at a cell's interfaces, what the cell holds for its partition is delivered. -/
theorem exec_rankWindowAccess_cell {s : State} {cell p : Nat} (hp : (s.cell cell).part = some p) (hpark : s.parking (4 * cell) = false)
    (hheld : ∀ i, i < 4 → ((s.drainHeld cell p (SMap.get (s.cell cell).holding [] p)).core (4 * cell + i)).held = []) :
    exec (.rankWindowAccess cell) s = .next (s.drainHeld cell p (SMap.get (s.cell cell).holding [] p)) := by
  show execRankWindowAccess cell s = _
  simp only [execRankWindowAccess, hp, hpark, Bool.false_eq_true, if_false]
  rw [State.sendHeld_none cell p _ _ (fun i hi => hheld i (List.mem_range.1 hi))]

/-! ### A rank's move -/

theorem exec_threadMove_dead {s : State} {p : Nat} (r new : Nat) (hl : (s.part p).live = false) :
    exec (.threadMove p r new) s = .next s := by
  show execThreadMove p r new s = _
  simp [execThreadMove, hl]

/-- The first step of a move to a core at rest of the partition that holds no rank: the rank is in transit (03 R69). -/
theorem exec_threadMove_mark {s : State} {p r new : Nat} (hr : r < 2 ^ 20) (hl : (s.part p).live = true) (hv : bit (s.rankEntry p r) 63 = true)
    (ht : bit (s.rankEntry p r) 62 = false) (hold : bits (s.rankEntry p r) 17 0 ≠ new) (hp : (s.cell (new / 4)).part = some p)
    (hcell : s.validCell (new / 4) = true) (hnew : new < 2 ^ 18) (hidle : ∀ i, i < 4 → (s.ctx (4 * new + i)).cs = .idle)
    (hq : (s.core new).launchQ = []) (hrest : s.coreRest new = true)
    (hfree : ∀ q ∈ s.rankList p, bit q.2 63 = true → bits q.2 17 0 ≠ new) :
    exec (.threadMove p r new) s = .next (s.setRank p r (s.rankEntry p r ||| 0x4000000000000000)) := by
  have hctx : (List.range 4).all (fun i => (s.ctx (4 * new + i)).cs = .idle) = true := by simpa using hidle
  have hnone : (s.rankList p).any (fun q => bit q.2 63 && bits q.2 17 0 = new) = false := by simpa using hfree
  have hrank : ¬ 2 ^ 20 ≤ r := Nat.not_le.2 hr
  show execThreadMove p r new s = _
  unfold execThreadMove
  simp only [hctx, hnone, hr, hrank, hl, hv, ht, hold, hp, hcell, hnew, hq, hrest, if_true, if_false, List.isEmpty_nil, ne_eq,
    not_false_eq_true, decide_true, Bool.and_self, Bool.not_false, Bool.not_true, Bool.false_eq_true]

/-! ### The obligation -/

/-- Settles O48: one clause for each event, by what that event does in the clause's case. -/
theorem memorySteps : Obligations.MemorySteps := by
  unfold Obligations.MemorySteps
  intro s
  refine ⟨?fill, ?merge, ?retry, ?full, ?walk, ?walkFails, ?soft, ?retention, ?tlbi, ?region, ?noRegion, ?held, ?move, ?moveDead⟩
  case fill =>
    intro pa key tag sb hg hline hr hn hm hroom ht
    have hfree : (s.clu (homeClu pa)).freeWay (pa / 128) = true := by simp [Cluster.freeWay, hroom]
    have hpa : pa / 128 * 128 = pa := Nat.div_mul_cancel (Nat.dvd_of_mod_eq_zero hline)
    rw [exec_sliceFill_idle key hm, hpa, State.nearTouch_fresh 15 0 hg hr hn hm ht]
    exact ⟨_, rfl, State.nearAlloc_near s pa _ hfree, State.nearAlloc_mem _ _ _⟩
  case merge =>
    intro pa key hm
    exact exec_sliceFill_waiting key hm
  case retry =>
    intro c line r t h
    exact ⟨exec_missRetry_early h, exec_missRetry_due h⟩
  case full =>
    intro line r l hl hfull
    exact State.askFill_full r hl hfull
  case walk =>
    intro core va e lg hva hw
    rw [exec_pageWalk_ok hva hw]
    exact ⟨_, rfl, State.coreTlbAdd_translate _ _ _ _ _ _, by simp⟩
  case walkFails =>
    intro core va c hw
    rw [exec_pageWalk_error hw]
    split
    · exact ⟨_, rfl, State.walkTouch_mem _ _ _ _, State.tlb_of_tlbs (State.walkTouch_tlbs _ _ _ _) core,
        State.ctlb_of_tlbs (State.walkTouch_tlbs _ _ _ _) (cluOf core)⟩
    · exact ⟨_, rfl, rfl, rfl, rfl⟩
  case soft =>
    intro core w hw hm hecc
    exact ⟨exec_softError_failing 1 hw hm hecc, exec_softError_failing 0 hw hm hecc⟩
  case retention =>
    intro core hecc
    exact ⟨⟨_, rfl, by simp [State.onEcc, hecc, Ecc.enter, Ecc.reset]⟩, ⟨_, rfl, by simp [State.onEcc, hecc, Ecc.exit, Ecc.reset]⟩⟩
  case tlbi =>
    intro p v
    exact ⟨_, rfl, rfl, rfl, s.tlbi_tlb p v⟩
  case region =>
    intro n v hn
    refine ⟨?_, fun hf => exec_formatRegionWrite_ignored hf⟩
    rw [exec_formatRegionWrite_first hn]
    exact ⟨_, rfl, by simp, by simp⟩
  case noRegion =>
    intro n reg v hn
    exact exec_formatRegionWrite_none reg v hn
  case held =>
    intro cell p core h t hp hpark hnone hhold hq hroom
    subst hq
    have hdrain := State.drainHeld_launch cell p h hroom
    refine ⟨_, exec_rankWindowAccess_cell hp hpark ?_, ?_, ?_⟩
    · intro i hi
      rw [hhold, hdrain, State.setCell_core]
      refine (State.setCore_held s core _ _ ?_).trans (hnone i hi)
      rfl
    · rw [hhold, hdrain, State.setCell_core, State.setCore_core_same]
    · rw [hhold, hdrain, State.setCell_cell_same]
      exact SMap.get_drop_same _ _ _
  case move =>
    intro p r new e hr he hl hv ht hold hp hcell hnew hidle hq hrest hfree
    subst he
    exact exec_threadMove_mark hr hl hv ht hold hp hcell hnew hidle hq hrest hfree
  case moveDead =>
    intro p r new hl
    exact exec_threadMove_dead r new hl

end Sys2Proof.Machine
end

section
/-! What a matrix word does at issue: the checks it makes, and the push of the words that queue an operation (O23). -/

namespace Sys2Proof.Machine

/-! ### Checks and fields -/

/-- A check that is met lets the rest of a composition go on. -/
theorem need_bind {α : Type} {p : Bool} (hp : p = true) (c : CauseRec) (f : Unit → Except Stop α) : (need p c >>= f) = f () := by
  rw [(need_ok p c).2 hp]; rfl
theorem await_bind {α : Type} {p : Bool} (hp : p = true) (w : Wait) (f : Unit → Except Stop α) : (await p w >>= f) = f () := by
  rw [(await_ok p w).2 hp]; rfl
/-- A wait that is not over blocks, whatever would follow. -/
theorem await_bind_false {α : Type} {p : Bool} (hp : p = false) (w : Wait) (f : Unit → Except Stop α) :
    (await p w >>= f) = .error (.block w) := by
  rw [hp]; rfl
theorem bind_of_ok {α β : Type} {x : Except Stop α} {a : α} (hx : x = .ok a) (f : α → Except Stop β) : (x >>= f) = f a := by
  rw [hx]; rfl

/-- The field above the bits of a small number is 0. -/
theorem bits_above {n : Nat} {x : BitVec n} {lo : Nat} (h : x.toNat < 2 ^ lo) (hi : Nat) : bits x hi lo = 0 := by
  rw [bits, Nat.div_eq_of_lt h, Nat.zero_mod]
/-- The lowest field of a number that fits it is the number. -/
theorem bits_low {n : Nat} {x : BitVec n} {hi : Nat} (h : x.toNat < 2 ^ (hi + 1)) : bits x hi 0 = x.toNat := by
  rw [bits, Nat.pow_zero, Nat.div_one, Nat.sub_zero, Nat.mod_eq_of_lt h]

/-! ### Claims -/

theorem SMap.mem_of_find {α : Type} {m : SMap α} {k : Nat} {v : α} (h : SMap.find m k = some v) : (k, v) ∈ m := by
  induction m with
  | nil => cases h
  | cons p t ih =>
    obtain ⟨j, w⟩ := p
    by_cases hj : k = j
    · subst hj
      rw [SMap.find, if_pos rfl] at h
      cases h
      exact List.mem_cons_self
    · rw [SMap.find, if_neg hj] at h
      exact List.mem_cons_of_mem _ (ih h)
theorem SMap.find_set_other {α : Type} (m : SMap α) (k j : Nat) (v : α) (h : j ≠ k) : SMap.find (SMap.set m k v) j = SMap.find m j := by
  induction m with
  | nil => simp [SMap.set, SMap.find, h]
  | cons p t ih =>
    obtain ⟨i, w⟩ := p
    by_cases hi : k = i
    · subst hi; simp [SMap.set, SMap.find, h]
    · by_cases hl : k < i
      · simp [SMap.set, SMap.find, hi, hl, h]
      · simp [SMap.set, SMap.find, hi, hl, ih]
/-- Of keys set to one value in turn each reads as it, every other as before. -/
theorem SMap.find_foldl_set {α : Type} (v : α) (j : Nat) (l : List Nat) (m : SMap α) :
    SMap.find (l.foldl (fun m k => SMap.set m k v) m) j = if j ∈ l then some v else SMap.find m j := by
  induction l generalizing m with
  | nil => simp
  | cons k t ih =>
    rw [List.foldl_cons, ih]
    by_cases hk : j = k
    · subst hk; simp
    · simp [hk, SMap.find_set_other]

/-- A slot that is listed under a context is one that it holds. -/
theorem Cell.held_of_find {u : Cell} {o k : Nat} {x} (h : SMap.find u.claims o = some (k, x)) : (u.held k).contains o = true := by
  refine List.contains_iff_mem.2 (List.mem_map.2 ⟨(o, (k, x)), List.mem_filter.2 ⟨SMap.mem_of_find h, ?_⟩, rfl⟩)
  exact decide_eq_true rfl

/-! ### Words that queue an operation -/

section
variable {s : State} {k : Nat} {x y : Word} (pc : Word)

theorem State.mqPush_room (i : Instr) (x y : Word) (h : (s.cell (k / 16)).mq.length < 16) :
    s.mqPush k pc i x y = .ok (s.setCell (k / 16) { s.cell (k / 16) with
      mq := (s.cell (k / 16)).mq ++ [s.mqOp k pc i x y (s.cell (k / 16)).mqNum none], mqNum := (s.cell (k / 16)).mqNum + 1 }) :=
  await_bind (decide_eq_true h) _ _
/-- With 16 operations queued a word waits (09 R207). -/
theorem State.mqPush_full (i : Instr) (x y : Word) (h : 16 ≤ (s.cell (k / 16)).mq.length) :
    s.mqPush k pc i x y = .error (.block .mq) :=
  await_bind_false (decide_eq_false (Nat.not_lt.2 h)) _ _

theorem State.matIssue_mrel (a : BitVec 5) (y : Word) (hx : x.toNat < 2 ^ 16) :
    s.matIssue k pc (.mrel a) x y = s.mqPush k pc (.mrel a) x y :=
  need_bind (decide_eq_true (bits_above hx 63)) _ _
theorem State.matIssue_mzero (a : BitVec 5) (y : Word) (hx : x.toNat < 2 ^ 8) :
    s.matIssue k pc (.mzero a) x y = s.mqPush k pc (.mzero a) x y :=
  need_bind (decide_eq_true (bits_above hx 63)) _ _

/-- MLOAD of a slot that its context holds, from a line of scratch or of translated memory (09 R211). -/
theorem State.matIssue_mload {a b : BitVec 5} {f : BitVec 4} (hf : f.toNat ≤ 6) (hy : y.toNat < 16) (hx : x.toNat % 128 = 0)
    (hspace : spaceOf x ≠ .rank) (hheld : ((s.cell (k / 16)).held k).contains y.toNat = true)
    (hwork : (s.ctx k).isWork = false) (hfree : s.engineFree k = .ok ()) :
    s.matIssue k pc (.mload a b f) x y = s.mqPush k pc (.mload a b f) x y := by
  have hslot : ((s.cell (k / 16)).held k).contains (bits y 3 0) = true := by rwa [bits_low hy]
  have hplain : (!((s.ctx k).isWork && decide (spaceOf x ≠ .scratch))) = true := by rw [hwork]; rfl
  simp only [State.matIssue]
  rw [need_bind (decide_eq_true hf), need_bind (decide_eq_true (bits_above hy 63)), need_bind (decide_eq_true hx),
    need_bind (decide_eq_true hspace), need_bind hslot, need_bind hplain, bind_of_ok hfree]

theorem State.matIssue_mma {b : BitVec 5} {sh : MShape} (x : Word)
    (hsh : sh = mshape ((s.ctx k).e 0) ((s.ctx k).e 1) ((s.ctx k).e 2) (mmaOver b y))
    (hok : mmaOk ((s.ctx k).e 0) ((s.ctx k).e 1) ((s.ctx k).e 2) sh = true)
    (hheld : (slotsUsed sh).all (fun o => ((s.cell (k / 16)).held k).contains o) = true) :
    s.matIssue k pc (.mma b) x y = s.mqPush k pc (.mma b) x y := by
  subst hsh
  exact (need_bind hok _ _).trans (need_bind hheld _ _)

theorem State.waysFree_of_none {s : State} {k : Nat} (va : Word) (h : (s.core (k / 4)).ways = none) : s.waysFree k va = .ok () := by
  simp [State.waysFree, h]

/-- MDRAIN outside a work routine, with no WAYS in progress (09 R214). -/
theorem State.matIssue_mdrain {a b : BitVec 5} {sat : BitVec 1} {sh : MShape}
    (hsh : sh = mshape ((s.ctx k).e 0) ((s.ctx k).e 1) ((s.ctx k).e 2) none)
    (hshape : shapeOk ((s.ctx k).e 0) ((s.ctx k).e 2) = true) (hfmt : drainBytes sh.outFmt ≠ 0)
    (hx : x.toNat % drainBytes sh.outFmt = 0) (hy : y.toNat % drainBytes sh.outFmt = 0) (hpost : ((s.ctx k).e 3).toNat % 8 = 0)
    (hin : s.drainInScratch (k / 4) sh x y = true) (hwork : (s.ctx k).isWork = false) (hways : (s.core (k / 4)).ways = none)
    (hfree : s.engineFree k = .ok ()) :
    s.matIssue k pc (.mdrain a sat b) x y = s.mqPush k pc (.mdrain a sat b) x y := by
  subst hsh
  have hplain : (!((s.ctx k).isWork && decide ((s.ctx k).e 3 ≠ 0))) = true := by rw [hwork]; rfl
  simp only [State.matIssue]
  rw [need_bind (Bool.and_eq_true_iff.2 ⟨hshape, decide_eq_true hfmt⟩), need_bind (decide_eq_true hx), need_bind (decide_eq_true hy),
    need_bind (decide_eq_true hpost), bind_of_ok (State.waysFree_of_none 0 hways), need_bind hin, need_bind hplain, bind_of_ok hfree]

end

/-- A matrix word whose checks are met puts its operation last in the mq, or waits while 16 stand there. -/
theorem State.matExec_queues {s : State} {i : Instr} {x y : Word}
    (hx : s.cx.so ((matSpec i).getD (none, none, none)).1 = x) (hy : s.cx.so ((matSpec i).getD (none, none, none)).2.1 = y)
    (hissue : s.matIssue s.cur s.cx.pc i x y = s.mqPush s.cur s.cx.pc i x y) :
    ((s.cell s.curCell).mq.length < 16 → s.matExec i = .next ((s.setCell s.curCell { s.cell s.curCell with
        mq := (s.cell s.curCell).mq ++ [s.mqOp s.cur s.cx.pc i x y (s.cell s.curCell).mqNum none],
        mqNum := (s.cell s.curCell).mqNum + 1 }).skip 4)) ∧
    (16 ≤ (s.cell s.curCell).mq.length → s.matExec i = .next (s.block .mq)) := by
  subst hx hy
  simp only [State.matExec, hissue]
  refine ⟨fun h => ?_, fun h => ?_⟩
  · rw [bind_of_ok (State.mqPush_room _ _ _ _ h)]; rfl
  · rw [State.mqPush_full _ _ _ _ h]; rfl

/-- Settles O23: the checks of each of the five words are met, so each comes to the same push. -/
theorem matrixQueueWords : Obligations.MatrixQueueWords := by
  unfold Obligations.MatrixQueueWords
  rintro s i x y (⟨a, rfl, rfl, rfl, hx⟩ | ⟨a, rfl, rfl, rfl, hx⟩ | ⟨a, b, f, rfl, rfl, rfl, hf, hy, hx, hspace, hfind, hwork, hfree⟩ |
    ⟨b, rfl, rfl, rfl, hok, hheld⟩ | ⟨a, sat, b, rfl, rfl, rfl, hshape, hfmt, hx, hy, hpost, hin, hwork, hways, hfree⟩)
  · exact State.matExec_queues rfl rfl (State.matIssue_mrel _ a 0 hx)
  · exact State.matExec_queues rfl rfl (State.matIssue_mzero _ a 0 hx)
  · exact State.matExec_queues rfl rfl (State.matIssue_mload _ hf hy hx hspace (Cell.held_of_find hfind) hwork hfree)
  · exact State.matExec_queues rfl rfl (State.matIssue_mma _ 0 rfl hok hheld)
  · exact State.matExec_queues rfl rfl (State.matIssue_mdrain _ rfl hshape hfmt hx hy hpost hin hwork hways hfree)

end Sys2Proof.Machine
end

section
/-! The matrix words that complete at issue, and MMA.r, which sends its command to the cell that a capability names (O24). -/

namespace Sys2Proof.Machine

/-! ### What an instruction that completes leaves of the state -/

@[simp] theorem State.wr_cx (s : State) (n d v) : (s.wr n d v).cx = (s.cx.setS d v).advance n := State.setCx_cx _ _
@[simp] theorem State.skip_cx (s : State) (n) : (s.skip n).cx = s.cx.advance n := State.setCx_cx _ _
@[simp] theorem State.wr_cell (s : State) (n d v c) : (s.wr n d v).cell c = s.cell c := rfl
@[simp] theorem State.skip_cell (s : State) (n c) : (s.skip n).cell c = s.cell c := rfl
/-- The two halves of a completion, the write and the move past the word, are `wr`. -/
theorem State.setCtx_skip (s : State) (n d v) : (s.setCtx s.cur (s.cx.setS d v)).skip n = s.wr n d v := by
  simp only [State.skip, State.wr, State.setCx, State.setCtx_setCtx, State.setCtx_cur, State.cx, State.setCtx_ctx_same]

@[simp] theorem State.stampTo_cell (s : State) (src dst c) : (s.stampTo src dst).cell c = s.cell c := by
  simp only [State.stampTo]; split <;> rfl
@[simp] theorem State.stampTo_cx (s : State) (src dst) : (s.stampTo src dst).cx = s.cx := by
  simp only [State.stampTo]; split <;> rfl

theorem SameBytes.trans {s t u : State} (h : SameBytes s t) (g : SameBytes t u) : SameBytes s u :=
  ⟨fun key pa => (g.1 key pa).trans (h.1 key pa), fun core off => (g.2 core off).trans (h.2 core off)⟩
theorem State.wr_sameBytes (s : State) (n d v) : SameBytes s (s.wr n d v) := ⟨fun _ _ => rfl, fun _ _ => rfl⟩
theorem State.skip_sameBytes (s : State) (n) : SameBytes s (s.skip n) := ⟨fun _ _ => rfl, fun _ _ => rfl⟩
theorem State.setCell_sameBytes (s : State) (c x) : SameBytes s (s.setCell c x) := ⟨fun _ _ => rfl, fun _ _ => rfl⟩
theorem State.bump_sameBytes (s : State) (n) : SameBytes s (s.bump n) := ⟨fun _ _ => rfl, fun _ _ => rfl⟩
theorem State.stampTo_sameBytes (s : State) (src dst) : SameBytes s (s.stampTo src dst) := by
  simp only [State.stampTo]; split <;> exact ⟨fun _ _ => rfl, fun _ _ => rfl⟩

theorem State.matExec_ok {s t : State} {i : Instr} {x y : Word}
    (hx : s.cx.so ((matSpec i).getD (none, none, none)).1 = x) (hy : s.cx.so ((matSpec i).getD (none, none, none)).2.1 = y)
    (h : s.matIssue s.cur s.cx.pc i x y = .ok t) : s.matExec i = .next (t.skip 4) := by
  subst hx hy
  simp only [State.matExec]
  rw [bind_of_ok h]; rfl
theorem State.matExec_error {s : State} {i : Instr} {x y : Word} {e : Stop}
    (hx : s.cx.so ((matSpec i).getD (none, none, none)).1 = x) (hy : s.cx.so ((matSpec i).getD (none, none, none)).2.1 = y)
    (h : s.matIssue s.cur s.cx.pc i x y = .error e) : s.matExec i = .next (s.stopped e) := by
  subst hx hy
  simp only [State.matExec]
  rw [h]; rfl

/-! ### MCLAIM (09 R210) -/

/-- The slots of a mask that another context than k holds. -/
def Cell.clashes (u : Cell) (k : Nat) (x : Word) : List Nat :=
  (maskSlots x).filter (fun o => u.claims.any (fun e => e.1 = o && e.2.1 ≠ k))

section
variable {s : State} {d a : BitVec 5} (hx : (s.cx.s a).toNat < 2 ^ 16)
include hx

theorem exec_mclaim_free (h : (s.cell s.curCell).clashes s.cur (s.cx.s a) = []) :
    exec (.mclaim d a) s = .next ((s.setCell s.curCell { s.cell s.curCell with
      claims := (maskSlots (s.cx.s a)).foldl (fun m o => SMap.set m o (s.cur, none)) (s.cell s.curCell).claims }).wr 4 d 0) := by
  rw [← State.setCtx_skip]
  refine State.matExec_ok (y := 0) rfl rfl ((need_bind (decide_eq_true (bits_above hx 63)) _ _).trans ?_)
  exact if_pos (List.isEmpty_iff.2 h)
theorem exec_mclaim_clash (h : (s.cell s.curCell).clashes s.cur (s.cx.s a) ≠ []) :
    exec (.mclaim d a) s = .next (s.wr 4 d (slotMask ((s.cell s.curCell).clashes s.cur (s.cx.s a)))) := by
  rw [← State.setCtx_skip]
  refine State.matExec_ok (y := 0) rfl rfl ((need_bind (decide_eq_true (bits_above hx 63)) _ _).trans ?_)
  exact if_neg (fun he => h (List.isEmpty_iff.1 he))

end

/-! ### MGRANT (09 R216) -/

/-- The grant that MGRANT of context k makes of mask x and rights y. -/
def State.newGrant (s : State) (k : Nat) (x y : Word) : Grant :=
  { nonce := (Config.freeWord s.free).toNat % 0x10000, slots := bits x 15 0, rights := bits y 9 8, accs := bits y 7 0, key := k,
    part := s.partOf (k / 4) }

section
variable {s : State} {d a b : BitVec 5} (hx : (s.cx.s a).toNat < 2 ^ 16) (hy : (s.cx.s b).toNat < 2 ^ 12)
  (hheld : (maskSlots (s.cx.s a)).all (fun o => ((s.cell s.curCell).held s.cur).contains o) = true)
include hx hy hheld

/-- MGRANT of slots that its context holds: the word of a new grant, or all ones where none can be made. -/
theorem State.matIssue_mgrant (pc : Word) : s.matIssue s.cur pc (.mgrant d a b) (s.cx.s a) (s.cx.s b) =
    if (s.cx.st.chk || 8 ≤ (s.cell s.curCell).grants.length) then .ok (s.setCtx s.cur (s.cx.setS d (-1)))
    else .ok (((s.bump 1).setCell s.curCell { s.cell s.curCell with
      grants := (s.cell s.curCell).grants ++ [s.newGrant s.cur (s.cx.s a) (s.cx.s b)] }).setCtx s.cur
        (s.cx.setS d ((s.newGrant s.cur (s.cx.s a) (s.cx.s b)).word s.curCell))) := by
  have hfields : (decide (bits (s.cx.s a) 63 16 = 0) && decide (bits (s.cx.s b) 63 12 = 0)) = true :=
    Bool.and_eq_true_iff.2 ⟨decide_eq_true (bits_above hx 63), decide_eq_true (bits_above hy 63)⟩
  exact (need_bind hheld _ _).trans (need_bind hfields _ _)

theorem exec_mgrant_new (hchk : s.cx.st.chk = false) (hroom : (s.cell s.curCell).grants.length < 8) :
    exec (.mgrant d a b) s = .next (((s.bump 1).setCell s.curCell { s.cell s.curCell with
      grants := (s.cell s.curCell).grants ++ [s.newGrant s.cur (s.cx.s a) (s.cx.s b)] }).wr 4 d
        ((s.newGrant s.cur (s.cx.s a) (s.cx.s b)).word s.curCell)) := by
  rw [← State.setCtx_skip]
  refine State.matExec_ok rfl rfl ((State.matIssue_mgrant hx hy hheld _).trans (if_neg ?_))
  rw [hchk, Bool.false_or, decide_eq_true_eq]
  exact Nat.not_le.2 hroom
theorem exec_mgrant_none (h : s.cx.st.chk = true ∨ 8 ≤ (s.cell s.curCell).grants.length) :
    exec (.mgrant d a b) s = .next (s.wr 4 d (-1)) := by
  rw [← State.setCtx_skip]
  refine State.matExec_ok rfl rfl ((State.matIssue_mgrant hx hy hheld _).trans (if_pos ?_))
  rw [Bool.or_eq_true, decide_eq_true_eq]
  exact h

end

/-! ### MSTAT (09 R215) -/

/-- The operations of context k that it queued in its own cell. -/
def Cell.queued (u : Cell) (k : Nat) : List MqOp := u.mq.filter (fun o => o.key = k && o.remote.isNone)
/-- What MSTAT of context k returns (09 Table 9-6). -/
def Cell.mstat (u : Cell) (k : Nat) (sel : Nat) : Word := match sel with
  | 0 => (slotMask u.taken <<< 16) ||| slotMask (u.held k)
  | 1 => BitVec.ofNat 64 (u.queued k).length
  | 2 => BitVec.ofNat 64 ((if u.mqFrozen then 256 else 0) + u.mq.length)
  | _ => 0

theorem Cell.queued_isEmpty_of_any {u : Cell} {k : Nat} (h : u.mq.any (fun o => o.key = k && o.remote.isNone) = true) :
    (u.queued k).isEmpty = false := by
  obtain ⟨o, ho, hp⟩ := List.any_eq_true.1 h
  exact List.isEmpty_eq_false_iff.2 (List.ne_nil_of_mem (List.mem_filter.2 ⟨ho, hp⟩))
theorem Cell.queued_isEmpty_of_all {u : Cell} {k : Nat} (h : u.mq.all (fun o => o.key ≠ k || o.remote.isSome) = true) :
    (u.queued k).isEmpty = true := by
  refine List.isEmpty_iff.2 (List.filter_eq_nil_iff.2 fun o ho hp => ?_)
  obtain ⟨hkey, hnone⟩ := Bool.and_eq_true_iff.1 hp
  cases Bool.or_eq_true_iff.1 (List.all_eq_true.1 h o ho) with
  | inl hother => exact of_decide_eq_true hother (of_decide_eq_true hkey)
  | inr hsome =>
    rw [Option.isNone_iff_eq_none.1 hnone] at hsome
    cases hsome
theorem Cell.mstat_two (u : Cell) (k : Nat) : u.mstat k 2 = BitVec.ofNat 64 (u.mq.length + 256 * u.mqFrozen.toNat) := by
  rw [Cell.mstat, Nat.add_comm]
  cases u.mqFrozen <;> rfl
theorem Cell.mstat_reserved (u : Cell) (k : Nat) {sel : Nat} (h : 3 ≤ sel) : u.mstat k sel = 0 := by
  obtain ⟨n, rfl⟩ := Nat.exists_eq_add_of_le' h
  rfl

theorem exec_mstat_waits {s : State} (d a : BitVec 5) (h : ((s.cell s.curCell).queued s.cur).isEmpty = false) :
    exec (.mstat d a 1) s = .next (s.block .mqDone) := by
  refine State.matExec_error (y := 0) rfl rfl (e := .block .mqDone) ?_
  exact await_bind_false (p := decide ((1 : BitVec 1) = 0) || ((s.cell s.curCell).queued s.cur).isEmpty) (by rw [h]; rfl) _ _
theorem exec_mstat_value {s : State} (d a : BitVec 5) {w : BitVec 1} (h : w = 0 ∨ ((s.cell s.curCell).queued s.cur).isEmpty = true) :
    exec (.mstat d a w) s = .next (s.wr 4 d ((s.cell s.curCell).mstat s.cur (s.cx.s a).toNat)) := by
  rw [← State.setCtx_skip]
  refine State.matExec_ok (y := 0) rfl rfl ?_
  refine await_bind (p := decide (w = 0) || ((s.cell s.curCell).queued s.cur).isEmpty) ?_ _ _
  rwa [Bool.or_eq_true, decide_eq_true_eq]

/-! ### MMA.r (09 R217) -/

/-- The command of MMA.r leaves for the cell that its capability names, or is held at the gateway of that cell's die. -/
def State.sendMma (s : State) (k : Nat) (op : MqOp) (cell : Nat) : Except Stop State := do
  await (s.mayArrive (dieOf (k / 4)) (cell / 8192)) (.hold (cell / 8192))
  .ok ((s.setCell cell { s.cell cell with mmaIn := (s.cell cell).mmaIn ++ [op] }).stampTo (dieOf (k / 4)) (cell / 8192))

section
variable {s : State} {a b : BitVec 5} {sh : MShape} (hsh : sh = mshape (s.cx.e 0) (s.cx.e 1) (s.cx.e 2) (mmaOver b (s.cx.s b)))
  (hok : mmaOk (s.cx.e 0) (s.cx.e 1) (s.cx.e 2) sh = true) (hpost : (s.cx.e 3).toNat % 8 = 0)
  (hcell : s.validCell (bits (s.cx.s a) 31 16) = true) (hwork : s.cx.isWork = false)
include hsh hok hpost hcell hwork

/-- MMA.r whose checks are met sends its command; in a check heat it does nothing. -/
theorem State.matIssue_mmaR : s.matIssue s.cur s.cx.pc (.mmaR a b) (s.cx.s a) (s.cx.s b) =
    if s.cx.st.chk then .ok s else s.engineFree s.cur >>= fun _ => s.sendMma s.cur
      (s.mqOp s.cur s.cx.pc (.mmaR a b) (s.cx.s a) (s.cx.s b) 0 (some s.curPart)) (bits (s.cx.s a) 31 16) := by
  subst hsh
  have hplain : (!s.cx.isWork) = true := by rw [hwork]; rfl
  exact (need_bind hok _ _).trans ((need_bind (decide_eq_true hpost) _ _).trans ((need_bind hcell _ _).trans
    (need_bind hplain _ _)))

theorem exec_mmaR_heat (hchk : s.cx.st.chk = true) : exec (.mmaR a b) s = .next (s.skip 4) := by
  refine State.matExec_ok rfl rfl ?_
  exact (State.matIssue_mmaR hsh hok hpost hcell hwork).trans (if_pos hchk)

theorem State.matIssue_mmaR_free (hchk : s.cx.st.chk = false) (hfree : s.engineFree s.cur = .ok ()) :
    s.matIssue s.cur s.cx.pc (.mmaR a b) (s.cx.s a) (s.cx.s b) = s.sendMma s.cur
      (s.mqOp s.cur s.cx.pc (.mmaR a b) (s.cx.s a) (s.cx.s b) 0 (some s.curPart)) (bits (s.cx.s a) 31 16) := by
  rw [State.matIssue_mmaR hsh hok hpost hcell hwork, if_neg (Bool.eq_false_iff.1 hchk), bind_of_ok hfree]

variable {cell : Nat} (hc : cell = bits (s.cx.s a) 31 16)
include hc

theorem exec_mmaR_sent (hchk : s.cx.st.chk = false) (hfree : s.engineFree s.cur = .ok ())
    (harr : s.mayArrive (dieOf s.curCore) (cell / 8192) = true) :
    exec (.mmaR a b) s = .next (((s.setCell cell { s.cell cell with
      mmaIn := (s.cell cell).mmaIn ++ [s.mqOp s.cur s.cx.pc (.mmaR a b) (s.cx.s a) (s.cx.s b) 0 (some s.curPart)] }).stampTo
        (dieOf s.curCore) (cell / 8192)).skip 4) := by
  subst hc
  refine State.matExec_ok rfl rfl ?_
  exact (State.matIssue_mmaR_free hsh hok hpost hcell hwork hchk hfree).trans (await_bind harr _ _)
/-- What precedes the command at that die has not been applied there: the word waits (04 R87). -/
theorem exec_mmaR_held (hchk : s.cx.st.chk = false) (hfree : s.engineFree s.cur = .ok ())
    (harr : s.mayArrive (dieOf s.curCore) (cell / 8192) = false) :
    exec (.mmaR a b) s = .next (s.block (.hold (cell / 8192))) := by
  subst hc
  refine State.matExec_error (s := s) rfl rfl (e := .block (.hold _)) ?_
  exact (State.matIssue_mmaR_free hsh hok hpost hcell hwork hchk hfree).trans (await_bind_false harr _ _)

end

/-- Settles O24: one equation of the step for each word in each of its cases. -/
theorem matrixScalarWords : Obligations.MatrixScalarWords := by
  unfold Obligations.MatrixScalarWords
  intro s d a b w
  refine ⟨?claim, ?grant, ?statWaits, ?stat, ?remote⟩
  case claim =>
    rintro hx t rfl
    refine ⟨fun hfree => ⟨_, exec_mclaim_free hx hfree, State.wr_cx _ _ _ _,
      (State.setCell_sameBytes _ _ _).trans (State.wr_sameBytes _ _ _ _), fun o => ?_⟩, fun hclash => exec_mclaim_clash hx hclash⟩
    rw [State.wr_cell, State.setCell_cell_same]
    exact SMap.find_foldl_set _ _ _ _
  case grant =>
    intro hx hy hheld
    refine ⟨fun hchk hroom => ⟨_, s.newGrant s.cur (s.cx.s a) (s.cx.s b), exec_mgrant_new hx hy hheld hchk hroom, ?_, bits_low hx, rfl, rfl, rfl, rfl, State.wr_cx _ _ _ _,
      ((State.bump_sameBytes s 1).trans (State.setCell_sameBytes _ _ _)).trans (State.wr_sameBytes _ _ _ _)⟩,
      fun h => exec_mgrant_none hx hy hheld h⟩
    rw [State.wr_cell, State.setCell_cell_same]
  case statWaits =>
    rintro hmine rfl
    exact exec_mstat_waits d a (Cell.queued_isEmpty_of_any hmine)
  case stat =>
    intro h
    refine ⟨_, exec_mstat_value d a (h.imp_right Cell.queued_isEmpty_of_all), fun h0 => by rw [h0]; rfl, fun h1 => by rw [h1]; rfl,
      fun h2 => ?_, fun h3 => Cell.mstat_reserved _ _ h3⟩
    rw [h2]
    exact Cell.mstat_two _ _
  case remote =>
    intro hok hpost hcell hwork
    refine ⟨fun hchk => exec_mmaR_heat rfl hok hpost hcell hwork hchk, fun hchk hfree => ⟨fun harr => ?_, fun harr => ?_⟩⟩
    · refine ⟨_, s.mqOp s.cur s.cx.pc (.mmaR a b) (s.cx.s a) (s.cx.s b) 0 (some s.curPart),
        exec_mmaR_sent rfl hok hpost hcell hwork rfl hchk hfree harr, ?_, rfl, rfl, rfl, rfl, rfl, rfl, rfl, rfl, ?_,
        ((State.setCell_sameBytes _ _ _).trans (State.stampTo_sameBytes _ _ _)).trans (State.skip_sameBytes _ _)⟩
      · rw [State.skip_cell, State.stampTo_cell, State.setCell_cell_same]
      · rw [State.skip_cx, State.stampTo_cx]; rfl
    · exact exec_mmaR_held rfl hok hpost hcell hwork rfl hchk hfree harr

end Sys2Proof.Machine
end

section
/-! What KRBIN, EDGE and EMODE do at issue (O35). -/

namespace Sys2Proof.Machine

/-- A check that is not met stops the instruction with its cause, whatever would follow. -/
theorem need_bind_false {α : Type} {p : Bool} (hp : p = false) (c : CauseRec) (f : Unit → Except Stop α) :
    (need p c >>= f) = .error (.trap c) := by
  rw [hp]; rfl

/-! ### KRBIN (10 R221, 23 R387) -/

section
variable {s : State} {a b : BitVec 5}

theorem exec_krbin_bad (hok : krbOk (s.cx.s a) (s.cx.s b) = false) :
    exec (.krbin a b) s = .next (s.stopped (.trap (cz 0x02))) :=
  congrArg s.out (need_bind_false hok _ _)

variable (hok : krbOk (s.cx.s a) (s.cx.s b) = true) (hchk : s.cx.st.chk = false)
include hok hchk

theorem exec_krbin_good : exec (.krbin a b) s = s.out (do
    await (s.core s.curCore).kin.isEmpty .keys
    .ok ((s.setCore s.curCore { s.core s.curCore with krb0 := s.cx.s a, krb1 := s.cx.s b }).skip 4)) := by
  refine congrArg s.out ((need_bind hok _ _).trans (if_neg ?_))
  rw [hchk]; exact Bool.false_ne_true
theorem exec_krbin_set (hkin : (s.core s.curCore).kin = []) : exec (.krbin a b) s =
    .next ((s.setCore s.curCore { s.core s.curCore with krb0 := s.cx.s a, krb1 := s.cx.s b }).skip 4) :=
  (exec_krbin_good hok hchk).trans (congrArg s.out (await_bind (List.isEmpty_iff.2 hkin) _ _))
theorem exec_krbin_waits (hkin : (s.core s.curCore).kin ≠ []) : exec (.krbin a b) s = .next (s.block .keys) :=
  (exec_krbin_good hok hchk).trans (congrArg s.out (await_bind_false (List.isEmpty_eq_false_iff.2 hkin) _ _))

end

/-! ### EDGE (10 R226) -/

/-- The program that EDGE of the issuing context puts on its cell's gq. -/
def State.newEdge (s : State) : EdgeProg :=
  { key := s.cur, task := s.cx.taskNum, pc := s.cx.pc, core := s.curCore, krb0 := (s.core s.curCore).krb0,
    krb1 := (s.core s.curCore).krb1, e := s.cx.ereg, s := s.cx.sreg, priv := s.cx.st.priv, num := (s.cell s.curCell).gqNum }

section
variable {s : State}

theorem exec_edge_bad (hok : edgeOk s.cx.ereg (s.core s.curCore).krb0 (s.part s.curPart).cells.length = false) :
    exec .edge s = .next (s.stopped (.trap (cz 0x42))) :=
  congrArg s.out (need_bind_false hok _ _)

/-- Outside a deterministic partition no combining operation is refused (10 R235), so a good descriptor is queued. -/
theorem exec_edge_queued (hok : edgeOk s.cx.ereg (s.core s.curCore).krb0 (s.part s.curPart).cells.length = true)
    (hwork : s.cx.isWork = false) (hdet : (s.part s.curPart).det = false) (hchk : s.cx.st.chk = false)
    (hfree : s.engineFree s.cur = .ok ()) :
    exec .edge s = .next ((s.setCell s.curCell { s.cell s.curCell with
      gq := (s.cell s.curCell).gq ++ [s.newEdge], gqNum := (s.cell s.curCell).gqNum + 1 }).skip 4) := by
  show execEdge s = _
  simp only [execEdge]
  rw [need_bind hok, need_bind (by rw [hwork]; rfl), need_bind (by rw [hdet]; rfl), if_neg (by rw [hchk]; exact Bool.false_ne_true),
    bind_of_ok hfree, if_neg (by rw [hdet]; exact Bool.false_ne_true)]
  rfl

end

/-! ### EMODE (10 R233) -/

theorem exec_emode {s : State} {d a : BitVec 5} (hdet : (s.part s.curPart).det = false) (hreq : (s.cx.s a).toNat < 4) :
    exec (.emode d a) s = .next ((if s.cx.s a ≠ 0 ∧ (s.cell s.curCell).esw.run = true then s.setCell s.curCell
        { s.cell s.curCell with esw := { (s.cell s.curCell).esw with pend := (s.cx.s a).setWidth 2 } }
      else s).wr 4 d (s.cell s.curCell).esw.word) := by
  show execEmode d a s = _
  simp only [execEmode]
  rw [need_bind (decide_eq_true (bits_above hreq 63)), need_bind (by rw [hdet]; rfl)]
  simp only [State.out_ok, Bool.and_eq_true, decide_eq_true_eq]

/-- Settles O35: one equation of the step for each word in each of its cases. -/
theorem edgeWords : Obligations.EdgeWords := by
  unfold Obligations.EdgeWords
  intro s d a b hchk
  refine ⟨exec_krbin_bad, fun hok => ?krbin, exec_edge_bad, fun hok hwork hdet hfree => ?edge, exec_emode⟩
  case krbin =>
    split
    case isTrue hkin => exact exec_krbin_set hok hchk hkin
    case isFalse hkin => exact exec_krbin_waits hok hchk hkin
  case edge =>
    refine ⟨_, s.newEdge, exec_edge_queued hok hwork hdet hchk hfree, ?_, rfl, rfl, rfl, rfl, State.skip_cx _ _⟩
    rw [State.skip_cell, State.setCell_cell_same]

end Sys2Proof.Machine
end

section
/-! What the hardware-owned bytes of a retention slot leave when they are stored (O51): every partition's record stands as it did.
One `f_parts` for each function that the store is made of, in the model's order. -/

namespace Sys2Proof.Machine

/-! ### The caches -/

@[simp] theorem State.wakeSlice_parts (s : State) (h) : (s.wakeSlice h).parts = s.parts := by
  simp only [State.wakeSlice]; split <;> rfl
@[simp] theorem State.nearAlloc_parts (s : State) (pa l) : (s.nearAlloc pa l).parts = s.parts := rfl
@[simp] theorem State.nearBack_parts (s : State) (l) : (s.nearBack l).parts = s.parts := by
  simp only [State.nearBack]
  split
  · rfl
  · split <;> rfl
@[simp] theorem State.evict_parts (s : State) (core line) : (s.evict core line).parts = s.parts :=
  foldl_keeps State.parts (fun t l => t.nearBack l) State.nearBack_parts _ s
@[simp] theorem State.l1Touch_parts (s : State) (core key pa m d) : (s.l1Touch core key pa m d).parts = s.parts := by
  simp only [State.l1Touch]
  split
  · rfl
  · split
    · rfl
    · rw [State.setCore_parts]
      split
      · exact State.evict_parts _ _ _
      · rfl
@[simp] theorem State.mergeFill_parts (s : State) (pa) : (s.mergeFill pa).parts = s.parts := by
  have hserve : ∀ (reqs : List MissReq) (t : State),
      (reqs.foldl (fun t r => t.l1Touch r.coord r.keyid pa (BitVec.ofNat 4 r.mask) 0) t).parts = t.parts :=
    foldl_keeps State.parts _ (fun t r => t.l1Touch_parts r.coord r.keyid pa (BitVec.ofNat 4 r.mask) 0)
  simp only [State.mergeFill]
  split
  · rfl
  · split
    · exact hserve _ _
    · split
      · rfl
      · exact hserve _ _
@[simp] theorem State.nearTouch_parts (s : State) (key pa m d) : (s.nearTouch key pa m d).parts = s.parts := by
  have hfill : ∀ (c : Prop) [Decidable c] (t : State), (if c then t else t.mergeFill pa).parts = t.parts := by
    intro c _ t; split <;> simp
  simp only [State.nearTouch]
  split
  · exact s.wakeSlice_parts _
  · split
    · split
      · simp [hfill]
      · split <;> simp [hfill]
    · simp [hfill]
    · simp [hfill]
@[simp] theorem State.homeTouch_parts (s : State) (key pa n hb w) : (s.homeTouch key pa n hb w).parts = s.parts := by
  simp only [State.homeTouch]
  split
  · rfl
  · exact foldl_keeps State.parts _ (fun t i => State.nearTouch_parts _ _ _ _ _) _ _

/-! ### The bytes -/

@[simp] theorem State.stampTo_parts (s : State) (src dst) : (s.stampTo src dst).parts = s.parts := by
  simp only [State.stampTo]; split <;> rfl
@[simp] theorem State.rekey_parts (s : State) (key pa) : (s.rekey key pa).parts = s.parts := by
  simp only [State.rekey]; split <;> rfl
@[simp] theorem State.putByte_parts (s : State) (key pa b) : (s.putByte key pa b).parts = s.parts := State.rekey_parts s key pa
@[simp] theorem State.firePhys_parts (s : State) (pa n) : (s.firePhys pa n).parts = s.parts := rfl
@[simp] theorem State.partWrite_parts (s : State) (src part first last va b) :
    (s.partWrite src part first last va b).1.parts = s.parts := by
  induction b generalizing s va with
  | nil => rfl
  | cons x t ih =>
    simp only [State.partWrite]
    split
    · rfl
    · split
      · rfl
      · split
        · rfl
        · rw [ih, State.firePhys_parts, State.putByte_parts]
          split <;> simp
@[simp] theorem State.freshen_parts (s : State) (part first last n) : (s.freshen part first last n).parts = s.parts := by
  induction n with
  | zero => rfl
  | succ n ih =>
    simp only [State.freshen]
    split
    · split <;> exact ih
    · exact ih
@[simp] theorem State.partStore_parts (s : State) (src part va b) : (s.partStore src part va b).1.parts = s.parts := by
  simp only [State.partStore]
  split <;> simp

/-! ### The slot -/

@[simp] theorem State.slotSync_parts (s : State) (src part i) : (s.slotSync src part i).parts = s.parts := by
  simp only [State.slotSync]
  split
  · rfl
  · exact State.partStore_parts _ _ _ _ _
@[simp] theorem State.slotSync_part (s : State) (src part i p) : (s.slotSync src part i).part p = s.part p :=
  congrArg (fun l => SMap.get l Part.reset p) (s.slotSync_parts src part i)

end Sys2Proof.Machine
end

section
/-! The steps of a check heat (O51): which cell checks, one equation of the step for each case of the start of a heat, of its
verdict and of the start of a third heat, and the scores. -/

namespace Sys2Proof.Machine

/-! ### The checking cell (11 R245) -/

/-- Every other cell of the partition stands after the original's. -/
theorem Part.mem_after {p : Part} {cell c : Nat} (hc : c ∈ p.cells) (hne : c ≠ cell) : c ∈ p.after cell := by
  unfold Part.after
  split
  next i hi =>
    obtain ⟨hlt, hcell, -⟩ := List.idxOf?_eq_some_iff.1 hi
    have hsplit : p.cells = p.cells.take i ++ cell :: p.cells.drop (i + 1) := by
      rw [← hcell, ← List.drop_eq_getElem_cons hlt, List.take_append_drop]
    rw [hsplit] at hc
    simp only [List.mem_append, List.mem_cons, hne, false_or] at hc
    exact List.mem_append.2 hc.symm
  next => exact hc
theorem State.mem_rankOrder {s : State} {part orig c : Nat} (hc : c ∈ (s.part part).cells) (hne : c ≠ orig / 4) :
    c ∈ s.rankOrder part orig := by
  have hafter := Part.mem_after hc hne
  simp only [State.rankOrder]
  split
  · exact hafter
  · exact List.mem_eraseDups.2 (List.mem_append_right _ hafter)

/-- A cell may check: another cell of the partition, in service and not excluded. -/
def State.mayCheck (s : State) (part orig : Nat) (l : List Nat) (c : Nat) : Prop :=
  c ∈ (s.part part).cells ∧ s.validCell c = true ∧ c ≠ orig / 4 ∧ c ∉ l

/-- The choice is made among the cells that may check, and one on another die comes before all others. -/
theorem State.checkCell_mayCheck {s : State} {part orig c : Nat} {l : List Nat} (h : s.checkCell part orig l = some c) :
    s.mayCheck part orig l c ∧
      ((∃ d, s.mayCheck part orig l d ∧ dieOf (4 * d) ≠ dieOf orig) → dieOf (4 * c) ≠ dieOf orig) := by
  unfold State.checkCell at h
  extract_lets cs at h
  have hcs : ∀ d, d ∈ cs ↔ s.mayCheck part orig l d := fun d => by
    have hin : s.mayCheck part orig l d → d ∈ s.rankOrder part orig := fun hd => State.mem_rankOrder hd.1 hd.2.2.1
    simpa [cs, State.mayCheck, and_assoc] using hin
  split at h
  next d hd =>
    obtain rfl := Option.some.inj h
    exact ⟨(hcs _).1 (List.mem_of_find?_eq_some hd), fun _ => by simpa using List.find?_some hd⟩
  next hnone =>
    refine ⟨(hcs _).1 ?_, fun ⟨d, hd, hdie⟩ => ?_⟩
    · split at h
      next d hd =>
        obtain rfl := Option.some.inj h
        exact List.mem_of_find?_eq_some hd
      next => exact List.mem_of_head? h
    · exact absurd hdie (by simpa using List.find?_eq_none.1 hnone d ((hcs d).2 hd))

/-! ### The start of a check heat -/

/-- The context on which a heat of a slot starts is Ready, with CHK set and the slot as its task's. -/
theorem State.startHeat_ctx_same (s : State) (k i : Nat) (r : RetSlot) (third : Bool) :
    ((s.startHeat k i r third).ctx k).cs = .ready ∧ ((s.startHeat k i r third).ctx k).st.chk = true ∧
      ((s.startHeat k i r third).ctx k).task.map (fun t => t.check) = some (some (i, third)) := by
  simp only [State.startHeat, State.startTask_ctx_same]
  exact ⟨rfl, rfl, rfl⟩
@[simp] theorem State.freshFetch_part (s : State) (k p) : (s.freshFetch k).part p = s.part p := by
  simp only [State.freshFetch]; split <;> rfl
@[simp] theorem State.startTask_part (s : State) (k t pc param late p) : (s.startTask k t pc param late).part p = s.part p :=
  State.freshFetch_part _ k p
@[simp] theorem State.startHeat_part (s : State) (k i r third p) : (s.startHeat k i r third).part p = s.part p :=
  State.startTask_part _ _ _ _ _ _ _

theorem State.heatRuns_of_runs {s : State} {part c : Nat} (hr : s.runs (4 * c) = true) (hp : (s.cell c).part = some part) :
    s.heatRuns part c = true := by simp [State.heatRuns, hr, hp]
theorem State.heatRuns_eq_false {s : State} {part c : Nat} (hp : (s.cell c).part ≠ some part) : s.heatRuns part c = false := by
  simp [State.heatRuns, hp]

/-- The state as a check heat of the head of the queue is about to start on core 0 of a cell: the slot names the core, in its
record and in its hardware-owned bytes. -/
def State.takeCheck (s : State) (part i c : Nat) (rest : List Nat) (r : RetSlot) : State :=
  ((s.setPart part { s.part part with checkQ := rest }).setSlot part i { r with checker := some (4 * c) }).slotSync (dieOf (4 * c)) part i
theorem State.takeCheck_part (s : State) (part i c rest r) : (s.takeCheck part i c rest r).part part =
    { s.part part with checkQ := rest, slots := SMap.set (s.part part).slots i { r with checker := some (4 * c) } } := by
  simp [State.takeCheck, State.setSlot]

section
variable {s : State} {part : Nat}

theorem exec_checkHeatStart_empty (hq : (s.part part).checkQ = []) : exec (.checkHeatStart part) s = .next s := by
  simp only [exec, execCheckHeatStart, hq]

variable {i : Nat} {rest : List Nat} {r : RetSlot} (hq : (s.part part).checkQ = i :: rest)
include hq

/-- A third heat that waits goes first. A deterministic partition starts none (11 R250); that its queued heats stand all the same is
the model's choice (log 116). -/
theorem exec_checkHeatStart_holds (h : (s.part part).thirdQ ≠ [] ∨ (s.part part).det = true) :
    exec (.checkHeatStart part) s = .next s := by
  have hb : (!(s.part part).thirdQ.isEmpty || (s.part part).det) = true := by simpa using h
  simp only [exec, execCheckHeatStart, hq, hb, if_true]

variable (hr : SMap.find (s.part part).slots i = some r) (ht : (s.part part).thirdQ = []) (hd : (s.part part).det = false)
include hr ht hd

theorem exec_checkHeatStart_dropped (hc : s.checkCell part r.orig [] = none) :
    exec (.checkHeatStart part) s = .next ((s.freeSlotOf part i).heatCount part 0x30) := by
  simp [exec, execCheckHeatStart, hq, hr, ht, hd, hc]
theorem exec_checkHeatStart_waits {c : Nat} (hc : s.checkCell part r.orig [] = some c) (hp : (s.cell c).part ≠ some part) :
    exec (.checkHeatStart part) s = .next s := by
  simp [exec, execCheckHeatStart, hq, hr, ht, hd, hc, State.heatRuns_eq_false hp]
theorem exec_checkHeatStart_starts {c x : Nat} (hc : s.checkCell part r.orig [] = some c) (hruns : s.heatRuns part c = true)
    (hl : (s.core (4 * c)).launchQ = []) (hx : s.idleCtx (4 * c) = some x) :
    exec (.checkHeatStart part) s = .next ((s.takeCheck part i c rest r).startHeat (4 * (4 * c) + x) i r false) := by
  simp [exec, execCheckHeatStart, hq, hr, ht, hd, hc, hruns, hl, hx, State.takeCheck]

end

/-! ### The start of a third heat -/

/-- The record of a slot whose third heat runs on core 0 of a cell, with an empty shadow store. -/
def RetSlot.ofThird (r : RetSlot) (c : Nat) : RetSlot := { r with third := some (4 * c), shadow := [], written := [] }
/-- The state as a third heat is about to start on core 0 of a cell: it waits no longer, the slot names the core, and the counter of
third heats has risen. -/
def State.takeThird (s : State) (part i c : Nat) (r : RetSlot) : State :=
  (((s.setPart part { s.part part with thirdQ := (s.part part).thirdQ.filter (fun j => j ≠ i) }).setSlot part i (r.ofThird c)).heatCount
    part 0x10).slotSync (dieOf (4 * c)) part i

section
variable {s : State} {part i : Nat}

theorem exec_thirdHeatStart_idle (hi : i ∉ (s.part part).thirdQ) : exec (.thirdHeatStart part i) s = .next s := by
  simp [exec, execThirdHeatStart, hi]
theorem exec_thirdHeatStart_starts {r : RetSlot} {c x : Nat} (hi : i ∈ (s.part part).thirdQ)
    (hr : SMap.find (s.part part).slots i = some r) (hc : s.checkCell part r.orig [r.checker.getD 0 / 4] = some c)
    (hd : (s.part part).det = false) (hruns : s.heatRuns part c = true) (hx : s.idleCtx (4 * c) = some x) :
    exec (.thirdHeatStart part i) s = .next ((s.takeThird part i c r).startHeat (16 * c + x) i (r.ofThird c) true) := by
  simp [exec, execThirdHeatStart, hi, hr, hc, hd, hruns, hx, State.takeThird, RetSlot.ofThird]

end

/-! ### The verdict (11 R247) -/

theorem agree_some_iff {d : Word × Word} {b : Option (Word × Word)} : agree (some d) b = true ↔ b = some d := by
  simp [agree, eq_comm]

section
variable {s : State} {part i : Nat}

theorem exec_checkVerdict_free (hr : SMap.find (s.part part).slots i = none) : exec (.checkVerdict part i) s = .next s := by
  simp only [exec, execCheckVerdict, hr, Option.any_none, Bool.false_eq_true, if_false]

variable {r : RetSlot} (hr : SMap.find (s.part part).slots i = some r)
include hr

theorem exec_checkVerdict_running (h2 : r.digest2 = none) : exec (.checkVerdict part i) s = .next s := by
  simp [exec, execCheckVerdict, hr, h2]
theorem exec_checkVerdict_thirdRunning (h3 : r.digest3 = none) (h : r.third.isSome = true ∨ i ∈ (s.part part).thirdQ) :
    exec (.checkVerdict part i) s = .next s := by
  have hw : (r.third.isSome || (s.part part).thirdQ.contains i) = true := by simpa using h
  cases h2 : r.digest2 with
  | none => exact exec_checkVerdict_running hr h2
  | some d2 =>
    simp only [exec, execCheckVerdict, hr, h2, h3, hw, Option.any_some, Option.isSome_some, Option.isSome_none, Bool.false_or,
      Bool.not_true, Bool.and_false, Bool.false_eq_true, if_false, if_true]
theorem exec_checkVerdict_agree {d : Word × Word} (h2 : r.digest2 = some (some d)) (h3 : r.digest3 = none) (hz : r.third = none)
    (ht : (s.part part).thirdQ = []) (h1 : r.digest = some d) :
    exec (.checkVerdict part i) s = .next (((s.slotSync 0 part i).heatCount part 0x08).freeSlotOf part i) := by
  simp [exec, execCheckVerdict, hr, h2, h3, hz, ht, h1, agree]

/-- With a third digest the verdict compares it with the original's, then with the checker's. -/
theorem exec_checkVerdict_third {d2 d3 : Option (Word × Word)} {y z : Nat} (h2 : r.digest2 = some d2) (h3 : r.digest3 = some d3)
    (hy : r.checker = some y) (hz : r.third = some z) :
    exec (.checkVerdict part i) s =
      let v := s.slotSync 0 part i
      if agree d3 r.digest then .next ((((v.setScore r.orig 0).setScore z 0).raise y 32).freeSlotOf part i)
      else if agree d3 d2 then .next ((((v.setScore y 0).setScore z 0).raise r.orig 32).freeSlotOf part i)
      else .next ((v.raise z 8).unresolved part i z r) := by
  simp [exec, execCheckVerdict, hr, h2, h3, hy, hz]

end

/-! ### The scores -/

theorem State.setScore_score_same (s : State) (core n : Nat) : (s.setScore core n).score core = min n 255 :=
  SMap.get_set_same _ _ _ _
/-- A score below 64 disqualifies no cell. -/
theorem State.raise_of_lt {s : State} {core n : Nat} (h : s.score core + n < 64) : s.raise core n = s.setScore core (s.score core + n) := by
  have hlow : (s.setScore core (s.score core + n)).score core < 64 := by rw [State.setScore_score_same]; omega
  simp [State.raise, hlow]
theorem exec_scoreDecay_waits {s : State} (h : s.completed < 2 ^ 20) : exec .scoreDecay s = .next s :=
  congrArg Host.Outcome.next (if_pos h)
theorem exec_scoreDecay_falls {s : State} (h : 2 ^ 20 ≤ s.completed) : exec .scoreDecay s =
    .next { s with completed := s.completed - 2 ^ 20, scores := s.scores.map (fun e => (e.1, e.2 - 1)) } :=
  congrArg Host.Outcome.next (if_neg (Nat.not_lt.2 h))

/-- Settles O51: the choice of the checking cell, then one equation of the step for each case. -/
theorem heatSteps : Obligations.HeatSteps := by
  unfold Obligations.HeatSteps
  intro s part
  refine ⟨?cell, exec_checkHeatStart_empty, ?start, fun i hr => exec_checkVerdict_free hr, ?verdict, ?score,
    fun i hi => exec_thirdHeatStart_idle hi, ?third, exec_scoreDecay_waits, ?decay, fun v => rfl⟩
  case cell =>
    intro orig l c h
    obtain ⟨⟨hcells, hvalid, hne, hnot⟩, hdie⟩ := State.checkCell_mayCheck h
    exact ⟨hcells, hne, hnot, hvalid, fun ⟨d, hdcells, hdne, hdnot, hdvalid, hother⟩ =>
      hdie ⟨d, ⟨hdcells, hdvalid, hdne, hdnot⟩, hother⟩⟩
  case start =>
    intro i rest r hq hr
    refine ⟨fun hd => exec_checkHeatStart_holds hq (.inr hd), fun ht => exec_checkHeatStart_holds hq (.inl ht),
      exec_checkHeatStart_dropped hq hr, fun c ht hc hp => ?_, fun c x ht hd hc hruns hp hl hx => ?_⟩
    · cases hd : (s.part part).det with
      | true => exact exec_checkHeatStart_holds hq (.inr hd)
      | false => exact exec_checkHeatStart_waits hq hr ht hd hc hp
    · refine ⟨_, exec_checkHeatStart_starts hq hr ht hd hc (State.heatRuns_of_runs hruns hp) hl hx, ?_, ?_,
        State.startHeat_ctx_same _ _ _ _ _⟩
      · rw [State.startHeat_part, State.takeCheck_part]
      · rw [State.startHeat_part, State.takeCheck_part, SMap.find_set_same]
  case verdict =>
    intro i r hr v
    refine ⟨exec_checkVerdict_running hr, exec_checkVerdict_thirdRunning hr,
      fun d h2 h3 hz ht h1 => exec_checkVerdict_agree hr h2 h3 hz ht h1, fun d y z h3 hy hz => ⟨?_, ?_, ?_⟩⟩
    · rintro h1 ⟨d2, h2⟩
      rw [exec_checkVerdict_third hr h2 h3 hy hz]
      exact if_pos (agree_some_iff.2 h1)
    · intro h1 h2
      rw [exec_checkVerdict_third hr h2 h3 hy hz]
      exact (if_neg fun h => h1 (agree_some_iff.1 h)).trans (if_pos (agree_some_iff.2 rfl))
    · intro d2 h1 h2 hne
      rw [exec_checkVerdict_third hr h2 h3 hy hz]
      exact (if_neg fun h => h1 (agree_some_iff.1 h)).trans (if_neg fun h => hne (agree_some_iff.1 h))
  case score => exact fun core n => ⟨s.setScore_score_same core n, State.raise_of_lt⟩
  case third =>
    intro i r c x hi hr hc hd hp hruns hx
    exact ⟨_, exec_thirdHeatStart_starts hi hr hc hd (State.heatRuns_of_runs hruns hp) hx, State.startHeat_ctx_same _ _ _ _ _⟩
  case decay =>
    intro h
    exact ⟨_, exec_scoreDecay_falls h, rfl, SMap.get_map (fun n => n - 1) 0 rfl s.scores⟩

end Sys2Proof.Machine
end
